-- ==== Sys2Proof/Word.lean ====
section
/-! DEFINITION. Words, bytes and little-endian strings of bytes (R13, R14, R15). -/

namespace Sys2Proof

/-- One byte of memory, of a packet or of a record. -/
abbrev Byte := BitVec 8

/-- A control register, a scalar register of a sequencer (R15, R60). -/
abbrev Word := BitVec 64

/-- A station command (R67). -/
abbrev Cmd := BitVec 128

/-- One 512-B row, or any other run of bytes, lowest address first. -/
abbrev Bytes := List Byte

/-- A table by number: entries of strictly rising key; a number with no entry holds the table's default value. Read
and written only through the operations of `Sys2Proof.Machine.Maps`. -/
abbrev SMap (α : Type) := List (Nat × α)

end Sys2Proof
end

