-- ==== Sys2Proof/Syntax.lean ====
section
/-! DEFINITION. The commands of the block: one constructor per row of the table of operations and events,
in the table's order, with the operands each row carries. A sequencer instruction carries the logical core that
executes it and the fields of its format (R62, R63). A station command carries the core alone: its 128 bits stand at
the head of its station's queue, where ISSUE or ISSUER put them (R50, R67, R68). A host command takes the packet at
the head of its queue (R431). An event carries the item it concerns and what the outside world supplies with it
(a sensor reading, the outcome of an ECC check, a block from another module). -/

namespace Sys2Proof

/-- The guard fields of a sequencer instruction: predicate `pg`, inverted by `pn` (R62). -/
structure Guard where
  pg : BitVec 3
  pn : Bool
  deriving DecidableEq, Repr

/-- The comparisons of PCMP, by function number (R65). -/
inductive Cmp where
  | eq | ne | lt | ge | ltu | geu
  deriving DecidableEq, Repr

/-- The operations of PLOGIC, by function number (R65). -/
inductive PLogic where
  | and | or | xor | andNot | not | copy
  deriving DecidableEq, Repr

/-- The tick named by WAIT_TICK: an immediate or a register (format W, R63). -/
inductive TickArg where
  | imm (t : BitVec 21)
  | reg (r : BitVec 5)
  deriving DecidableEq, Repr

/-- The six stations of a core, by the encoding of R49. -/
inductive Station where
  | fetch | matrix | vector | sparse | store | knead
  deriving DecidableEq, Repr

/-- The outcome of an ECC check on one access (R205, R235, R247). -/
inductive Ecc where
  | clean | corrected | uncorrectable
  deriving DecidableEq, Repr

/-- A sync cell: the pool, and within CLUSTER the cluster that holds it (R265, R267). -/
inductive CellRef where
  | cluster (c n : Nat)
  | module (n : Nat)
  | tray (n : Nat)
  | fabric (n : Nat)
  deriving DecidableEq, Repr

/-- Which pending Proof instance a release concerns: that of one cluster, or the module's wider one (R41). -/
inductive ProofInst where
  | cluster (c : Nat)
  | module
  deriving DecidableEq, Repr

/-- The two interfaces that carry command packets (R431, R444). -/
inductive Iface where
  | renkai | mgmt
  deriving DecidableEq, Repr

/-- The header block of a Lattice packet of `TYPE` 0x10 or above (R307). -/
structure LatHdr where
  epoch    : BitVec 32
  context  : BitVec 2
  src      : BitVec 10
  dst      : BitVec 10
  dcluster : BitVec 7
  tag      : BitVec 12
  row      : BitVec 7
  rows     : BitVec 7
  mismatch : Bool
  vid      : BitVec 20 := 0
  amount1  : BitVec 16 := 0
  ptag     : BitVec 16 := 0
  scope    : BitVec 2 := 0
  orWord   : BitVec 32 := 0
  andWord  : BitVec 32 := 0
  ftime    : BitVec 46 := 0
  deriving DecidableEq, Repr

/-- What the fabric root carries at an entry Proof for the comparison of R438 and R511. -/
structure RootLaunch where
  ttId      : BitVec 16
  flags     : BitVec 16
  holdLimit : BitVec 16
  deriving DecidableEq, Repr

/-- What a port finds at the end of training: lanes trained, its partner, the partner's lock, the measured latency
(R309, R312, R314, R525). -/
structure Training where
  lanes      : BitVec 8
  peerModule : BitVec 10
  peerPort   : BitVec 5
  locked     : Bool
  oneWay     : BitVec 16
  deriving DecidableEq, Repr

/-- The four temperature elements of the plausibility check, in 1/16 °C (R481). -/
structure Coolant where
  inlet0 : Int
  inlet1 : Int
  outlet0 : Int
  outlet1 : Int
  deriving DecidableEq, Repr

/-- One reading of every sensor of the thermal guard, in 1/16 °C and 1/16 K (R486). -/
structure GuardReading where
  junction  : List Int
  stack     : List Int
  regulator : List Int
  inlet     : Int
  rise      : Int
  deriving DecidableEq, Repr

/-- A crossing of the clock islands: its read-pointer distance k and its trim in 1/64 tick (R325). -/
structure Crossing where
  k    : Nat
  trim : Nat
  deriving DecidableEq, Repr

/-- The content of a configuration record, as far as the manual names it (R3, R8, R237, R325, R348, R455, R529). -/
structure ConfigRecord where
  version    : Nat
  stepping   : BitVec 8
  grade      : Nat
  optionS    : Bool
  enabled    : List Nat
  coreMap    : List (Nat × Nat)
  badCores   : List (Nat × Nat)
  disRouters : List (Nat × Nat)
  crossings  : List Crossing
  minFw      : BitVec 64
  signed     : Bool
  deriving DecidableEq, Repr

/-- What the physical world answers to the steps of SELF_CHECK: the known-answer tests, the flash copies of the images that do not
verify under the vendor key, the crossing margins and the stack and mesh tests (R448, R455, R482). A copy is named by its image, 1 to 3
as in `Config.image`, and by whether it is the one that ran last. -/
structure CheckOutcome where
  katFail    : Option Nat
  badCopies  : List (Nat × Bool)
  marginFail : Option Nat
  stacksOk   : Bool
  deriving DecidableEq, Repr

/-- How a long-running operation ends, as the unit that performs it reports it (R432, R434). -/
inductive OpEnd where
  | ok
  | failed (addr : Nat)
  | verifyFail
  deriving DecidableEq, Repr

/-- One constructor per row of the table of operations and events. -/
inductive Instr where
  -- sequencer arithmetic (R65)
  | add (k : Nat) (g : Guard) (rd ra rb : BitVec 5)
  | sub (k : Nat) (g : Guard) (rd ra rb : BitVec 5)
  | and (k : Nat) (g : Guard) (rd ra rb : BitVec 5)
  | or (k : Nat) (g : Guard) (rd ra rb : BitVec 5)
  | xor (k : Nat) (g : Guard) (rd ra rb : BitVec 5)
  | sll (k : Nat) (g : Guard) (rd ra rb : BitVec 5)
  | srl (k : Nat) (g : Guard) (rd ra rb : BitVec 5)
  | sra (k : Nat) (g : Guard) (rd ra rb : BitVec 5)
  | min (k : Nat) (g : Guard) (rd ra rb : BitVec 5)
  | max (k : Nat) (g : Guard) (rd ra rb : BitVec 5)
  | minu (k : Nat) (g : Guard) (rd ra rb : BitVec 5)
  | maxu (k : Nat) (g : Guard) (rd ra rb : BitVec 5)
  | mul (k : Nat) (g : Guard) (rd ra rb : BitVec 5)
  | mulh (k : Nat) (g : Guard) (rd ra rb : BitVec 5)
  | mulhu (k : Nat) (g : Guard) (rd ra rb : BitVec 5)
  | addi (k : Nat) (g : Guard) (rd ra : BitVec 5) (imm : BitVec 12)
  | andi (k : Nat) (g : Guard) (rd ra : BitVec 5) (imm : BitVec 12)
  | ori (k : Nat) (g : Guard) (rd ra : BitVec 5) (imm : BitVec 12)
  | xori (k : Nat) (g : Guard) (rd ra : BitVec 5) (imm : BitVec 12)
  | slli (k : Nat) (g : Guard) (rd ra : BitVec 5) (sh : BitVec 6)
  | srli (k : Nat) (g : Guard) (rd ra : BitVec 5) (sh : BitVec 6)
  | srai (k : Nat) (g : Guard) (rd ra : BitVec 5) (sh : BitVec 6)
  | ldimm (k : Nat) (g : Guard) (rd ra : BitVec 5) (imm : BitVec 12)
  | ld (k : Nat) (g : Guard) (rd ra : BitVec 5) (width : BitVec 2) (off : BitVec 10)
  | lds (k : Nat) (g : Guard) (rd ra : BitVec 5) (width : BitVec 2) (off : BitVec 10)
  | st (k : Nat) (g : Guard) (rs ra : BitVec 5) (width : BitVec 2) (off : BitVec 10)
  | pcmp (k : Nat) (g : Guard) (pd : BitVec 3) (ra rb : BitVec 5) (fn : Cmp)
  | plogic (k : Nat) (g : Guard) (pd pa pb : BitVec 3) (fn : PLogic)
  | pget (k : Nat) (g : Guard) (rd : BitVec 5) (pa : BitVec 3)
  | br (k : Nat) (g : Guard) (off : BitVec 17)
  | beqz (k : Nat) (g : Guard) (ra : BitVec 5) (off : BitVec 17)
  | bnez (k : Nat) (g : Guard) (ra : BitVec 5) (off : BitVec 17)
  | bpt (k : Nat) (g : Guard) (p : BitVec 3) (off : BitVec 17)
  | bpf (k : Nat) (g : Guard) (p : BitVec 3) (off : BitVec 17)
  | call (k : Nat) (g : Guard) (off : BitVec 17)
  | ret (k : Nat) (g : Guard)
  | endProg (k : Nat) (g : Guard)
  -- issue, waits and link configuration (R63, R68, R71, R74, R78)
  | issue (k : Nat) (g : Guard) (b : Bool) (ra : BitVec 5) (off : BitVec 16)
  | issuer (k : Nat) (g : Guard) (b : Bool) (ra rb : BitVec 5)
  | bundleIssueAfterWait (k : Nat)
  | waitTick (k : Nat) (g : Guard) (t : TickArg)
  | drain (k : Nat) (g : Guard) (mask : BitVec 6)
  | drainComplete (k : Nat)
  | flagclr (k : Nat) (g : Guard)
  | flagclrExecute (k : Nat)
  | linkcfg (k : Nat) (g : Guard) (ra : BitVec 5) (n : BitVec 4)
  -- Proofs (R41, R42, R438)
  | proof (k : Nat) (g : Guard) (scope : BitVec 2) (orSrc andSrc orDst andDst : BitVec 5) (tag : BitVec 16)
  | proofReach (k : Nat)
  | proofRelease (i : ProofInst)
  | entryProofArrival (root : Option RootLaunch)
  -- sync objects and channels (R260–R283)
  | sig (k : Nat) (g : Guard) (ra : BitVec 5) (n1 : BitVec 16)
  | wait (k : Nat) (g : Guard) (ra : BitVec 5) (n1 : BitVec 16)
  | signalApply (cell : CellRef)
  | waitArrival (k : Nat)
  | waiterResume (k : Nat)
  | lateCtlHold (c : Nat)
  | send (k : Nat) (g : Guard) (ep : BitVec 3) (ra rb : BitVec 5)
  | channelMessageWrite (k : Nat)
  | sendComplete (k : Nat)
  | recv (k : Nat) (g : Guard) (ep : BitVec 3) (rd : BitVec 5)
  | recvWake (k : Nat)
  | release (k : Nat) (g : Guard) (ep : BitVec 3)
  | halt (k : Nat) (g : Guard)
  | undefinedOpcode (k : Nat) (w : BitVec 32)
  -- writes of CORE.CTRL at a physical site (R83, R84, R90)
  | faultClear (c slot : Nat)
  | resume (c slot : Nat)
  | haltReq (c slot : Nat)
  -- MATRIX (R126)
  | setmode (k : Nat)
  | load (k : Nat)
  | loadb (k : Nat)
  | loadpair (k : Nat)
  | load32 (k : Nat)
  | stream (k : Nat)
  | streami (k : Nat)
  | stream32 (k : Nat)
  | streamc (k : Nat)
  | matrixSetidx (k : Nat)
  | matrixDrain (k : Nat)
  | accumulationComplete (k a b : Nat)
  | interlockRelease (k : Nat) (st : Station)
  -- VECTOR (R161)
  | vectorCommandStart (k : Nat)
  | vectorAdd (k : Nat)
  | vectorSub (k : Nat)
  | vectorMul (k : Nat)
  | axpy (k : Nat)
  | vectorMax (k : Nat)
  | vectorMin (k : Nat)
  | abs (k : Nat)
  | neg (k : Nat)
  | cmpgt (k : Nat)
  | rcp (k : Nat)
  | rsqrt (k : Nat)
  | sqrt (k : Nat)
  | exp2 (k : Nat)
  | log2 (k : Nat)
  | sigmoid (k : Nat)
  | silu (k : Nat)
  | tanh (k : Nat)
  | rowdot (k : Nat)
  | colsum (k : Nat)
  | rowmax (k : Nat)
  | rownorm (k : Nat)
  | smaxFwd (k : Nat)
  | smaxRescale (k : Nat)
  | smaxNorm (k : Nat)
  | smaxRecomp (k : Nat)
  | smaxDs (k : Nat)
  | statout (k : Nat)
  | statin (k : Nat)
  | statclr (k : Nat)
  | lvbase (k : Nat)
  | dropout (k : Nat)
  | randU (k : Nat)
  | randN (k : Nat)
  | convert (k : Nat)
  | packz (k : Nat)
  | unpackz (k : Nat)
  | compact (k : Nat)
  | copy (k : Nat)
  | tapout (k : Nat)
  | tapclr (k : Nat)
  | vectorSetidx (k : Nat)
  | drawPhaseStart (k : Nat)
  -- SPARSE (R199)
  | setb (k : Nat)
  | sxload (k : Nat)
  | spmm (k : Nat)
  | sparseAccumulationComplete (k set : Nat)
  | sparseSetidx (k : Nat)
  | sparseDrain (k : Nat)
  -- FETCH and STORE (R223); the outcome of the corrector for each row read, in order (R205)
  | rd (k : Nat) (ecc : List Ecc)
  | fill (k : Nat)
  | rdrop (k : Nat)
  | wr (k : Nat)
  | acc (k : Nat) (ecc : List Ecc)
  | wback (k : Nat)
  | dmaEntryRelease (k id : Nat)
  | dmaRowArrival (pid : Nat)
  | dmaBankAccessStart (c bank : Nat) (ecc : Ecc)
  | wbackAckArrival (pid : Nat)
  -- station events (R52–R54, R70)
  | tileFilled (k : Nat) (st : Station)
  | slotFreed (k : Nat) (n : BitVec 4)
  | stationWaitRelease (k : Nat) (st : Station)
  | transferRetire (k : Nat) (st : Station)
  -- KNEAD and Braid (R291–R304)
  | ksend (k : Nat)
  | ksendRowAccept (k target : Nat)
  | krecv (k : Nat)
  | kneadRowArrival (pid : Nat)
  | landingRowWrite (lid : Nat)
  | binj (k : Nat)
  | braidTileArrival (k : Nat)
  | braidForward (k : Nat)
  -- mesh, stacks and watchdog (R235, R245–R250, R285)
  | routerPacketArrival (pid : Nat) (ecc : Ecc)
  | stackRequest (s : Nat) (ecc : Ecc)
  | dramRefresh (s : Nat)
  | maintSlotOpen (i : Nat)
  | maintSlotClose (i : Nat)
  | backgroundScrub (s : Nat) (ecc : Ecc)
  | progressWatchdog (pid : Nat)
  -- Holds and meters (R330–R335, R362)
  | holdFreeze (c : Nat)
  | holdThaw (c : Nat)
  | holdLimit
  | braidCreditCauseClear (c : Nat)
  | thermalCauseClear
  | powerOverdraw (budget : Option Nat)
  | overdrawCauseClear (budget : Option Nat)
  -- Lattice (R307, R308, R316–R319, R322)
  | latticeRow (port : Nat) (h : LatHdr) (row : Bytes)
  | latticeSig (port : Nat) (h : LatHdr)
  | latticeProofArrive (port : Nat) (h : LatHdr)
  | latticeProofRelease (port : Nat) (h : LatHdr)
  | fabricProofReleaseTime
  | latticeAck (port : Nat) (fseq : BitVec 12) (credits : BitVec 8)
  | latticeNak (port : Nat) (fseq : BitVec 12)
  | latticeStale (port : Nat) (epoch : BitVec 32)
  | latticeIdle (port : Nat)
  | latticeCodewordUncorrectable (port : Nat)
  | portTrainingComplete (port : Nat) (t : Training)
  -- observation, trace, monitors (R408, R411, R414, R417, R418)
  | snapshotRecordArrival (row : Bytes)
  | traceRowWrite (k : Nat)
  | plannedTraceTurn (k : Nat)
  | monitorLevelSample (readings : List Nat)
  | monitorWindowSample
  | monLatch (m : BitVec 6)
  | monClear (m : BitVec 6)
  | monLatchClear (m : BitVec 6)
  -- Renkai Link and command packets (R425, R426, R431)
  | commandPacketArrival (i : Iface) (pkt : Bytes)
  | hostLinkAck (fseq : BitVec 12) (hdrCredits : Nat) (payCredits : Nat)
  | hostLinkNak (fseq : BitVec 12)
  | hostFillFrame
  | hostCodewordUncorrectable
  | hostLinkRetrain (trained : Bool)
  -- host commands, each the packet at the head of its queue (R434)
  | identify
  | echo
  | regRead
  | regWrite
  | resetWarm
  | resetCold
  | resetShutdown
  | events
  | ctxLoad
  | jobLaunch
  | jobAbort
  | abortPoint (ctx : BitVec 2)
  | abortReply (ctx : BitVec 2)
  | ctxSwitch
  | ctxRestore
  | ctxFree
  | ctxStatus
  | starterArm
  | starterSummary
  | starterRelease
  | bulkWrite
  | bulkRead (ecc : List Ecc)
  | bulkFill
  | traceCtl
  | attestReport
  | attestCertificate
  | sessionOpen
  | sessionClose
  | releaseList
  | lifecycleProvision
  | lifecycleDeploy
  | lifecycleRetire
  | sealedLock
  | rekey
  | rekeyChunkComplete
  | scrub
  | memtest
  | fwUpdate
  | configWrite (r : ConfigRecord)
  | configApplyReset
  | opStatus
  | opCancel
  | cancelPoint (op : BitVec 32)
  | operationComplete (op : BitVec 32) (e : OpEnd)
  | fabricBringup
  | portRetrain
  | portDisable
  | epochSet
  | contextDone (ctx : BitVec 2)
  -- MCTP control messages on the management port (R444)
  | setEndpointId (src : Byte) (eid : Byte)
  | getEndpointId (src : Byte)
  | getMctpVersionSupport (src : Byte)
  | getMessageTypeSupport (src : Byte)
  | getVendorDefinedMessageSupport (src : Byte)
  -- power, cooling, start-up, guard, tamper, Crumb Log (R478–R490, R498)
  | inputPowerStable (mV : Nat)
  | inputBelowAux (mV : Nat)
  | inputOutOfRange (mV : Nat)
  | coolantOkStable (r : Coolant)
  | plausibilityRetry (r : Coolant)
  | coolantOkLoss
  | resetNRelease
  | selfCheck (o : CheckOutcome)
  | thermalGuardReading (r : GuardReading)
  | thermalRaise
  | crossingMarginLost (x : Nat)
  | crossingTrimStep (x : Nat) (up : Bool)
  | mgmtWatchdogExpiry
  | tamperResponse (sensor : Nat)
  | crumbFlashCommit (seq : Nat)
  | auxiliaryDomainStart (mV : Nat)
  | portLaneLoss (port : Nat) (lanes : BitVec 8)
  | latticeReplayFrame (port : Nat) (fseq : BitVec 12)
  | hostReplayFrame (fseq : BitVec 12)
  deriving DecidableEq, Repr

end Sys2Proof
end

