-- ==== Sys2Proof/Decode.lean ====
section
/-! DEFINITION. The decoder of sequencer instruction words (R62–R65, R276), an encoder written from the same tables, and
the commands that words of the table spell. The table of operations and events gives no row bits of its own: a sequencer
word is fetched by its core and decoded here, a station command travels in 128 bits (R67), and a host command in a packet
(R427). -/

namespace Sys2Proof

/-! ### Sequencer words -/

/-- Field `[lo + n - 1 : lo]` of an instruction word. -/
def wordField (w : BitVec 32) (lo n : Nat) : BitVec n := w.extractLsb' lo n

/-- A field of an instruction word that the format shows as 0 (R65). -/
def zeroField (w : BitVec 32) (lo n : Nat) : Bool := wordField w lo n == 0

/-- The guard of an instruction word (R62). -/
def wordGuard (w : BitVec 32) : Guard := ⟨wordField w 29 3, w.getLsbD 28⟩

/-- The comparison that a function number of PCMP names (R65). -/
def cmpOf : Nat → Option Cmp
  | 0 => some .eq | 1 => some .ne | 2 => some .lt | 3 => some .ge | 4 => some .ltu | 5 => some .geu
  | _ => none

/-- The operation that a function number of PLOGIC names (R65). -/
def plogicOf : Nat → Option PLogic
  | 0 => some .and | 1 => some .or | 2 => some .xor | 3 => some .andNot | 4 => some .not | 5 => some .copy
  | _ => none

/-- An instruction whose fields that must be 0 are 0 (R65). -/
def whenZero (b : Bool) (i : Instr) : Option Instr := if b then some i else none

/-- The instruction that a word names for core `k`, with the word after it, which only PROOF reads; none for an undefined
or reserved opcode, a reserved function, or a field that must be 0 and is not (R62–R65, R276). -/
def seqDecode (k : Nat) (w w1 : BitVec 32) : Option Instr :=
  let g := wordGuard w
  let rd := wordField w 17 5
  let ra := wordField w 12 5
  let rb := wordField w 7 5
  let fn := zeroField w 0 7
  let imm := wordField w 0 12
  let sh := wordField w 0 6
  let shOk := zeroField w 6 6
  let width := wordField w 10 2
  let lsOff := wordField w 0 10
  let off := wordField w 0 17
  let fa := zeroField w 17 5
  let n := zeroField w 0 22
  let n1 := wordField w 0 16
  let ep := wordField w 19 3
  match (wordField w 22 6).toNat with
  | 0x00 => whenZero fn (.add k g rd ra rb)
  | 0x01 => whenZero fn (.sub k g rd ra rb)
  | 0x02 => whenZero fn (.and k g rd ra rb)
  | 0x03 => whenZero fn (.or k g rd ra rb)
  | 0x04 => whenZero fn (.xor k g rd ra rb)
  | 0x05 => whenZero fn (.sll k g rd ra rb)
  | 0x06 => whenZero fn (.srl k g rd ra rb)
  | 0x07 => whenZero fn (.sra k g rd ra rb)
  | 0x08 => whenZero fn (.min k g rd ra rb)
  | 0x09 => whenZero fn (.max k g rd ra rb)
  | 0x0A => whenZero fn (.minu k g rd ra rb)
  | 0x0B => whenZero fn (.maxu k g rd ra rb)
  | 0x0C => whenZero fn (.mul k g rd ra rb)
  | 0x0D => whenZero fn (.mulh k g rd ra rb)
  | 0x0E => whenZero fn (.mulhu k g rd ra rb)
  | 0x10 => some (.addi k g rd ra imm)
  | 0x11 => some (.andi k g rd ra imm)
  | 0x12 => some (.ori k g rd ra imm)
  | 0x13 => some (.xori k g rd ra imm)
  | 0x14 => whenZero shOk (.slli k g rd ra sh)
  | 0x15 => whenZero shOk (.srli k g rd ra sh)
  | 0x16 => whenZero shOk (.srai k g rd ra sh)
  | 0x17 => some (.ldimm k g rd ra imm)
  | 0x18 => some (.ld k g rd ra width lsOff)
  | 0x19 => some (.lds k g rd ra width lsOff)
  | 0x1A => some (.st k g rd ra width lsOff)
  | 0x1C => (cmpOf (wordField w 0 7).toNat).bind fun f => whenZero (zeroField w 20 2) (.pcmp k g (wordField w 17 3) ra rb f)
  | 0x1D => (plogicOf (wordField w 0 7).toNat).map fun f =>
      .plogic k g (wordField w 17 3) (wordField w 12 3) (wordField w 7 3) f
  | 0x1E => whenZero (fn && zeroField w 7 5) (.pget k g rd (wordField w 12 3))
  | 0x20 => whenZero fa (.br k g off)
  | 0x21 => some (.beqz k g rd off)
  | 0x22 => some (.bnez k g rd off)
  | 0x23 => whenZero (zeroField w 20 2) (.bpt k g (wordField w 17 3) off)
  | 0x24 => whenZero (zeroField w 20 2) (.bpf k g (wordField w 17 3) off)
  | 0x25 => whenZero fa (.call k g off)
  | 0x26 => whenZero n (.ret k g)
  | 0x27 => whenZero n (.endProg k g)
  | 0x28 => some (.issue k g (w.getLsbD 21) (wordField w 16 5) n1)
  | 0x29 => some (.issuer k g (w.getLsbD 21) (wordField w 16 5) (wordField w 11 5))
  | 0x2A => some (.waitTick k g (if w.getLsbD 21 then .reg (wordField w 16 5) else .imm (wordField w 0 21)))
  | 0x2B => whenZero (zeroField w 0 16) (.drain k g (wordField w 16 6))
  | 0x2C => whenZero n (.flagclr k g)
  | 0x2D => whenZero (fa && zeroField w 4 8) (.linkcfg k g ra (wordField w 0 4))
  | 0x30 => whenZero (zeroField w1 0 16)
      (.proof k g (wordField w 20 2) (wordField w 15 5) (wordField w 10 5) (wordField w 5 5) (wordField w 0 5)
        (wordField w1 16 16))
  | 0x31 => whenZero (zeroField w 16 1) (.sig k g rd n1)
  | 0x32 => whenZero (zeroField w 16 1) (.wait k g rd n1)
  | 0x33 => whenZero (zeroField w 0 9) (.send k g ep (wordField w 14 5) (wordField w 9 5))
  | 0x34 => whenZero (zeroField w 0 14) (.recv k g ep (wordField w 14 5))
  | 0x35 => whenZero (zeroField w 0 19) (.release k g ep)
  | 0x3F => whenZero n (.halt k g)
  | _ => none

/-- An instruction word from its guard, its opcode and its operands (R62). -/
def seqWord (g : Guard) (op : BitVec 6) (x : BitVec 22) : BitVec 32 := g.pg ++ BitVec.ofBool g.pn ++ op ++ x

/-- Operands of format R (R63). -/
def fmtR (rd ra rb : BitVec 5) (fn : BitVec 7) : BitVec 22 := rd ++ ra ++ rb ++ fn
/-- Operands of format I (R63). -/
def fmtI (rd ra : BitVec 5) (imm : BitVec 12) : BitVec 22 := rd ++ ra ++ imm
/-- Operands of format L (R63). -/
def fmtL (rd ra : BitVec 5) (width : BitVec 2) (off : BitVec 10) : BitVec 22 := rd ++ ra ++ width ++ off
/-- Operands of format B (R63). -/
def fmtB (ra : BitVec 5) (off : BitVec 17) : BitVec 22 := ra ++ off
/-- Operands of SEND, RECV and RELEASE (R276). -/
def fmtE (ep : BitVec 3) (r rb : BitVec 5) : BitVec 22 := ep ++ r ++ rb ++ 0#9

/-- The function number of a comparison (R65). -/
def cmpNum : Cmp → BitVec 7
  | .eq => 0 | .ne => 1 | .lt => 2 | .ge => 3 | .ltu => 4 | .geu => 5
/-- The function number of a predicate operation (R65). -/
def plogicNum : PLogic → BitVec 7
  | .and => 0 | .or => 1 | .xor => 2 | .andNot => 3 | .not => 4 | .copy => 5
/-- A predicate in a register field. -/
def pField (p : BitVec 3) : BitVec 5 := 0#2 ++ p

/-- The core and the words of a sequencer instruction: the word itself and the word after it, which is 0 but for PROOF;
none for the commands that no word names (R62–R65, R276). -/
def seqEncode : Instr → Option (Nat × BitVec 32 × BitVec 32)
  | .add k g rd ra rb => some (k, seqWord g 0x00 (fmtR rd ra rb 0), 0)
  | .sub k g rd ra rb => some (k, seqWord g 0x01 (fmtR rd ra rb 0), 0)
  | .and k g rd ra rb => some (k, seqWord g 0x02 (fmtR rd ra rb 0), 0)
  | .or k g rd ra rb => some (k, seqWord g 0x03 (fmtR rd ra rb 0), 0)
  | .xor k g rd ra rb => some (k, seqWord g 0x04 (fmtR rd ra rb 0), 0)
  | .sll k g rd ra rb => some (k, seqWord g 0x05 (fmtR rd ra rb 0), 0)
  | .srl k g rd ra rb => some (k, seqWord g 0x06 (fmtR rd ra rb 0), 0)
  | .sra k g rd ra rb => some (k, seqWord g 0x07 (fmtR rd ra rb 0), 0)
  | .min k g rd ra rb => some (k, seqWord g 0x08 (fmtR rd ra rb 0), 0)
  | .max k g rd ra rb => some (k, seqWord g 0x09 (fmtR rd ra rb 0), 0)
  | .minu k g rd ra rb => some (k, seqWord g 0x0A (fmtR rd ra rb 0), 0)
  | .maxu k g rd ra rb => some (k, seqWord g 0x0B (fmtR rd ra rb 0), 0)
  | .mul k g rd ra rb => some (k, seqWord g 0x0C (fmtR rd ra rb 0), 0)
  | .mulh k g rd ra rb => some (k, seqWord g 0x0D (fmtR rd ra rb 0), 0)
  | .mulhu k g rd ra rb => some (k, seqWord g 0x0E (fmtR rd ra rb 0), 0)
  | .addi k g rd ra imm => some (k, seqWord g 0x10 (fmtI rd ra imm), 0)
  | .andi k g rd ra imm => some (k, seqWord g 0x11 (fmtI rd ra imm), 0)
  | .ori k g rd ra imm => some (k, seqWord g 0x12 (fmtI rd ra imm), 0)
  | .xori k g rd ra imm => some (k, seqWord g 0x13 (fmtI rd ra imm), 0)
  | .slli k g rd ra sh => some (k, seqWord g 0x14 (fmtI rd ra (0#6 ++ sh)), 0)
  | .srli k g rd ra sh => some (k, seqWord g 0x15 (fmtI rd ra (0#6 ++ sh)), 0)
  | .srai k g rd ra sh => some (k, seqWord g 0x16 (fmtI rd ra (0#6 ++ sh)), 0)
  | .ldimm k g rd ra imm => some (k, seqWord g 0x17 (fmtI rd ra imm), 0)
  | .ld k g rd ra width off => some (k, seqWord g 0x18 (fmtL rd ra width off), 0)
  | .lds k g rd ra width off => some (k, seqWord g 0x19 (fmtL rd ra width off), 0)
  | .st k g rs ra width off => some (k, seqWord g 0x1A (fmtL rs ra width off), 0)
  | .pcmp k g pd ra rb f => some (k, seqWord g 0x1C (fmtR (pField pd) ra rb (cmpNum f)), 0)
  | .plogic k g pd pa pb f => some (k, seqWord g 0x1D (fmtR (pField pd) (pField pa) (pField pb) (plogicNum f)), 0)
  | .pget k g rd pa => some (k, seqWord g 0x1E (fmtR rd (pField pa) 0 0), 0)
  | .br k g off => some (k, seqWord g 0x20 (fmtB 0 off), 0)
  | .beqz k g ra off => some (k, seqWord g 0x21 (fmtB ra off), 0)
  | .bnez k g ra off => some (k, seqWord g 0x22 (fmtB ra off), 0)
  | .bpt k g p off => some (k, seqWord g 0x23 (fmtB (pField p) off), 0)
  | .bpf k g p off => some (k, seqWord g 0x24 (fmtB (pField p) off), 0)
  | .call k g off => some (k, seqWord g 0x25 (fmtB 0 off), 0)
  | .ret k g => some (k, seqWord g 0x26 0, 0)
  | .endProg k g => some (k, seqWord g 0x27 0, 0)
  | .issue k g b ra off => some (k, seqWord g 0x28 (BitVec.ofBool b ++ ra ++ off), 0)
  | .issuer k g b ra rb => some (k, seqWord g 0x29 (BitVec.ofBool b ++ ra ++ rb ++ 0#11), 0)
  | .waitTick k g (.imm t) => some (k, seqWord g 0x2A (0#1 ++ t), 0)
  | .waitTick k g (.reg r) => some (k, seqWord g 0x2A (1#1 ++ r ++ 0#16), 0)
  | .drain k g mask => some (k, seqWord g 0x2B (mask ++ 0#16), 0)
  | .flagclr k g => some (k, seqWord g 0x2C 0, 0)
  | .linkcfg k g ra n => some (k, seqWord g 0x2D (fmtI 0 ra (0#8 ++ n)), 0)
  | .proof k g scope orSrc andSrc orDst andDst tag =>
    some (k, seqWord g 0x30 (scope ++ orSrc ++ andSrc ++ orDst ++ andDst), tag ++ 0#16)
  | .sig k g ra n1 => some (k, seqWord g 0x31 (ra ++ 0#1 ++ n1), 0)
  | .wait k g ra n1 => some (k, seqWord g 0x32 (ra ++ 0#1 ++ n1), 0)
  | .send k g ep ra rb => some (k, seqWord g 0x33 (fmtE ep ra rb), 0)
  | .recv k g ep rd => some (k, seqWord g 0x34 (fmtE ep rd 0), 0)
  | .release k g ep => some (k, seqWord g 0x35 (fmtE ep 0 0), 0)
  | .halt k g => some (k, seqWord g 0x3F 0, 0)
  | _ => none

/-! ### Words of the table -/

/-- The command that a word spells by the table's bits: none, for no row of the table has bits. -/
def decodeTableWord (_nbits _w : Nat) : Option Instr := none

end Sys2Proof
end

