-- ==== Sys2Proof/Machine/Fp.lean ====
section
/-! DEFINITION. Number formats and arithmetic to the bit: decoding and encoding of the nine formats (R130–R135),
conversion with its rounding modes (R139–R145), FP32 arithmetic with round-to-nearest-even (R109, R110, R157), and the
correctly rounded functions of R158. Every value is exact until it is rounded: a finite number is a sign, a natural
number and an exponent of two. -/

namespace Sys2Proof.Machine

/-- A decoded element: a NaN, an infinity, or (−1)^neg · m · 2^e. -/
inductive Fv where
  | nan
  | inf (neg : Bool)
  | fin (neg : Bool) (m : Nat) (e : Int)
  deriving DecidableEq, Repr

/-- Rounding: to nearest even, toward zero, or stochastic with `b` random bits of value `r` (R140, R145). -/
inductive Rnd where
  | rne
  | rtz
  | sr (b r : Nat)
  deriving DecidableEq, Repr

/-! ### Formats by their codes (R125, R130) -/

/-- Mantissa bits. -/
def fmtMan : Nat → Nat
  | 0 => 23 | 1 => 7 | 2 => 10 | 3 => 3 | 4 => 2 | 5 => 2 | 6 => 3 | 7 => 1 | _ => 0

/-- Exponent bits. -/
def fmtExp : Nat → Nat
  | 0 => 8 | 1 => 8 | 2 => 5 | 3 => 4 | 4 => 5 | 5 => 3 | 6 => 2 | 7 => 2 | _ => 0

/-- Exponent bias. -/
def fmtBias : Nat → Int
  | 0 => 127 | 1 => 127 | 2 => 15 | 3 => 7 | 4 => 15 | 5 => 3 | 6 => 1 | 7 => 1 | _ => 0

/-- Encoding of the largest finite magnitude. -/
def fmtMax : Nat → Nat
  | 0 => 0x7F7FFFFF | 1 => 0x7F7F | 2 => 0x7BFF | 3 => 0x7E | 4 => 0x7B | 5 => 0x1F | 6 => 0x1F | 7 => 0x7 | _ => 127

/-- The sign bit's place. -/
def fmtSign : Nat → Nat
  | 0 => 31 | 1 => 15 | 2 => 15 | 3 => 7 | 4 => 7 | 5 => 5 | 6 => 5 | 7 => 3 | _ => 7

/-- Encoding of positive infinity, in the formats that have one (R132). -/
def fmtInf : Nat → Option Nat
  | 0 => some 0x7F800000 | 1 => some 0x7F80 | 2 => some 0x7C00 | 4 => some 0x7C | _ => none

/-- The NaN that a station produces, in the formats that have one (R132, R133). -/
def fmtNaN : Nat → Option Nat
  | 0 => some 0x7FC00000 | 1 => some 0x7FC0 | 2 => some 0x7E00 | 3 => some 0x7F | 4 => some 0x7E | _ => none

/-- Bytes of a tile of a format, and of a slot that carries it (R46, R125). -/
def fmtTile : Nat → Nat
  | 0 => 4096 | 1 => 2048 | 2 => 2048 | 7 => 512 | _ => 1024

/-- The format codes that are defined (R125). -/
def fmtOk (f : Nat) : Bool := decide (f ≤ 8)

/-- The exponent of the smallest subnormal. -/
def fmtLow (f : Nat) : Int := 1 - fmtBias f - (fmtMan f : Int)

/-! ### Decoding (R131, R132, R134, R135) -/

/-- The value of an encoding; pad bits of FP6 are ignored. -/
def decode (f enc : Nat) : Fv :=
  if f = 8 then
    let v := enc % 256
    if v < 128 then .fin false v 0 else .fin true (256 - v) 0
  else
    let neg := enc.testBit (fmtSign f)
    let mag := enc % 2 ^ fmtSign f
    let man := mag % 2 ^ fmtMan f
    let ex := mag / 2 ^ fmtMan f
    if fmtInf f = some mag then .inf neg
    else if fmtMax f < mag && (fmtNaN f).isSome then .nan
    else if ex = 0 then .fin neg man (fmtLow f)
    else .fin neg (2 ^ fmtMan f + man) (fmtLow f + (ex : Int) - 1)

/-! ### Encoding a finite value (R141, R145) -/

/-- Position of the leading one of m · 2^e. -/
def leadExp (m : Nat) (e : Int) : Int := (Nat.log2 m : Int) + e

/-- m · 2^e over the quantum 2^q, in whole quanta rounded as `r` says; exact values are left as they are. -/
def quantize (r : Rnd) (m : Nat) (e q : Int) : Nat :=
  if q ≤ e then m * 2 ^ (e - q).toNat
  else
    let d := (q - e).toNat
    let lo := m / 2 ^ d
    let rem := m % 2 ^ d
    match r with
    | .rtz => lo
    | .rne => if 2 ^ d < 2 * rem || (2 * rem == 2 ^ d && lo % 2 == 1) then lo + 1 else lo
    | .sr b x => if x < (2 ^ (b + 1) * rem + 2 ^ d) / 2 ^ (d + 1) then lo + 1 else lo

/-- The quantum of a value in a floating-point format. -/
def quantum (f m : Nat) (e : Int) : Int := max (leadExp m e - (fmtMan f : Int)) (fmtLow f)

/-- The magnitude's encoding before the overflow rule. -/
def encMag (f : Nat) (r : Rnd) (m : Nat) (e : Int) : Nat :=
  if m = 0 then 0
  else
    let q := quantum f m e
    quantize r m e q + (q - fmtLow f).toNat * 2 ^ fmtMan f

/-- The magnitude exceeds the largest finite value of the format. -/
def overLargest (f m : Nat) (e : Int) : Bool :=
  let t := encMag f .rtz m e
  if m = 0 then false
  else fmtMax f < t || (t == fmtMax f &&
    decide (quantum f m e > e) && m % 2 ^ (quantum f m e - e).toNat != 0)

/-- Put a sign on a magnitude's encoding. -/
def withSign (f : Nat) (neg : Bool) (mag : Nat) : Nat := if neg then mag + 2 ^ fmtSign f else mag

/-- A finite value in a floating-point format, with the overflow rules of R141. -/
def encodeFin (f : Nat) (r : Rnd) (neg : Bool) (m : Nat) (e : Int) : Nat :=
  let mag :=
    if overLargest f m e then
      match fmtInf f, r with
      | none, _ => fmtMax f
      | some _, .rtz => fmtMax f
      | some i, _ => if fmtMax f < encMag f .rne m e then i else fmtMax f
    else encMag f r m e
  withSign f neg mag

/-- A finite value in INT8 (R141). The largest finite magnitude is taken as 127 upward and 128 downward, so a value between
−128 and −127 lies in range and is rounded (DEDUCED, log entry 91). -/
def encodeInt8 (r : Rnd) (neg : Bool) (m : Nat) (e : Int) : Nat :=
  let v := quantize r m e 0
  if neg then (256 - min v 128) % 256 else min v 127

/-- Any value in any format, under R141 and R142. -/
def encode (f : Nat) (r : Rnd) : Fv → Nat
  | .nan => (fmtNaN f).getD 0
  | .inf neg =>
    if f = 8 then (if neg then 128 else 127)
    else match fmtInf f, fmtNaN f with
      | some i, _ => withSign f neg i
      | none, some n => n
      | none, none => withSign f neg (fmtMax f)
  | .fin neg m e => if f = 8 then encodeInt8 r neg m e else encodeFin f r neg m e

/-- The encoding is a NaN or an infinity of its format (R148). -/
def encNonFinite (f enc : Nat) : Bool :=
  match decode f enc with
  | .fin _ _ _ => false
  | _ => true

/-! ### FP32 arithmetic, each step rounded to nearest even (R109, R110, R157) -/

/-- An FP32 word. -/
abbrev F32 := BitVec 32

/-- Decode an FP32 word. -/
def dec32 (a : F32) : Fv := decode 0 a.toNat

/-- Round a value to an FP32 word. -/
def enc32 (v : Fv) : F32 := BitVec.ofNat 32 (encode 0 .rne v)

/-- The exact FP32 word of an element (R139, R157). -/
def toF32 (f enc : Nat) : F32 := enc32 (decode f enc)

/-- The sum of two decoded values, exact. -/
def addV : Fv → Fv → Fv
  | .nan, _ => .nan
  | _, .nan => .nan
  | .inf a, .inf b => if a = b then .inf a else .nan
  | .inf a, _ => .inf a
  | _, .inf b => .inf b
  | .fin sa ma ea, .fin sb mb eb =>
    let e := min ea eb
    let x := ma * 2 ^ (ea - e).toNat
    let y := mb * 2 ^ (eb - e).toNat
    if sa = sb then .fin sa (x + y) e
    else if y < x then .fin sa (x - y) e
    else if x < y then .fin sb (y - x) e
    else .fin false 0 e

/-- The product of two decoded values, exact. -/
def mulV : Fv → Fv → Fv
  | .nan, _ => .nan
  | _, .nan => .nan
  | .inf a, .inf b => .inf (a != b)
  | .inf a, .fin b m _ => if m = 0 then .nan else .inf (a != b)
  | .fin a m _, .inf b => if m = 0 then .nan else .inf (a != b)
  | .fin a m e, .fin b n d => .fin (a != b) (m * n) (e + d)

/-- The negative of a decoded value. -/
def negV : Fv → Fv
  | .nan => .nan
  | .inf a => .inf !a
  | .fin a m e => .fin (!a) m e

/-- The magnitude of a decoded value. -/
def absV : Fv → Fv
  | .nan => .nan
  | .inf _ => .inf false
  | .fin _ m e => .fin false m e

/-- Strict order of two decoded values that are no NaN; −0 counts as less than +0 where `z` is set (R161). -/
def ltV (z : Bool) : Fv → Fv → Bool
  | .nan, _ => false
  | _, .nan => false
  | .inf a, .inf b => a && !b
  | .inf a, .fin _ _ _ => a
  | .fin _ _ _, .inf b => !b
  | .fin sa ma ea, .fin sb mb eb =>
    let e := min ea eb
    let x : Int := (ma * 2 ^ (ea - e).toNat : Nat)
    let y : Int := (mb * 2 ^ (eb - e).toNat : Nat)
    let x' := if sa then -x else x
    let y' := if sb then -y else y
    decide (x' < y') || (z && decide (ma = 0 ∧ mb = 0) && sa && !sb)

def fadd (a b : F32) : F32 := enc32 (addV (dec32 a) (dec32 b))
def fmul (a b : F32) : F32 := enc32 (mulV (dec32 a) (dec32 b))
def fneg (a : F32) : F32 := enc32 (negV (dec32 a))
def fabs (a : F32) : F32 := enc32 (absV (dec32 a))
def fsub (a b : F32) : F32 := enc32 (addV (dec32 a) (negV (dec32 b)))

/-- The NaN the module produces (R132). -/
def f32NaN : F32 := 0x7FC00000#32
/-- 1.0. -/
def f32One : F32 := 0x3F800000#32
/-- −∞. -/
def f32NegInf : F32 := 0xFF800000#32

/-- The FP32 word is a NaN. -/
def isNaN32 (a : F32) : Bool := dec32 a == .nan

/-- The maximum, as MAX takes it (R161). -/
def fmax (a b : F32) : F32 :=
  if isNaN32 a || isNaN32 b then f32NaN else if ltV true (dec32 a) (dec32 b) then b else a

/-- The minimum, as MIN takes it (R161). -/
def fmin (a b : F32) : F32 :=
  if isNaN32 a || isNaN32 b then f32NaN else if ltV true (dec32 b) (dec32 a) then b else a

/-- a > b. -/
def fgt (a b : F32) : Bool := ltV false (dec32 b) (dec32 a)

/-! ### Correctly rounded functions (R158) -/

/-- A result known to lie strictly between m · 2^e and (m + 1) · 2^e, rounded to FP32; `m` has enough bits that only the
side matters. -/
def between (neg : Bool) (m : Nat) (e : Int) : F32 := enc32 (.fin neg (2 * m + 1) (e - 1))

/-- Integer square root, from bit `b` down. -/
def isqrtFrom : Nat → Nat → Nat → Nat
  | 0, _, acc => acc
  | b + 1, n, acc =>
    let t := acc + 2 ^ b
    isqrtFrom b n (if t * t ≤ n then t else acc)

/-- Integer square root. -/
def isqrt (n : Nat) : Nat := isqrtFrom (Nat.log2 n / 2 + 1) n 0

/-- 1 ÷ a, correctly rounded. -/
def frcp (a : F32) : F32 :=
  match dec32 a with
  | .nan => f32NaN
  | .inf neg => enc32 (.fin neg 0 0)
  | .fin neg m e =>
    if m = 0 then enc32 (.inf neg)
    else
      let q := 2 ^ 80 / m
      if 2 ^ 80 % m = 0 then enc32 (.fin neg q (-80 - e)) else between neg q (-80 - e)

/-- The mantissa made a multiple of an even power of two: m · 2^e with e even. -/
def evenExp (m : Nat) (e : Int) : Nat × Int := if e % 2 = 0 then (m, e) else (2 * m, e - 1)

/-- The square root, correctly rounded. -/
def fsqrt (a : F32) : F32 :=
  match dec32 a with
  | .nan => f32NaN
  | .inf neg => if neg then f32NaN else a
  | .fin neg m e =>
    if m = 0 then enc32 (.fin neg 0 0)
    else if neg then f32NaN
    else
      let (m', e') := evenExp m e
      let n := m' * 2 ^ 80
      let r := isqrt n
      if r * r = n then enc32 (.fin false r (e' / 2 - 40)) else between false r (e' / 2 - 40)

/-- 1 ÷ √a, correctly rounded. -/
def frsqrt (a : F32) : F32 :=
  match dec32 a with
  | .nan => f32NaN
  | .inf neg => if neg then f32NaN else 0
  | .fin neg m e =>
    if m = 0 then enc32 (.inf neg)
    else if neg then f32NaN
    else
      let (m', e') := evenExp m e
      let r := isqrt (2 ^ 160 / m')
      if r * r * m' = 2 ^ 160 then enc32 (.fin false r (-80 - e' / 2)) else between false r (-80 - e' / 2)

/-- 2^f in units of 2^−128, for the fraction whose bits, highest first, are `bs`; `r` is the square-root step reached. -/
def exp2Frac : List Bool → Nat → Nat → Nat
  | [], _, acc => acc
  | b :: bs, r, acc =>
    let r' := isqrt (r * 2 ^ 128)
    exp2Frac bs r' (if b then acc * r' / 2 ^ 128 else acc)

/-- The `n` fraction bits of a number, highest first. -/
def fracBits (v : Nat) : Nat → List Bool
  | 0 => []
  | n + 1 => v.testBit n :: fracBits v n

/-- 2^a, correctly rounded. Below 2^−26 in magnitude the result rounds to 1; outside −200 to 200 it underflows or
overflows. -/
def fexp2 (a : F32) : F32 :=
  match dec32 a with
  | .nan => f32NaN
  | .inf neg => if neg then 0 else a
  | .fin neg m e =>
    if m = 0 then f32One
    else if 8 ≤ leadExp m e then (if neg then 0 else enc32 (.inf false))
    else if leadExp m e < -26 then f32One
    else if 0 ≤ e then
      let n : Int := (m * 2 ^ e.toNat : Nat)
      enc32 (.fin false 1 (if neg then -n else n))
    else
      let d := (-e).toNat
      let whole : Int := (m / 2 ^ d : Nat)
      let frac := m % 2 ^ d
      let n := if neg then (if frac = 0 then -whole else -whole - 1) else whole
      let f := if neg && frac != 0 then 2 ^ d - frac else frac
      if f = 0 then enc32 (.fin false 1 n)
      else between false (exp2Frac (fracBits f d) (2 * 2 ^ 128) (2 ^ 128)) (n - 128)

/-- The first `n` fraction bits of log₂ of y, 1 ≤ y < 2 in units of 2^−256, by repeated squaring. -/
def log2Frac : Nat → Nat → Nat → Nat
  | 0, _, acc => acc
  | n + 1, y, acc =>
    let z := y * y / 2 ^ 256
    if 2 ^ 257 ≤ z then log2Frac n (z / 2) (2 * acc + 1) else log2Frac n z (2 * acc)

/-- log₂ a, correctly rounded. -/
def flog2 (a : F32) : F32 :=
  match dec32 a with
  | .nan => f32NaN
  | .inf neg => if neg then f32NaN else a
  | .fin neg m e =>
    if m = 0 then f32NegInf
    else if neg then f32NaN
    else
      let l := leadExp m e
      let y := m * 2 ^ (256 - Nat.log2 m)
      if y = 2 ^ 256 then enc32 (.fin (decide (l < 0)) l.natAbs 0)
      else
        let f := log2Frac 110 y 0
        if 0 ≤ l then between false (l.toNat * 2 ^ 110 + f) (-110)
        else between true ((-l).toNat * 2 ^ 110 - f - 1) (-110)

/-- SIGMOID(a) (R158). -/
def fsigmoid (a : F32) : F32 := frcp (fadd f32One (fexp2 (fmul a 0xBFB8AA3B#32)))
/-- SILU(a) (R158). -/
def fsilu (a : F32) : F32 := fmul a (fsigmoid a)
/-- TANH(a) (R158). -/
def ftanh (a : F32) : F32 := fsub (fmul 0x40000000#32 (fsigmoid (fmul 0x40000000#32 a))) f32One

/-! ### Conversion (R139–R142) and trees (R159) -/

/-- The rounding mode of an `RND` field, with the element's random field (R140, R144). -/
def rndOf (code field : Nat) : Rnd :=
  match code with
  | 1 => .sr 4 (field % 16)
  | 2 => .sr 3 (field % 8)
  | 3 => .rtz
  | _ => .rne

/-- Step 2 of a conversion: the encoding, and whether it is non-finite under R148. -/
def convertOut (f : Nat) (r : Rnd) (y : F32) : Nat × Bool :=
  let v := dec32 y
  let enc := encode f r v
  let special := match v with
    | .fin _ _ _ => false
    | _ => true
  (enc, special || encNonFinite f enc)

/-- Both steps of a conversion: scale, rounded to FP32, then the target format. -/
def convert (f : Nat) (r : Rnd) (scale x : F32) : Nat × Bool := convertOut f r (fmul x scale)

/-- One level of a balanced tree of sums. -/
def treeLevel : List F32 → List F32
  | a :: b :: rest => fadd a b :: treeLevel rest
  | rest => rest

/-- The row tree or column tree of 32 values (R159). -/
def tree32 (xs : List F32) : F32 :=
  (treeLevel (treeLevel (treeLevel (treeLevel (treeLevel xs))))).headD 0

/-! ### Tiles (R46, R47, R134) -/

/-- 32-bit elements of a byte string. -/
def elems32 : Bytes → List Nat
  | a :: b :: c :: d :: rest => (a.toNat + 256 * (b.toNat + 256 * (c.toNat + 256 * d.toNat))) :: elems32 rest
  | _ => []

/-- 16-bit elements of a byte string. -/
def elems16 : Bytes → List Nat
  | a :: b :: rest => (a.toNat + 256 * b.toNat) :: elems16 rest
  | _ => []

/-- 4-bit elements of a byte string: even columns in the low half. -/
def elems4 : Bytes → List Nat
  | b :: rest => b.toNat % 16 :: b.toNat / 16 :: elems4 rest
  | [] => []

/-- The encodings of the elements of a tile, in row-major order. -/
def tileElems (f : Nat) (bs : Bytes) : List Nat :=
  if f = 0 then elems32 bs
  else if f = 1 || f = 2 then elems16 bs
  else if f = 7 then elems4 bs
  else bs.map (·.toNat)

/-- Bytes of 4-bit elements. -/
def bytes4 : List Nat → Bytes
  | x :: y :: rest => BitVec.ofNat 8 (x % 16 + 16 * (y % 16)) :: bytes4 rest
  | [x] => [BitVec.ofNat 8 (x % 16)]
  | [] => []

/-- The bytes of a tile of elements given in row-major order. -/
def tileBytes (f : Nat) (xs : List Nat) : Bytes :=
  if f = 0 then xs.flatMap fun x => [BitVec.ofNat 8 x, BitVec.ofNat 8 (x / 256), BitVec.ofNat 8 (x / 65536),
    BitVec.ofNat 8 (x / 16777216)]
  else if f = 1 || f = 2 then xs.flatMap fun x => [BitVec.ofNat 8 x, BitVec.ofNat 8 (x / 256)]
  else if f = 7 then bytes4 xs
  else xs.map (BitVec.ofNat 8 ·)

/-- Cut a list into rows of `n`. -/
def rowsOf {α : Type} (n : Nat) : Nat → List α → List (List α)
  | 0, _ => []
  | k + 1, xs => xs.take n :: rowsOf n k (xs.drop n)

/-- The transpose of rows of equal length. -/
def transposeR {α : Type} (n : Nat) (rows : List (List α)) : List (List α) :=
  (List.range n).map fun j => rows.filterMap fun r => r[j]?

end Sys2Proof.Machine
end

