-- ==== Sys2Proof/Config.lean ====
section
/-! DEFINITION. What an implementation fixes and the values the manual leaves open: constants without a body, so no
proof can rest on a value of theirs. -/

namespace Sys2Proof

/-- A value the manual states nowhere, drawn from the counter `State.free` (log entry 2). -/
opaque Config.freeWord : Nat → Word

/-! ### Cryptography (R448): uninterpreted functions (log entry 8) -/

/-- An XMSS public key, a message and a signature: the signature verifies. -/
opaque Config.xmssVerify : Bytes → Bytes → Bytes → Bool

/-- The device's XMSS signature with a leaf over a message. -/
opaque Config.xmssSign : Nat → Bytes → Bytes

/-- ML-KEM-1024: an encapsulation key and the randomness drawn give a ciphertext and a shared secret. -/
opaque Config.kemEncaps : Bytes → Word → Bytes × Bytes

/-! ### Constants of one module (log entry 8) -/

/-- The device's XMSS public key (R450). -/
opaque Config.deviceKey : Bytes

/-- The vendor public key in the boot ROM (R451). -/
opaque Config.vendorKey : Bytes

/-- `VENDOR_IANA` (R535). -/
opaque Config.vendorIana : Nat

/-- The order code as shipped, in ASCII (R1, R456). -/
opaque Config.shippedCode : Bytes

/-- The images of R454 as shipped: 0 the boot ROM, 1 the security controller's firmware, 2 the management firmware, 3 the
station microcode. -/
opaque Config.image : Nat → Bytes

/-- The version number that a signed image carries (R455, R535). -/
opaque Config.imageVersion : Bytes → Nat

/-- A signed image holds station microcode, and not management firmware (R396, R455). -/
opaque Config.imageMicrocode : Bytes → Bool

/-- A cluster is enabled on another module of the fabric (R303, log entry 86). -/
opaque Config.farCluster : Nat → Nat → Bool

/-- The boot value of a crossing's trim, in the boot ROM (R478). -/
opaque Config.bootTrim : Nat → Nat

/-- The bytes of a configuration record, by its contents as a list of numbers (R454). -/
opaque Config.recordBytes : List Nat → Bytes

/-- The first row of the save area of a Sealed context, by its `SEALED` flag and its key ID, whose places in it the manual does not
state (R471). -/
opaque Config.saveHeader : Bool → Word → Bytes

end Sys2Proof
end

