-- ==== Sys2Proof/Machine/Maps.lean ====
section
/-! DEFINITION. Tables by number, memory as a list of cells, and little-endian fields (R14): the named operations that
read and write them. -/

namespace Sys2Proof.Machine

/-! ### Tables -/

/-- The entry of a number, if there is one. -/
def mfind {α : Type} : SMap α → Nat → Option α
  | [], _ => none
  | (j, v) :: m, k => if k = j then some v else mfind m k

/-- The entry of a number, or the table's default. -/
def mget {α : Type} (m : SMap α) (k : Nat) (d : α) : α := (mfind m k).getD d

/-- Write one entry, in its place. -/
def mset {α : Type} : SMap α → Nat → α → SMap α
  | [], k, v => [(k, v)]
  | (j, w) :: m, k, v =>
    if k < j then (k, v) :: (j, w) :: m else if k = j then (k, v) :: m else (j, w) :: mset m k v

/-- Remove one entry. -/
def mdel {α : Type} (m : SMap α) (k : Nat) : SMap α := m.filter fun e => e.1 != k

/-- Rewrite one entry. -/
def mmod {α : Type} (m : SMap α) (k : Nat) (d : α) (f : α → α) : SMap α := mset m k (f (mget m k d))

/-- The table of the `n` values `f 0`, `f 1`, … -/
def mtab {α : Type} (n : Nat) (f : Nat → α) : SMap α := (List.range n).map fun i => (i, f i)

/-! ### Bytes and fields -/

/-- The byte string of `n` bytes that spells a number, lowest byte first (R14). -/
def leBytes : Nat → Nat → Bytes
  | 0, _ => []
  | n + 1, v => BitVec.ofNat 8 v :: leBytes n (v / 256)

/-- The number a byte string spells, lowest byte first (R14). -/
def leNat : Bytes → Nat
  | [] => 0
  | b :: bs => b.toNat + 256 * leNat bs

/-- Bytes `i` to `i + n − 1` of a string as a number; bytes past its end count as 0. -/
def field (bs : Bytes) (i n : Nat) : Nat := leNat ((bs.drop i).take n)

/-- Exactly `n` bytes: the string cut, or completed with zeros. -/
def padTo (n : Nat) (bs : Bytes) : Bytes := bs.take n ++ List.replicate (n - bs.length) 0

/-- Bits `lo` to `lo + n − 1` of a number. -/
def bits (v lo n : Nat) : Nat := v / 2 ^ lo % 2 ^ n

/-- One bit of a number. -/
def bitAt (v i : Nat) : Bool := v.testBit i

/-- The number 1 for true. -/
def bnat (b : Bool) : Nat := if b then 1 else 0

/-- A word built from fields, each a value at a low bit. -/
def packWord (fs : List (Nat × Nat)) : Word :=
  BitVec.ofNat 64 (fs.foldl (fun a f => a + f.1 * 2 ^ f.2) 0)

/-- A count that stops at its ceiling. -/
def satAdd (ceil a b : Nat) : Nat := min ceil (a + b)

/-- The ceiling of a 32-bit count. -/
def max32 : Nat := 0xFFFFFFFF

/-! ### Memory -/

/-- What an address reads as that no entry lists. DESIGN CHOICE (log entry 4): the manual gives no contents after
power-up; the model reads zero. -/
def memDefault : Byte := 0

/-- One byte of a memory. -/
def memRead : List Host.Cell → Nat → Byte
  | [], _ => memDefault
  | (j, b) :: m, a => if a = j then b else memRead m a

/-- The cells of a byte string from address `a` on, without those that read as an unlisted address does. -/
def cellsFrom : Nat → Bytes → List Host.Cell
  | _, [] => []
  | a, b :: bs => if b = memDefault then cellsFrom (a + 1) bs else (a, b) :: cellsFrom (a + 1) bs

/-- A byte string written from address `a` on. -/
def memWrite (m : List Host.Cell) (a : Nat) (bs : Bytes) : List Host.Cell :=
  m.filter (fun c => decide (c.1 < a)) ++ cellsFrom a bs ++
    m.filter (fun c => decide (a + bs.length ≤ c.1))

/-- `n` bytes from address `a` on. -/
def memBytes (m : List Host.Cell) (a n : Nat) : Bytes :=
  let w := m.filter fun c => decide (a ≤ c.1) && decide (c.1 < a + n)
  (List.range n).map fun i => memRead w (a + i)

/-- `n` bytes from address `a` on, as a number. -/
def memNat (m : List Host.Cell) (a n : Nat) : Nat := leNat (memBytes m a n)

/-- The canonical form of a memory: addresses strictly rising, no entry equal to what an unlisted address reads as. -/
abbrev Memory.wf (m : List Host.Cell) : Prop :=
  m.Pairwise (fun x y => x.1 < y.1) ∧ ∀ c ∈ m, c.2 ≠ memDefault

end Sys2Proof.Machine
end

