-- ==== Sys2Proof/Machine/Aes.lean ====
section
/-! DEFINITION. AES-256 of FIPS 197, and its modes XTS (IEEE 1619) and GCM (SP 800-38D), which R448 names (log entry 8). Cells are
bytes; a block is 16 bytes in the order of the standard. -/

namespace Sys2Proof.Machine

/-! ### The block cipher -/

/-- The S-box. -/
def aesSbox : Bytes :=
  [0x63, 0x7C, 0x77, 0x7B, 0xF2, 0x6B, 0x6F, 0xC5, 0x30, 0x01, 0x67, 0x2B, 0xFE, 0xD7, 0xAB, 0x76,
   0xCA, 0x82, 0xC9, 0x7D, 0xFA, 0x59, 0x47, 0xF0, 0xAD, 0xD4, 0xA2, 0xAF, 0x9C, 0xA4, 0x72, 0xC0] ++
  [0xB7, 0xFD, 0x93, 0x26, 0x36, 0x3F, 0xF7, 0xCC, 0x34, 0xA5, 0xE5, 0xF1, 0x71, 0xD8, 0x31, 0x15,
   0x04, 0xC7, 0x23, 0xC3, 0x18, 0x96, 0x05, 0x9A, 0x07, 0x12, 0x80, 0xE2, 0xEB, 0x27, 0xB2, 0x75] ++
  [0x09, 0x83, 0x2C, 0x1A, 0x1B, 0x6E, 0x5A, 0xA0, 0x52, 0x3B, 0xD6, 0xB3, 0x29, 0xE3, 0x2F, 0x84,
   0x53, 0xD1, 0x00, 0xED, 0x20, 0xFC, 0xB1, 0x5B, 0x6A, 0xCB, 0xBE, 0x39, 0x4A, 0x4C, 0x58, 0xCF] ++
  [0xD0, 0xEF, 0xAA, 0xFB, 0x43, 0x4D, 0x33, 0x85, 0x45, 0xF9, 0x02, 0x7F, 0x50, 0x3C, 0x9F, 0xA8,
   0x51, 0xA3, 0x40, 0x8F, 0x92, 0x9D, 0x38, 0xF5, 0xBC, 0xB6, 0xDA, 0x21, 0x10, 0xFF, 0xF3, 0xD2] ++
  [0xCD, 0x0C, 0x13, 0xEC, 0x5F, 0x97, 0x44, 0x17, 0xC4, 0xA7, 0x7E, 0x3D, 0x64, 0x5D, 0x19, 0x73,
   0x60, 0x81, 0x4F, 0xDC, 0x22, 0x2A, 0x90, 0x88, 0x46, 0xEE, 0xB8, 0x14, 0xDE, 0x5E, 0x0B, 0xDB] ++
  [0xE0, 0x32, 0x3A, 0x0A, 0x49, 0x06, 0x24, 0x5C, 0xC2, 0xD3, 0xAC, 0x62, 0x91, 0x95, 0xE4, 0x79,
   0xE7, 0xC8, 0x37, 0x6D, 0x8D, 0xD5, 0x4E, 0xA9, 0x6C, 0x56, 0xF4, 0xEA, 0x65, 0x7A, 0xAE, 0x08] ++
  [0xBA, 0x78, 0x25, 0x2E, 0x1C, 0xA6, 0xB4, 0xC6, 0xE8, 0xDD, 0x74, 0x1F, 0x4B, 0xBD, 0x8B, 0x8A,
   0x70, 0x3E, 0xB5, 0x66, 0x48, 0x03, 0xF6, 0x0E, 0x61, 0x35, 0x57, 0xB9, 0x86, 0xC1, 0x1D, 0x9E] ++
  [0xE1, 0xF8, 0x98, 0x11, 0x69, 0xD9, 0x8E, 0x94, 0x9B, 0x1E, 0x87, 0xE9, 0xCE, 0x55, 0x28, 0xDF,
   0x8C, 0xA1, 0x89, 0x0D, 0xBF, 0xE6, 0x42, 0x68, 0x41, 0x99, 0x2D, 0x0F, 0xB0, 0x54, 0xBB, 0x16]

/-- SubBytes on one byte, and its inverse. -/
def aesSub (b : Byte) : Byte := aesSbox.getD b.toNat 0
def aesInv (b : Byte) : Byte := BitVec.ofNat 8 (aesSbox.findIdx (· == b))

/-- Bytewise exclusive or. -/
def xorBytes (a b : Bytes) : Bytes := List.zipWith (· ^^^ ·) a b

/-- Twice a byte in the field of AES, and a product by a small factor. -/
def aesDouble (b : Byte) : Byte := (b <<< 1) ^^^ (if b.msb then 0x1B else 0)
def aesMul (n : Nat) (b : Byte) : Byte :=
  let d := aesDouble b
  let q := aesDouble d
  (if n.testBit 0 then b else 0) ^^^ (if n.testBit 1 then d else 0) ^^^ (if n.testBit 2 then q else 0) ^^^
    (if n.testBit 3 then aesDouble q else 0)

/-- ShiftRows by `k` columns to the left in row 1: byte `i` stands in row i mod 4 of column i div 4. -/
def aesShift (k : Nat) (b : Bytes) : Bytes := (List.range 16).map fun i => b.getD ((i + 4 * k * (i % 4)) % 16) 0

/-- MixColumns by the first row of its matrix. -/
def aesMix (f : List Nat) (b : Bytes) : Bytes :=
  (List.range 16).map fun i => (List.range 4).foldl (fun a j =>
    a ^^^ aesMul (f.getD ((j + 4 - i % 4) % 4) 0) (b.getD (i / 4 * 4 + j) 0)) 0

/-- The words of the key schedule, newest first, `n` more of them; `i` is the number of the next, `rc` its round constant. -/
def aesWords : Nat → Nat → Byte → List Bytes → List Bytes
  | 0, _, _, ws => ws
  | n + 1, i, rc, ws =>
    let t := ws.headD []
    let g :=
      if i % 8 = 0 then xorBytes ((t.drop 1 ++ t.take 1).map aesSub) [rc, 0, 0, 0]
      else if i % 8 = 4 then t.map aesSub
      else t
    aesWords n (i + 1) (if i % 8 = 0 then aesDouble rc else rc) (xorBytes (ws.getD 7 []) g :: ws)

/-- The 15 round keys of a 32-byte key. -/
def aesKeys (key : Bytes) : List Bytes :=
  let first := ((List.range 8).map fun i => (key.drop (4 * i)).take 4).reverse
  let ws := (aesWords 52 8 1 first).reverse
  (List.range 15).map fun r => ((ws.drop (4 * r)).take 4).flatten

/-- One block under the round keys. -/
def aesEnc (ks : List Bytes) (b : Bytes) : Bytes :=
  let sr := fun (x : Bytes) => aesShift 1 (x.map aesSub)
  let x := ((ks.drop 1).take 13).foldl (fun x k => xorBytes (aesMix [2, 3, 1, 1] (sr x)) k) (xorBytes b (ks.getD 0 []))
  xorBytes (sr x) (ks.getD 14 [])

/-- The block that encrypts to a given one. -/
def aesDec (ks : List Bytes) (b : Bytes) : Bytes :=
  let sr := fun (x : Bytes) => (aesShift 3 x).map aesInv
  let x := ((ks.drop 1).take 13).reverse.foldl (fun x k => aesMix [14, 11, 13, 9] (xorBytes (sr x) k))
    (xorBytes b (ks.getD 14 []))
  xorBytes (sr x) (ks.getD 0 [])

/-! ### XTS -/

/-- A tweak times α. -/
def xtsNext (t : Bytes) : Bytes :=
  let v := 2 * leNat t
  leBytes 16 (if 2 ^ 128 ≤ v then v ^^^ (2 ^ 128 + 0x87) else v)

/-- The blocks of a data unit, each between two additions of its tweak. -/
def xtsBlocks (f : Bytes → Bytes) : Nat → Bytes → Bytes → Bytes
  | 0, _, _ => []
  | n + 1, t, d => xorBytes (f (xorBytes (d.take 16) t)) t ++ xtsBlocks f n (xtsNext t) (d.drop 16)

/-- A 512-B data unit under a 64-byte key, with a tweak value. -/
def xtsRow (f : List Bytes → Bytes → Bytes) (key : Bytes) (tweak : Nat) (d : Bytes) : Bytes :=
  xtsBlocks (f (aesKeys (key.take 32))) 32 (aesEnc (aesKeys (key.drop 32)) (leBytes 16 tweak)) (padTo 512 d)
def xtsEnc (key : Bytes) (tweak : Nat) (d : Bytes) : Bytes := xtsRow aesEnc key tweak d
def xtsDec (key : Bytes) (tweak : Nat) (d : Bytes) : Bytes := xtsRow aesDec key tweak d

/-! ### GCM -/

/-- A number as `n` bytes, highest first, and back. -/
def beBytes (n v : Nat) : Bytes := (leBytes n v).reverse
def beNat (d : Bytes) : Nat := leNat d.reverse

/-- A product in the field of GHASH. -/
def ghashMul (x y : BitVec 128) : BitVec 128 :=
  ((List.range 128).foldl (fun (a : BitVec 128 × BitVec 128) i =>
    (if x.getMsbD i then a.1 ^^^ a.2 else a.1,
      (a.2 >>> 1) ^^^ (if a.2.getLsbD 0 then 0xE1000000000000000000000000000000 else 0))) (0, y)).1

/-- GHASH over blocks of 16 bytes, `n` of them. -/
def ghash (h : BitVec 128) : Nat → BitVec 128 → Bytes → BitVec 128
  | 0, a, _ => a
  | n + 1, a, d => ghash h n (ghashMul (a ^^^ BitVec.ofNat 128 (beNat (d.take 16))) h) (d.drop 16)

/-- Zeros to a whole number of 16-byte blocks. -/
def padBlock (d : Bytes) : Bytes := padTo ((d.length + 15) / 16 * 16) d

/-- The counter blocks from counter `c` on, encrypted and added to the data, `n` blocks of it. -/
def gctr (ks : List Bytes) (iv : Bytes) : Nat → Nat → Bytes → Bytes
  | 0, _, _ => []
  | n + 1, c, d => xorBytes (d.take 16) (aesEnc ks (iv ++ beBytes 4 c)) ++ gctr ks iv n (c + 1) (d.drop 16)

/-- The tag of associated data and a ciphertext under a 12-byte IV. -/
def gcmTag (ks : List Bytes) (iv aad ct : Bytes) : Bytes :=
  let h := BitVec.ofNat 128 (beNat (aesEnc ks (List.replicate 16 0)))
  let d := padBlock aad ++ padBlock ct ++ beBytes 8 (8 * aad.length) ++ beBytes 8 (8 * ct.length)
  xorBytes (beBytes 16 (ghash h (d.length / 16) 0 d).toNat) (aesEnc ks (iv ++ beBytes 4 1))

/-- The IV of a message counter: four zero bytes and the counter in 64 bits, little-endian (R466). -/
def gcmIv (counter : Nat) : Bytes := List.replicate 4 0 ++ leBytes 8 counter

/-- A payload under a key, a message counter and the header as associated data: the ciphertext and its 16-byte tag (R466). -/
def gcmSeal (key : Bytes) (counter : Nat) (hdr d : Bytes) : Bytes :=
  let ks := aesKeys key
  let ct := gctr ks (gcmIv counter) ((d.length + 15) / 16) 2 d
  ct ++ gcmTag ks (gcmIv counter) hdr ct

/-- The plaintext of a sealed payload, if its tag verifies (R466). -/
def gcmOpen (key : Bytes) (counter : Nat) (hdr d : Bytes) : Option Bytes :=
  let ks := aesKeys key
  let ct := d.take (d.length - 16)
  if d.drop (d.length - 16) = gcmTag ks (gcmIv counter) hdr ct then
    some (gctr ks (gcmIv counter) ((ct.length + 15) / 16) 2 ct)
  else none

end Sys2Proof.Machine
end

