-- ==== Sys2Proof/Machine/State.lean ====
section
/-! DEFINITION. The state of the block, as plain data, and the state after reset. Every register of the manual's maps
stands here, or is computed from what stands here. Counts are natural numbers with the ceilings the manual gives them;
words that software reads or writes whole are bit vectors. -/

namespace Sys2Proof.Machine

/-- Why the block as a whole stops. The manual gives no such stop: core faults, refused host commands and SAFE are
state (R79, R381, R429), so no meaning raises this constructor. -/
inductive Fault where
  /-- Raised by nothing. It would be safe: the model would stop where the block goes on. -/
  | stuck
  deriving DecidableEq, Repr

/-- Why the model gives a command no meaning. -/
inductive Refusal where
  /-- An arm of `exec` that has no meaning yet. Safe: the model stops. -/
  | notModelled (mnemonic : String)
  deriving DecidableEq, Repr

/-! ### One core -/

/-- `CORE.STATUS.STATE` (R77). -/
inductive CoreState where
  | idle | running | proofWait | halted | faulted | done
  deriving DecidableEq, Repr

/-- One ISSUE or ISSUER of a bundle, as far as it has been read (R68). -/
structure BundleItem where
  pcw   : Nat
  guard : Bool
  cmd   : Option Cmd
  deriving DecidableEq, Repr

/-- The operands of a PROOF instruction (R41, R42). -/
structure ProofArg where
  scope  : BitVec 2
  tag    : BitVec 16
  orSrc  : BitVec 5
  andSrc : BitVec 5
  orDst  : BitVec 5
  andDst : BitVec 5
  deriving DecidableEq, Repr

/-- Where a WAIT stands: on its way to its cell, in the cell's queue, or released and on the way back (R261, R269). -/
inductive WaitStage where
  | travelling (due : Nat)
  | queued
  | released (due : Nat)
  deriving DecidableEq, Repr

/-- Where a SEND stands: its message on the way, or written and acknowledged back (R281, R283). -/
inductive SendStage where
  | travelling
  | written (due : Nat)
  deriving DecidableEq, Repr

/-- The instruction that the sequencer waits in, if any (R70, R71, R78, R84). -/
inductive SeqWait where
  | none
  | bundle (items : List BundleItem)
  | drain (mask : BitVec 6)
  | flagclr
  | proof (p : ProofArg)
  | sync (cell : CellRef) (amount : Nat) (vid : BitVec 20) (stage : WaitStage)
  | send (ep : BitVec 3) (stage : SendStage)
  | recv (ep : BitVec 3) (rd : BitVec 5)
  deriving DecidableEq, Repr

/-- The sequencer (R60, R77, R92). `wpkt` is the mesh packet on which a WAIT or a SEND waits (R233, R327). `phase0` is the island
tick at which the phase tick counter read 0 (R36); `ready`
is the island tick from which the next instruction may execute, and `regReady` the tick from which a slow result is
usable (R66). `tickTo` is the tick the phase's last WAIT_TICK named, and `tickAt` its address if it came before that tick
(R71, R84). `lastLayer` and `lastOp` are the IDs of the last command issued (R410, R412). -/
structure Seq where
  st        : CoreState := .idle
  regs      : SMap Word := []
  preds     : BitVec 8 := 1#8
  pc        : BitVec 18 := 0
  stack     : List (BitVec 18) := []
  phase0    : Nat := 0
  ready     : Nat := 0
  tickTo    : Nat := 0
  tickAt    : Option (BitVec 18) := none
  regReady  : SMap Nat := []
  wait      : SeqWait := .none
  wpkt      : Option Nat := none
  bundle    : List BundleItem := []
  proof     : ProofArg := ⟨0, 0, 0, 0, 0, 0⟩
  lastTag   : BitVec 16 := 0
  haltAt    : Bool := false
  lastLayer : BitVec 12 := 0
  lastOp    : BitVec 12 := 0
  deriving DecidableEq, Repr

/-- The status a computing station gives a tile (R147), and, for a slot that FETCH filled, the module address of its
first row (R193). -/
structure TileStatus where
  nf  : Bool := false
  row : Nat := 0
  col : Nat := 0
  src : Option Nat := none
  deriving DecidableEq, Repr

/-- An output slot of PACKZ or UNPACKZ: its bytes, its status, and, for records, the encodings of the elements it carries
(R147, R161, R172). -/
structure PackSlot where
  data   : Bytes
  status : TileStatus
  kept   : Option (List Nat)
  deriving DecidableEq, Repr

/-- A link: `CORE.LINKn.CFG`, its semaphores and slot positions, the status of each slot (R51, R52, R98, R99, R147). -/
structure Link where
  cfg    : Word := 0
  filled : Nat := 0
  free   : Nat := 0
  cons   : Nat := 0
  prod   : Nat := 0
  status : SMap TileStatus := []
  deriving DecidableEq, Repr

/-- How far a station has come with an accepted command: not begun, waiting under a stall reason (R403), a DRAIN whose turn has
come and which waits under a stall reason while later commands go on (R121, R195), begun with the island tick in which it retires,
or begun with a retirement that another event fixes. -/
inductive Stage where
  | queued
  | stalled (reason : Nat)
  | issued (reason : Nat)
  | running (retire : Nat)
  | open
  deriving DecidableEq, Repr

/-- The draw phase of a drawing command (R169): the draw base it captured, the `ORIGIN` and `PITCH` that stand for it (R120), the
first and the last tick of its draws as island ticks, and whether the phase has begun. -/
structure DrawPhase where
  base  : Word
  origin : BitVec 48
  pitch : BitVec 24
  first : Nat
  last  : Nat
  begun : Bool := false
  deriving DecidableEq, Repr

/-- An accepted command that has not retired (R70): its 128 bits, the word address of the issuing instruction, the
island tick of acceptance, its draw phase, if it draws, the input slots it has taken so far with the tick after the last of them
is read, and the output slots it has
still to write with the tick each is due (PACKZ and UNPACKZ, R161), and the ticks by which its engine cycles shifted, from
the tick in which the row that shifted most was to start (R208). -/
structure Acc where
  cmd   : Cmd
  pcw   : Nat
  atT   : Nat
  draw  : Option DrawPhase := none
  part  : List Bytes := []
  readTo : Nat := 0
  rest  : List (Nat × PackSlot) := []
  stage : Stage := .queued
  shift : Nat := 0
  shiftAt : Nat := 0
  deriving DecidableEq, Repr

/-- A station of a core: its accepted commands, oldest first, the tick from which it is free, for FETCH and STORE the tick from
which the read or the write port is free (R226), and the tick of its last retirement. -/
structure StationQ where
  acc  : List Acc := []
  busy : Nat := 0
  port : Nat := 0
  last : Nat := 0
  deriving DecidableEq, Repr

/-- A tile on its way into a slot: it becomes visible in island tick `due` (R53), once no row of it is missing. `fmt` and
`tap` are what the norm tap needs, and `kept` the encodings that a tile of records carries (R173). -/
structure OutTile where
  st     : Station
  link   : Nat
  slot   : Nat
  due    : Nat
  data   : Bytes
  status : TileStatus
  layer  : BitVec 12
  op     : BitVec 12
  fmt    : BitVec 4
  tap    : BitVec 2
  missing : Nat := 0
  kept   : Option (List Nat) := none
  deriving DecidableEq, Repr

/-- The six stations, the tiles they are writing and the slots they are reading (R49, R52). -/
structure Stations where
  fetch  : StationQ := {}
  matrix : StationQ := {}
  vector : StationQ := {}
  sparse : StationQ := {}
  store  : StationQ := {}
  knead  : StationQ := {}
  outs   : List OutTile := []
  frees  : List (Nat × Nat) := []
  deriving DecidableEq, Repr

/-- What a stopping fault says of itself (R79, R94). -/
structure FaultArg where
  code    : BitVec 8
  station : BitVec 3 := 0
  layer   : BitVec 12 := 0
  op      : BitVec 12 := 0
  pcWord  : BitVec 16 := 0
  detail  : Word := 0
  cmd     : Cmd := 0
  deriving DecidableEq, Repr

/-- The fault record (R79, R82, R94), with the island tick of its detection and the number of the Crumb Log record that tells
of it. -/
structure FaultRec where
  valid     : Bool := false
  more      : Nat := 0
  code      : BitVec 8 := 0
  station   : BitVec 3 := 0
  layer     : BitVec 12 := 0
  op        : BitVec 12 := 0
  pcWord    : BitVec 16 := 0
  phase     : BitVec 32 := 0
  superstep : BitVec 32 := 0
  detail    : Word := 0
  cmd       : Cmd := 0
  atT       : Nat := 0
  deriving DecidableEq, Repr

/-- `CORE.RECOV` (R95), with the island tick of its fault. -/
structure Recov where
  valid   : Bool := false
  count   : Nat := 0
  code    : BitVec 8 := 0
  station : BitVec 3 := 0
  layer   : BitVec 12 := 0
  op      : BitVec 12 := 0
  atT     : Nat := 0
  deriving DecidableEq, Repr

/-- `CORE.NF` (R96). -/
structure NonFinite where
  flag    : Bool := false
  station : BitVec 3 := 0
  layer   : BitVec 12 := 0
  op      : BitVec 12 := 0
  row     : BitVec 5 := 0
  col     : BitVec 5 := 0
  deriving DecidableEq, Repr

/-- MATRIX modes (R101). -/
inductive MMode where
  | split | gang2 | gang4
  deriving DecidableEq, Repr

/-- One accumulator bank: 32 × 32 values in row-major order (an empty list is a bank of +0), the type bit, the saturation
marks, the tick in which its accumulation is complete and the tick after the last write of the last DRAIN of it (R100,
R111, R121). -/
structure Bank where
  vals  : List (BitVec 32) := []
  isInt : Bool := false
  sat   : List Nat := []
  done  : Nat := 0
  drain : Nat := 0
  deriving DecidableEq, Repr

/-- What the cells of an array hold for the vectors that enter up to tick `upto`: P0, P1, the pre-sums of Gauss and the
formats (R105, R117). -/
structure MRegs where
  upto : Nat
  p0   : List (BitVec 16)
  p1   : List (BitVec 16)
  sum  : List (BitVec 16)
  fmt0 : Option (BitVec 4)
  fmt1 : Option (BitVec 4)
  deriving DecidableEq, Repr

/-- A multi-part stream whose vectors may still enter: the tick of its first vector, its command, the elements of its
tiles, and the banks it found (R105, R115–R118). -/
structure MxRun where
  at'   : Nat
  cmd   : Cmd
  tiles : List (List Nat)
  bank0 : Bank
  bank1 : Bank
  deriving DecidableEq, Repr

/-- One array: P0 and P1, each a stored tile in row-major order (an empty list is +0 everywhere) with the format it was
loaded in, the two banks, and the ticks its interlocks use (R100, R104, R107): the tick after the last entry of the
last LOAD of its shadows, the tick after the first vector of its last flipping stream, the tick after the last entry of
its last stream, that stream's orientation and completion, and
the tick from which none of its vectors is in flight. `sum` is the BF16 pre-sum P0 + P1 of the last LOADPAIR (R117),
`past` what the cells held before each load whose last entry tick a vector may still precede (R105), and `run` the
multi-part stream that entered last. -/
structure MArray where
  p0       : List (BitVec 16) := []
  p1       : List (BitVec 16) := []
  sum      : List (BitVec 16) := []
  past     : List MRegs := []
  run      : Option MxRun := none
  fmt0     : Option (BitVec 4) := none
  fmt1     : Option (BitVec 4) := none
  bank0    : Bank := {}
  bank1    : Bank := {}
  loadEnd  : Nat := 0
  flipIn   : Nat := 0
  lastIn   : Nat := 0
  orient   : Bool := false
  accDone  : Nat := 0
  flight   : Nat := 0
  deriving DecidableEq, Repr

/-- MATRIX (R100, R101, R120). `loadLast` and `drainLast` are the ticks after the last entry of the latest load and
after the last write of the latest drain (R107, R121). -/
structure Matrix where
  mode      : MMode := .split
  arrays    : SMap MArray := []
  origin    : BitVec 48 := 0
  pitch     : BitVec 24 := 0
  loadLast  : Nat := 0
  drainLast : Nat := 0
  deriving DecidableEq, Repr

/-- One row of a statistics set (R163). -/
structure StatRow where
  m     : BitVec 32 := 0xFF800000#32
  l     : BitVec 32 := 0
  d     : BitVec 32 := 0
  alpha : BitVec 32 := 0x3F800000#32
  deriving DecidableEq, Repr

/-- VECTOR: the statistics rows at key 32·set + row, ORIGIN and PITCH, and per set the tick of its last update. -/
structure VectorSt where
  sets    : SMap StatRow := []
  setDone : SMap Nat := []
  origin  : BitVec 48 := 0
  pitch   : BitVec 24 := 0
  deriving DecidableEq, Repr

/-- A stream slot of Leaven (R165). -/
structure StreamSlot where
  valid : Bool := false
  id    : BitVec 16 := 0
  k0    : Word := 0
  k1    : Word := 0
  base  : Word := 0
  deriving DecidableEq, Repr

/-- An entry of the norm-tap table (R172, R179). -/
structure TapEntry where
  valid : Bool := false
  nf    : Bool := false
  cls   : BitVec 2 := 0
  layer : BitVec 12 := 0
  exp   : BitVec 12 := 0
  mant  : BitVec 48 := 0
  deriving DecidableEq, Repr

/-- The LEAVEN block of a core (R165–R179): the slots, the tick after the generator's last draw, the drop count and the
norm taps. -/
structure Leaven where
  slots   : SMap StreamSlot := []
  genLast : Nat := 0
  drop    : Nat := 0
  taps    : SMap TapEntry := []
  miss    : Nat := 0
  deriving DecidableEq, Repr

/-- A chunk slot of the SPARSE activation store (R185): its format and its elements, row by row; an unloaded slot is +0. -/
structure Chunk where
  fmt  : BitVec 4
  data : List Nat
  deriving DecidableEq, Repr

/-- One accumulator set of SPARSE: the banks, each a list of values by activation row (an empty list is +0 throughout),
the issue tick of the last SPMM into it, its completion tick, and the longest conflict queue in each tick from that
SPMM's first add on; `pastAt` to `pastEnd` and `past` say the same of the SPMM before it (R188–R190). -/
structure SpSet where
  banks : List (List (BitVec 32)) := []
  issue : Option Nat := none
  done  : Nat := 0
  adds  : Nat := 0
  queue : List Nat := []
  pastAt  : Nat := 0
  pastEnd : Nat := 0
  past    : List Nat := []
  deriving DecidableEq, Repr

/-- SPARSE (R184–R197): budget, sets, chunk slots, per chunk slot the tick in which the last SPMM that reads it retires,
per pair the tick after the last write of its last DRAIN, the ticks from which issue, the activation store and the
drain port are free, and its index. -/
structure SparseSt where
  budget    : Nat := 16
  sets      : SMap SpSet := []
  chunks    : SMap Chunk := []
  chunkRead : SMap Nat := []
  pairDrain : SMap Nat := []
  issueFree : Nat := 0
  loadFree  : Nat := 0
  drainFree : Nat := 0
  origin    : BitVec 48 := 0
  pitch     : BitVec 24 := 0
  deriving DecidableEq, Repr

/-- A send endpoint (R277, R290). -/
structure TxEp where
  cfg  : Word := 0
  seq  : BitVec 16 := 0
  full : Nat := 0
  busy : Bool := false
  deriving DecidableEq, Repr

/-- A receive endpoint with the pointers of its ring (R277–R279, R290). `msgs` are the records from HEAD to TAIL, oldest
first: their units, whether each is a skip record, and the tick in which it is visible; `freed` are units passed lately with
the tick from which a message may use them (R283). -/
structure RxEp where
  cfg     : Word := 0
  seq     : BitVec 16 := 0
  head    : Nat := 0
  tail    : Nat := 0
  msgs    : List (Nat × Bool × Nat) := []
  freed   : List (Nat × Nat) := []
  deriving DecidableEq, Repr

/-- A KSEND in progress (R296, R297): its rows, the ring offset of the first, the rows asked for and those that lie in the
send buffer, per target how many rows it has accepted, the real tick from which the next row may be asked for, and, for a
KSEND from a link, the rows that its slot still holds and the link. -/
structure KSend where
  id       : Nat
  ring     : Option Nat
  rowsNo   : List Nat
  first    : Nat := 0
  start    : Nat
  dest     : List Nat
  dcluster : Nat
  tag      : BitVec 12
  n        : Nat
  asked    : Nat := 0
  readRows : SMap Bytes := []
  accepted : SMap Nat := []
  askAt    : Nat := 0
  slot     : List Bytes := []
  link     : Option Nat := none
  cmd      : Cmd := 0
  pcw      : Nat := 0
  deriving DecidableEq, Repr

/-- An entry of a Braid buffer (R298): a tile, its length, and the tick its first bytes arrived. -/
structure BraidTile where
  data    : Bytes
  arrived : Nat
  deriving DecidableEq, Repr

/-- Braid state of a core (R298, R299): the buffer, the tiles on their way into it with their due ticks and whether a
missing credit delayed them, the forwards that wait for a credit, oldest first, the ticks from which read entries are free,
whether the next
tile is being held back by a missing credit, and a BRAID_CREDIT fault to be recorded when the Hold ends. -/
structure Braid where
  buf     : List BraidTile := []
  inbound : List (Nat × Bytes × Bool) := []
  forward : List (Bytes × BitVec 12 × BitVec 12) := []
  freeAt  : List Nat := []
  missed  : Bool := false
  owes    : Option (BitVec 12 × BitVec 12) := none
  deriving DecidableEq, Repr

/-- A DMA entry of a core (R215): the transfer, its tabled worst-case tick, and whether it is complete. -/
structure DmaEntry where
  id    : Nat
  worst : Nat
  done  : Bool := false
  deriving DecidableEq, Repr

/-- An entry of the layer table (R406). -/
structure LayerRow where
  valid   : Bool := false
  layer   : BitVec 12 := 0
  busy    : Nat := 0
  stalled : Nat := 0
  deriving DecidableEq, Repr

/-- The OBS block of a core (R405, R406, R420): counts at key 17·unit + c, and the counts of the last snapshot. `held` says under which
episode, named by its first tick, the core is frozen, under which reason its ticks are counted, and how many so far (R333). -/
structure CoreObs where
  counts : SMap Nat := []
  snap   : SMap Nat := []
  layers : SMap LayerRow := []
  laySnap : SMap LayerRow := []
  miss   : Nat := 0
  held   : Option (Nat × Nat × Nat) := none
  deriving DecidableEq, Repr

/-- The trace of a core (R411–R416): the row being filled, the rows that wait to be written, the pending outcomes
oldest first, the IDs last recorded, the next row of its segment, wraps and lost bytes, and the island tick after the last write of
a row. -/
structure Trace where
  row      : Bytes := []
  ready    : List Bytes := []
  outcomes : List Bool := []
  brPc     : Nat := 0
  lastIds  : Option (BitVec 12 × BitVec 12) := none
  lostNow  : Nat := 0
  next     : Nat := 0
  wraps    : Nat := 0
  lost     : Nat := 0
  turnAt   : Nat := 0
  deriving DecidableEq, Repr

/-- One enabled core: everything its CORE, CHAN, LEAVEN and OBS blocks show and everything behind them. `nfNow` is the first
flagged tile of the island tick it names (R78), `stopAt` the tick of a stopping fault whose stations have not stopped yet
(R81), and `dueFault` a fault that the hardware detects in a later tick (R193). `inAt` and `outAt` are the real ticks from which
the core's next row of a fill or a draw, and of a write-back, may move (R240). -/
structure Core where
  seq       : Seq := {}
  ls        : List Host.Cell := []
  lsBad     : List Nat := []
  codeBase  : Nat := 0
  codeLimit : Nat := 0
  dataBase  : Nat := 0
  dataLimit : Nat := 0
  links     : SMap Link := []
  slotMem   : List Host.Cell := []
  fault     : FaultRec := {}
  recov     : Recov := {}
  nf        : NonFinite := {}
  nfNow     : Nat × NonFinite := (0, {})
  stopAt    : Option Nat := none
  dueFault  : Option (Nat × FaultArg) := none
  lateCount : Nat := 0
  lateFirst : BitVec 16 := 0
  stn       : Stations := {}
  mx        : Matrix := {}
  vec       : VectorSt := {}
  lv        : Leaven := {}
  sp        : SparseSt := {}
  dma       : List DmaEntry := []
  inAt      : Nat := 0
  outAt     : Nat := 0
  tx        : SMap TxEp := []
  rx        : SMap RxEp := []
  ks        : List KSend := []
  braid     : Braid := {}
  obs       : CoreObs := {}
  trc       : Trace := {}
  deriving DecidableEq, Repr

/-! ### One cluster -/

/-- A ring (R211–R213, R230, R231). TAIL and the heads count rows without wrapping; the registers show them modulo
SIZE. `defer` holds, per reader, the runs of rows that a sequential WBACK or KSEND has read but that are not yet free
(R215, R296): transfer, reader, first row, count. -/
structure Ring where
  keep    : Bool := false
  mode    : BitVec 2 := 0
  size    : Nat := 0
  base    : Nat := 0
  readers : BitVec 16 := 0
  tail    : Nat := 0
  heads   : SMap Nat := []
  defer   : List (Nat × Nat × Nat × Nat) := []
  deriving DecidableEq, Repr

/-- What a reserved engine cycle does: read, write, and the read and the write of ACC (R206, R219). -/
inductive EngKind where
  | read | write | accRead | accWrite
  deriving DecidableEq, Repr

/-- A reserved engine bank cycle (R206–R209, R219): the row, its first island tick, what it does, the ticks for which it
locks the row, the tick in which what it moves has arrived, whether it joined another read, the core, the slot a read goes to
and its place there, the bytes a write carries or a read has read, the corrector's outcome of a read, the command, whether the
cycle has been taken, and whether what it moves has arrived. -/
structure Resv where
  row    : Nat
  start  : Nat
  kind   : EngKind
  lock   : Nat := 0
  due    : Nat := 0
  joined : Bool := false
  core   : Nat
  link   : Nat := 0
  slot   : Nat := 0
  place  : Nat := 0
  data   : Bytes := []
  ecc    : Ecc := .clean
  cmd    : Cmd
  pcw    : Nat
  done   : Bool := false
  moved  : Bool := false
  deriving DecidableEq, Repr

/-- What a DMA-path access does once it has its bank cycle. -/
inductive BankWork where
  | fillRow (xfer k : Nat) (data : Bytes)
  | drawRead (pid : Nat)
  | wbackRead (xfer k : Nat)
  | windowWrite (pid : Nat) (data : Bytes)
  | kneadRead (core id k : Nat)
  | landing (lid : Nat)
  deriving DecidableEq, Repr

/-- A DMA-path access that waits for a bank, from real tick `atT` on (R207). -/
structure BankAcc where
  row  : Nat
  atT   : Nat
  work : BankWork
  deriving DecidableEq, Repr

/-- A pending row (R214): the row, the transfer or KRECV that marks it, and whether a Knead transfer does. -/
structure Pend where
  row   : Nat
  owner : Nat
  knead : Bool
  deriving DecidableEq, Repr

/-- A KRECV that has not retired (R291): which core, its rows in order, the sender, the delivery tick as an island tick,
and the rows written. -/
structure KRecv where
  id     : Nat
  core   : Nat
  srcmod : Nat
  tag    : BitVec 12
  rowsNo : List Nat
  due    : Nat
  got    : List Nat := []
  cmd    : Cmd := 0
  pcw    : Nat := 0
  deriving DecidableEq, Repr

/-- A sync cell (R260, R263): count, OVF, and the waiting cores with their amounts, head first. -/
structure Cell where
  count : Nat := 0
  ovf   : Bool := false
  queue : List (Nat × Nat) := []
  deriving DecidableEq, Repr

/-- A DMA-path bank cycle (R207, R209): the row, whether it is a read, the real tick after its end, the outcome of its corrector,
whether that has been counted, and the accesses that it serves, each with the real tick after its own end: a read that joined in
the second tick of the cycle ends one tick after it. -/
structure DmaCycle where
  row   : Nat
  read  : Bool
  until' : Nat
  ecc   : Ecc := .clean
  counted : Bool := false
  works : List (BankWork × Nat) := []
  deriving DecidableEq, Repr

/-- One cluster: rings, banks, pending rows, cells, counters (R203–R231, R267). -/
structure Cluster where
  rings     : SMap Ring := []
  pend      : List Pend := []
  resv      : List Resv := []
  dmaBusy   : List DmaCycle := []
  bankQ     : List BankAcc := []
  krecvs    : List KRecv := []
  cells     : SMap Cell := []
  collCheck : Bool := false
  collValid : Bool := false
  collKind  : Bool := false
  collRow   : Nat := 0
  collCount : Nat := 0
  eccCorr   : Nat := 0
  eccUncorr : Nat := 0
  dmaWait   : Nat := 0
  engShift  : Nat := 0
  census    : SMap Nat := []
  deriving DecidableEq, Repr

/-! ### Mesh, stacks, transfers -/

/-- What a mesh packet carries (R233): rows on their way to and from a memory, a Knead row for another cluster or for a Lattice
port, a row from a Lattice port's landing buffer, and CTL traffic. -/
inductive PktKind where
  | readReq | readRsp | writeRow | writeAck | kneadRow | landRow | ctl
  deriving DecidableEq, Repr

/-- Where a packet enters or leaves the mesh: a cluster's local port, a stack's attachment port, the host link, or a Lattice port
(R232, R310, R530). -/
inductive MeshEnd where
  | cluster | stack | host | lattice
  deriving DecidableEq, Repr

/-- A packet on the mesh (R233–R236): its routers and ends, plane, virtual channel 0 REQ, 1 RSP or 2 CTL, the core and the transfer
it belongs to, the row's index and module address, the routers it has still to enter, the one it stands in, the row it carries,
the real tick of its last move, and the tick from which it may move on (R239). `taken` says that a bank or a stack controller has
it in hand, `lat` names the Lattice port it leaves by with its header, and `bulk` the host transfer it belongs to. `core` is none
for traffic of no core of this module. -/
structure Pkt where
  id    : Nat
  src   : Nat
  dst   : Nat
  kind  : PktKind
  plane : Nat
  vc    : Nat
  core  : Option Nat
  xfer  : Nat := 0
  row   : Nat := 0
  addr  : Nat := 0
  path  : List Nat := []
  place : Option Nat := none
  srcEnd : MeshEnd := .cluster
  dstEnd : MeshEnd := .cluster
  data  : Bytes := []
  atT   : Nat := 0
  ready : Nat := 0
  tag   : BitVec 12 := 0
  rows  : Nat := 0
  watched : Bool := false
  taken : Bool := false
  lat   : Option (Nat × LatHdr) := none
  bulk  : Option Nat := none
  deriving DecidableEq, Repr

/-- The kinds of DMA-path transfer a core issues (R223, R244). -/
inductive XferKind where
  | fillDram | fillWindow | wbackDram | wbackWindow
  deriving DecidableEq, Repr

/-- A FILL or a WBACK in flight (R214, R215, R234), with the rows written, the rows that an uncorrectable error abandoned, and the
rows that were replayed (R247). -/
structure Xfer where
  id     : Nat
  kind   : XferKind
  core   : Nat
  ring   : Nat
  rowsNo : List Nat
  addr   : Nat
  issue  : Nat
  worst  : Nat
  done   : List Nat := []
  dead   : List Nat := []
  replay : List Nat := []
  cmd    : Cmd := 0
  pcw    : Nat := 0
  deriving DecidableEq, Repr

/-- A router's counters (R257). -/
structure Router where
  corr   : Nat := 0
  uncorr : Nat := 0
  deriving DecidableEq, Repr

/-- One stack and its controller (R242–R250, R259). `slots` are the maintenance slots open for it with their closing
ticks, `slotAt` the tick from which the current run of open slots scrubs, `reqs` the packets that wait at the
controller, `addrT` the tick of the recorded error, `pos` the local address of the row at which the scrub pass stands, `seen` the
end of the rows of the open slots whose check has been heard of, `wrapped` says that the SCRUB in progress has ended a pass, and
`refresh` is the tick from which the refresh in progress lets accesses through. -/
structure Stack where
  powered : Bool := false
  trained : Bool := false
  selfRef : Bool := false
  slots   : List (Nat × Nat) := []
  slotAt  : Nat := 0
  reqs    : List Nat := []
  corr    : Nat := 0
  uncorr  : Nat := 0
  addrV   : Bool := false
  addrU   : Bool := false
  addr    : Nat := 0
  addrT   : Nat := 0
  passes  : Nat := 0
  pos     : Nat := 0
  seen    : Nat := 0
  wrapped : Bool := false
  refresh : Nat := 0
  deriving DecidableEq, Repr

/-- A maintenance slot (R249, R345). -/
structure MaintSlot where
  mask     : BitVec 24
  knead    : Bool
  period   : Nat
  residue  : Nat
  start    : Nat
  length   : Nat
  declared : Nat
  deriving DecidableEq, Repr

/-! ### Sync and channels -/

/-- A signal in flight (R269, R327): target cell, amount, virtual ID, the home cluster and the island tick at which it is due
there, the sender, if it is a core of this module, and the sender's phase tick. `away` says that its cell lies in another
module, `srcMod` is the module of a sender in another module, and `pkt` is the mesh packet that carries it. -/
structure SigFly where
  cell    : CellRef
  amount  : Nat
  vid     : BitVec 20
  due     : Nat
  home    : Nat
  core    : Option Nat
  phase   : Nat
  away    : Bool := false
  srcMod  : Option Nat := none
  pkt     : Option Nat := none
  deriving DecidableEq, Repr

/-- A channel message in flight (R278–R283): its packet, its ends, its length, the units read so far, the sender's island tick of
issue, the latency of its path, the local-store address it is read from, and, once its ring has room, the receiver's island tick
of that, the first unit it takes, and how many units are written. -/
structure Msg where
  pkt   : Nat
  src   : Nat
  ep    : BitVec 3
  dst   : Nat
  dstEp : BitVec 3
  n     : Nat
  data  : Bytes
  atT   : Nat
  lat   : Nat
  from' : Nat
  wr    : Option Nat := none
  first : Nat := 0
  put   : Nat := 0
  deriving DecidableEq, Repr

/-- The SYNC module block and what stands behind it (R264, R267, R288). -/
structure SyncSt where
  mcells    : SMap Cell := []
  tcells    : SMap Cell := []
  fcells    : SMap Cell := []
  xlat      : SMap (SMap Word) := []
  dropped   : Nat := 0
  overflows : Nat := 0
  mw        : Nat := 0
  sigs      : List SigFly := []
  msgs      : List Msg := []
  deriving DecidableEq, Repr

/-! ### Proofs and Holds -/

/-- One arrival at a Proof instance (R41, R42), with its island tick and its real tick (R409, R417). -/
structure Arrival where
  core  : Nat
  arg   : ProofArg
  orW   : BitVec 32
  andW  : BitVec 32
  atT   : Nat
  real  : Nat
  deriving DecidableEq, Repr

/-- A cluster instance of a Proof: its arrivals, first first, the arrival that differed first, and, once all have
come, the island-independent release tick of a CLUSTER Proof (R39, R41). -/
structure ClInst where
  arrivals : List Arrival := []
  differ   : Option (BitVec 2 × BitVec 16) := none
  passed   : Bool := false
  release  : Option Nat := none
  deriving DecidableEq, Repr

/-- A module's arrival at a tray or fabric root (R316). `wide` is the widest scope it names, and `differ` says that its scope and
tag are those of an arrival that differed, which a root knows of arrivals that reach it by no packet. -/
structure ModArrival where
  src   : Nat
  scope : BitVec 2
  wide  : BitVec 2
  differ : Bool := false
  tag   : BitVec 16
  orW   : BitVec 32
  andW  : BitVec 32
  ftime : Nat
  modules : Nat
  deriving DecidableEq, Repr

/-- The pending release of a Proof that spans modules (R316). -/
structure FabRelease where
  time     : Nat
  scope    : BitVec 2
  tag      : BitVec 16
  orW      : BitVec 32
  andW     : BitVec 32
  mismatch : Bool
  late     : Bool := false
  deriving DecidableEq, Repr

/-- Proof state of the module (R38–R43, R316, R317): cluster instances, the clusters that have passed on to the wider
instance, its release, what a root has gathered, the entry Proof of a launch, and the
real tick of the release that began the phase (R249); `wLast` is the real tick of the last arrival at the wider instance
(R417). -/
structure ProofSt where
  inst     : SMap ClInst := []
  wider    : List Nat := []
  wArgs    : List Arrival := []
  wDiffer  : Option (BitVec 2 × BitVec 16) := none
  wLast    : Nat := 0
  release  : Option Nat := none
  sent     : Bool := false
  trayIn   : List ModArrival := []
  fabIn    : List ModArrival := []
  fab      : Option FabRelease := none
  entry    : Option Nat := none
  entryAt  : Option Nat := none
  phaseStart : Nat := 0
  deriving DecidableEq, Repr

/-- Who raised a Hold: a cluster island, a die service for a budget, or the management controller (R329). -/
inductive RaiserId where
  | island (c : Nat)
  | budget (b : Option Nat)
  | mgmt
  | core (k : Nat)
  deriving DecidableEq, Repr

/-- A raiser of the episode: cause (R328), freeze tick, and the tick its cause cleared (R331). `core` is the core whose
own engine access raised it (R333), `item` the row or the due tick that is awaited, and `owes` the continuing fault that is
recorded at the end of its episode: core, station and the IDs of its command (R362). -/
structure Raiser where
  who   : RaiserId
  cause : BitVec 4
  s     : Nat
  clear : Option Nat := none
  core  : Option Nat := none
  item  : Option Nat := none
  owes  : Option (Nat × BitVec 3 × BitVec 12 × BitVec 12) := none
  deriving DecidableEq, Repr

/-- An episode of a Hold (R330). `froze` gives the tick in which each island froze and `thawed` the islands that have
thawed again; `debugTicks` are the real ticks in which DEBUG was its only cause, `timed` says that it is timed against the limit,
and `limited` that it reached the limit (R335). -/
structure Episode where
  u0         : Nat
  raisers    : List Raiser
  froze      : SMap Nat := []
  thawed     : List Nat := []
  debugTicks : Nat := 0
  timed      : Bool := true
  limited    : Bool := false
  deriving DecidableEq, Repr

/-- A cluster island: the frozen ticks of the Holds it has left, and, while it is frozen, the tick in which it froze
(R331). -/
structure Island where
  frozen : Nat := 0
  since  : Option Nat := none
  deriving DecidableEq, Repr

/-- Holds of the module (R328–R335): the episodes in progress, oldest first, and the service raises that will begin
the next episode when the last island thaws (R330), and the tick in which the last episode ended. -/
structure HoldSt where
  eps     : List Episode := []
  islands : SMap Island := []
  next    : List Raiser := []
  lastEnd : Nat := 0
  deriving DecidableEq, Repr

/-- A phase-tick charge of several ticks: the cluster, the first island tick, the number of ticks, the tokens per tick,
and the core and command charged (R357, R358). -/
structure Span where
  cluster : Nat
  start   : Nat
  ticks   : Nat
  tokens  : Nat
  core    : Nat
  st      : BitVec 3
  layer   : BitVec 12
  op      : BitVec 12
  deriving DecidableEq, Repr

/-- A charge of a meter: the real tick in which it occurs, its budget (a cluster, or none for the shared one), its
tokens, and the core and command charged (R357, R362). -/
structure Charge where
  atT     : Nat
  budget : Option Nat
  tokens : Nat
  core   : Option Nat
  st     : BitVec 3
  layer  : BitVec 12
  op     : BitVec 12
  deriving DecidableEq, Repr

/-- The meters (R362): charges that run on, charges of the last window, and budgets in overdraw. -/
structure Meter where
  spans   : List Span := []
  charges : List Charge := []
  drawn   : List (Option Nat) := []
  deriving DecidableEq, Repr

/-! ### Knead and Lattice -/

/-- Where a landed row waits: the destination cluster's router, or a Lattice port (R292). -/
inductive LandPlace where
  | router (c : Nat)
  | port (p : Nat)
  deriving DecidableEq, Repr

/-- A row in a landing buffer (R292). -/
structure Landed where
  id       : Nat
  place    : LandPlace
  srcmod   : Nat
  tag      : BitVec 12
  row      : Nat
  rows     : Nat
  dcluster : Nat
  data     : Bytes
  atT       : Nat
  replayed : Bool := false
  moving   : Bool := false
  deriving DecidableEq, Repr

/-- `LAT.STATUS.STATE` (R322) and `HOST.STATUS.STATE`, which uses its first five values (R446). -/
inductive LinkState where
  | off | training | up | replay | down | miswired | freqErr
  deriving DecidableEq, Repr

/-- What a port has to send above the link level (R307). -/
inductive LatOut where
  | row (h : LatHdr) (data : Bytes)
  | sig (h : LatHdr)
  | proofArrive (h : LatHdr)
  | proofRelease (h : LatHdr)
  deriving DecidableEq, Repr

/-- A block of a frame (R307): a link-level one, or block `b` of a packet, whose block 0 is its header. -/
inductive LatBlock where
  | idle
  | ack (fseq : BitVec 12) (credits : Nat)
  | nak (fseq : BitVec 12)
  | stale (epoch : BitVec 32)
  | packet (o : LatOut) (b : Nat)
  deriving DecidableEq, Repr

/-- A frame of a link: `FSEQ`, `KIND` and twenty blocks (R306, R425). -/
structure Frame (Block : Type) where
  seq    : BitVec 12
  kind   : BitVec 2 := 0
  blocks : List Block
  deriving DecidableEq, Repr

/-- A packet in the buffers of a Lattice port that goes on by another: that port, the packet, and the real tick from which it may go on
(R310, R324). -/
structure Transit where
  port : Nat
  pkt  : LatOut
  atT  : Nat
  deriving DecidableEq, Repr

/-- One Lattice port (R305–R309, R321). `sent` is its replay buffer, `again` are the frames that a retry has still to resend, and
`part` is the packet whose next block it sends. `rxSeq` is the next `FSEQ` it receives, `waitFor` the one it awaits after a NAK,
`lost` are the frames discarded since, and `replays` those of them that have still to come again (R294, R308); `nakDue` says that the
NAK has still to leave, `ackAge` counts the frames since its last ACK, `owed` are credits to return, and `stales` the STALE blocks to
send. `transit` are the packets in its buffers that go on by another port. -/
structure Port where
  st       : LinkState := .off
  lanes    : BitVec 8 := 0
  peerMod  : BitVec 10 := 0
  peerPort : BitVec 5 := 0
  oneWay   : BitVec 16 := 0
  txSeq    : BitVec 12 := 0
  rxSeq    : BitVec 12 := 0
  sent     : List (Frame LatBlock) := []
  again    : List (Frame LatBlock) := []
  part     : Option (LatOut × Nat) := none
  waitFor  : Option (BitVec 12) := none
  lost     : Nat := 0
  replays  : Nat := 0
  nakDue   : Bool := false
  ackAge   : Nat := 0
  owed     : Nat := 0
  stales   : Nat := 0
  nakAt    : Nat := 0
  retries  : Nat := 0
  retryOf  : BitVec 12 := 0
  queue    : List LatOut := []
  transit  : List Transit := []
  credits  : Nat := 0
  fecCorr  : Nat := 0
  fecUnc   : Nat := 0
  retry    : Nat := 0
  maxTicks : Nat := 0
  noCredit : Nat := 0
  staleN   : Nat := 0
  staleSrc : BitVec 10 := 0
  census   : SMap Nat := []
  deriving DecidableEq, Repr

/-- The module-wide part of the LAT blocks, the module's place in the fabric, landing buffers, and the ring of port
switches (R310–R321). -/
structure Fabric where
  epoch     : BitVec 32 := 0
  quar      : Bool := false
  ftime     : Nat := 0
  unmatched : Nat := 0
  wrongCtx  : Nat := 0
  index     : Option Nat := none
  x : Nat := 1
  y : Nat := 1
  z : Nat := 1
  ox : Nat := 0
  oy : Nat := 0
  oz : Nat := 0
  landed    : List Landed := []
  nextId    : Nat := 0
  deriving DecidableEq, Repr

/-! ### Contexts -/

/-- `SEC.CTXk` and what stands behind it (R460–R473). `key` is the context's 64-byte XTS key, empty without one, and `oldKey` the key
that a sweep replaces. -/
structure SecCtx where
  sealed   : Bool := false
  list     : Option Bytes := none
  releases : List (Bool × Nat × Nat) := []
  ranges   : List (Nat × Nat) := []
  keyId    : Word := 0
  key      : Bytes := []
  oldKey   : Bytes := []
  session  : Option (Nat × Nat × Bytes × Bytes) := none
  traceKey : Option Bytes := none
  deriving DecidableEq, Repr

/-- The launch block (R437). -/
structure Launch where
  seed       : BitVec 128 := 0
  holdLimit  : BitVec 16 := 0
  flags      : BitVec 16 := 0
  traceBase  : Nat := 0
  traceSize  : Nat := 0
  snapBase   : Nat := 0
  snapSlots  : Nat := 0
  streams    : Nat := 0
  tableAddr  : Nat := 0
  deriving DecidableEq, Repr

/-- What the load keeps of a binary and of its load block (R343–R345, R435). -/
structure BinInfo where
  ttId     : BitVec 16 := 0
  shape    : Word := 0
  saveAddr : Nat := 0
  saveLen  : Nat := 0
  module   : Nat := 0
  members  : List Nat := []
  maint    : List MaintSlot := []
  shared   : Nat := 0
  budgets  : SMap Nat := []
  proofTags : List Nat := []
  digest   : Bytes := []
  deriving DecidableEq, Repr

/-- A context state (R383). -/
inductive CtxState where
  | empty | loaded | running | switched | held | faulted | done | aborted
  deriving DecidableEq, Repr

/-- A saved image: what R86, R171, R217, R286 and R405 save of every core and every cluster. -/
structure SaveImage where
  cores    : SMap Core := []
  clusters : SMap Cluster := []
  rows     : List Host.Cell := []
  census   : SMap (SMap Nat) := []
  skew     : SMap Nat := []
  w        : Nat := 0
  fab      : Nat := 0
  deriving DecidableEq, Repr

/-- A context as the module keeps it in a save area: what a CTX_RESTORE of that area brings back (R86, R87, R391, R533). -/
structure SavedCtx where
  img    : SaveImage
  bin    : BinInfo
  launch : Launch
  xlat   : SMap Word
  keyId  : Word
  isSealed : Bool
  deriving DecidableEq, Repr

/-- An unplanned trace of a context: whether TRACE_CTL asked for compatibility records, and its region (R415, R512). -/
structure UTrace where
  compat : Bool
  base   : Nat
  size   : Nat
  deriving DecidableEq, Repr

/-- A Starter arm (R387). -/
structure Arm where
  n   : Nat
  tag : BitVec 16
  op  : BitVec 32
  cmdTag : BitVec 16
  iface : Iface
  deriving DecidableEq, Repr

/-- One context (R383–R391, R435–R439). `w` counts releases of MODULE scope or wider (R531), `fabN` FABRIC releases. Of an abort that
has not replied, `abortAt` is its point, and `abortEnd` says whether the context was done in time or the abort has taken effect
(R384). `utrace` is the unplanned trace that is on (R415), and `traced` are the regions of the job's unplanned traces (R467). -/
structure Ctx where
  st       : CtxState := .empty
  bin      : BinInfo := {}
  launch   : Launch := {}
  launched : Bool := false
  w        : Nat := 0
  fabN     : Nat := 0
  arm      : Option Arm := none
  capture  : Option (Nat × BitVec 16 × BitVec 32 × BitVec 32) := none
  switchAt : Option (Nat × Nat × BitVec 32) := none
  save     : Option SaveImage := none
  abortAt  : Option Nat := none
  abortEnd : Option Bool := none
  abortOp  : BitVec 32 := 0
  launchOp : Option (BitVec 32) := none
  firstFault : Option Nat := none
  utrace   : Option UTrace := none
  traced   : List (Nat × Nat) := []
  sec      : SecCtx := {}
  deriving DecidableEq, Repr

/-! ### Host -/

/-- A command packet that waits in a queue, or for its reply (R431): its number in order of arrival, and what its payload
says, if it is plaintext or its tag verified. -/
structure Pending where
  iface  : Iface
  hdr    : Bytes
  payload : Bytes
  atT     : Nat
  num    : Nat := 0
  plain  : Option Bytes := none
  deriving DecidableEq, Repr

/-- A reply or an event that the module sent (R428, R442), or a management-port message (R444). `dst` is the endpoint that an event or a
message of the management port goes to; a reply goes to the endpoint its command came from. -/
structure Sent where
  iface   : Iface
  hdr     : Bytes
  payload : Bytes
  atT      : Nat
  dst     : Option Byte
  deriving DecidableEq, Repr

/-- A host bulk transfer in progress (R440, R530): its packet, the operation it belongs to, if it is a BULK_FILL, whether it
writes, its address and row count, the bytes it writes (the pattern of a row for a BULK_FILL), the rows that have left, the rows
that are done with what was read of them, and the real tick from which the next row may leave. -/
structure BulkJob where
  id    : Nat
  cmd   : Pending
  op    : Option (BitVec 32) := none
  write : Bool
  addr  : Nat
  n     : Nat
  data  : Bytes := []
  gone  : Nat := 0
  got   : SMap Bytes := []
  next  : Nat := 0
  deriving DecidableEq, Repr

/-- A REG_READ or REG_WRITE in progress (R441): its packet, whether it writes, the addresses still to be reached, one in a tick,
and what has been read. -/
structure RegJob where
  cmd   : Pending
  write : Bool
  addrs : List Nat
  data  : Bytes := []
  deriving DecidableEq, Repr

/-- A block of a frame of Renkai Link (R426): a link-level one, or 32 bytes of a packet. -/
inductive HostBlock where
  | idle
  | ack (fseq : BitVec 12) (hdr pay : Nat)
  | nak (fseq : BitVec 12)
  | bytes (b : Bytes)
  deriving DecidableEq, Repr

/-- A long-running operation (R396, R432, R433, R535). `state`: 0 running, 1 completed, 2 aborted or cancelled. `num` is the
arrival number of its command and `enc` says that its replies are protected; `cancel` is an OP_CANCEL of it with its cancel
point. -/
structure Op where
  id       : BitVec 32
  iface    : Iface
  tag      : BitVec 16
  ctx      : BitVec 2
  opcode   : BitVec 16
  num      : Nat := 0
  enc      : Bool := false
  state    : Nat := 0
  status   : BitVec 8 := 0
  progress : Nat := 0
  cancel   : Option (Nat × Pending) := none
  args     : List Nat := []
  data     : Bytes := []
  cfg      : Option ConfigRecord := none
  deriving DecidableEq, Repr

/-- The host link and the command interface (R424–R446). `acked` is the last frame that the host acknowledged, `hdrCred` and `payCred`
are the credits that the host holds, and `sent` is everything that has been handed to its interface, in order. Of Renkai Link, `out`
are the 32-B blocks that have still to leave, `frames` is the replay buffer, `again` are the frames that a retry has still to resend,
`line` is the frame that left last, `txSeq` and `rxSeq` are the next `FSEQ` sent and received, `waitFor` is the one awaited after a
NAK, `nakDue` says that the NAK has still to leave, `ackAge` counts the frames since the last ACK, `owedHdr` and `owedPay` are credits
to return, `fillAge` counts the frames since the last FILL, `fillSeen` says that the frame of this time was FILL, `downAt` is the tick
of the last attempt to train, and `resume` says that the host's first ACK after a retraining has still to come. `jobs` are the bulk
transfers in progress, `regJob` the register access, and `change` the LIFECYCLE (by its target) or SEALED_LOCK (4) whose count is
committed and whose change is still to come (R453). -/
structure HostSt where
  link     : LinkState := .off
  lanes    : BitVec 4 := 0
  fecCorr  : Nat := 0
  fecUnc   : Nat := 0
  downs    : Nat := 0
  retry    : Nat := 0
  acked    : BitVec 12 := 0
  out      : List Bytes := []
  frames   : List (Frame HostBlock) := []
  again    : List (Frame HostBlock) := []
  line     : Option (Frame HostBlock) := none
  txSeq    : BitVec 12 := 0
  rxSeq    : BitVec 12 := 0
  waitFor  : Option (BitVec 12) := none
  nakDue   : Bool := false
  ackAge   : Nat := 0
  owedHdr  : Nat := 0
  owedPay  : Nat := 0
  fillAge  : Nat := 0
  fillSeen : Bool := false
  downAt   : Nat := 0
  resume   : Bool := false
  retries  : Nat := 0
  retryOf  : BitVec 12 := 0
  hdrCred  : Nat := 64
  payCred  : Nat := 65536
  evLost   : Nat := 0
  bad      : Nat := 0
  control  : List Pending := []
  bulk     : List Pending := []
  jobs     : List BulkJob := []
  regJob   : Option RegJob := none
  change   : Option (Nat × Pending) := none
  arrN     : Nat := 0
  tags     : List (Iface × BitVec 16) := []
  evR      : List Sent := []
  evM      : List Sent := []
  maskR    : BitVec 8 := 7
  maskM    : BitVec 8 := 7
  sent     : List Sent := []
  ops      : List Op := []
  ended    : List Op := []
  opSeq    : Nat := 0
  eid      : Byte := 0
  eidBy    : Option Byte := none
  deriving DecidableEq, Repr

/-! ### Security, power, log, observation -/

/-- The Tally store (R452, R457, R476). `intents` are the counters whose commit is not yet followed by its change (R453). -/
structure Tally where
  lifecycle : Nat := 0
  lock      : Bool := false
  grade     : Nat := 0
  config    : Nat := 1
  next      : Nat := 0
  pending   : Option Nat := none
  intents   : List Nat := []
  tamper    : Bool := false
  deriving DecidableEq, Repr

/-- The security controller (R447–R476). `life` and `locked` are the lifecycle state and the Sealed-only lock in effect. -/
structure SecSt where
  tally     : Tally := {}
  life      : BitVec 2 := 0
  locked    : Bool := false
  cert      : Bytes := []
  opKey     : Bytes := []
  zeroised  : Bool := false
  selftest  : Bool := false
  mr        : SMap Bytes := []
  resident  : Option Nat := none
  deniedEng : Nat := 0
  deniedHost : Nat := 0
  rekeyOpen : Bool := false
  rekeyJournal : Nat := 0
  rekeyRow  : Nat := 0
  deriving DecidableEq, Repr

/-- A copy of the configuration record in package flash (R483). -/
inductive FlashCopy where
  | unreadable
  | copy (r : ConfigRecord)
  deriving DecidableEq, Repr

/-- Module states (R479). -/
inductive ModState where
  | off | powering | selfCheck | waitHost | ready | running | safe | retired | rekeyResume
  deriving DecidableEq, Repr

/-- The two flash copies of the management firmware or of the microcode (R396, R455): the one that ran last and the other, each none for
the image as shipped; `fresh` says that the other is an update that has still to run. -/
structure FlashImage where
  run   : Option Bytes := none
  other : Option Bytes := none
  fresh : Bool := false
  deriving DecidableEq, Repr

/-- The clock crossings of R324, by the rows of its table in their order: how many of them there are, and their k. The last three are
those of the auxiliary domain (R478). How many crossings a record lists, and how they are numbered, is a DESIGN CHOICE (log entry
116). -/
def crossingKs : List (Nat × Nat) := [(152, 1), (20, 5), (24, 2), (96, 4), (4, 4), (20, 2), (3, 4)]

/-- The crossings of the main domain, and all of them. -/
def mainCrossings : Nat := 316
def allCrossings : Nat := 319

/-- Every crossing with the k of R324, and its trim by its number. -/
def crossingsWith (trim : Nat → Nat) : List Crossing :=
  (crossingKs.flatMap fun e => List.replicate e.1 e.2).mapIdx fun i k => ⟨k, trim i⟩

/-- The values in use without a configuration record: the boot values of the auxiliary domain, which stand in the boot ROM (R478); the
main domain's crossings, which do not run then, stand at 0 (log entry 116). -/
def bootCrossings : List Crossing := crossingsWith fun i => if i < mainCrossings then 0 else Config.bootTrim i % 64

/-- The management controller, the pins and the input (R477–R495, R520–R523). `warm` says that the coming SELF_CHECK
follows a WARM reset with DRAM kept; `resume4` that it resumes at step 4 (R484). `applyPend` is a record that has been accepted
and not yet written to both copies in flash, and says whether copy B holds it (R453, R484). `resetAt` is the tick in which a RESET
command last took effect (R492). `fwBuf` is what FW_UPDATE has written so far. `coolant`, `resetN` and `slotId` are the levels last seen
on their pins, `slotUsed` is the level sampled at the entry to POWERING (R522), and `trims` are the crossings' values in use (R325). -/
structure MgmtSt where
  st        : ModState := .powering
  prev      : ModState := .off
  safeCause : BitVec 8 := 0
  lastReset : BitVec 4 := 0
  aux       : Bool := true
  main      : Bool := false
  mV        : Nat := 44000
  coolant   : Bool := false
  coolantAck : Bool := false
  resetN    : Bool := true
  slotId    : BitVec 3 := 7
  slotUsed  : BitVec 3 := 7
  trayId    : Bool := false
  warm      : Bool := false
  resume4   : Bool := false
  pwrGood   : Bool := false
  copyA     : FlashCopy := .unreadable
  copyB     : FlashCopy := .unreadable
  inUse     : Nat := 0
  aStatus   : Nat := 0
  bStatus   : Nat := 0
  record    : Option ConfigRecord := none
  stepping  : BitVec 8 := 0xB0#8
  cycles    : Nat := 1
  hours0    : Nat := 0
  active    : BitVec 5 := 0
  episodes  : Nat := 0
  trip      : BitVec 8 := 0
  lastRaise : Nat := 0
  applyPend : Option (ConfigRecord × Bool) := none
  resetAt   : Option Nat := none
  trims     : List Crossing := bootCrossings
  fwBuf     : Bytes := []
  fw        : FlashImage := {}
  uc        : FlashImage := {}
  deriving DecidableEq, Repr

/-- A record of the Crumb Log (R496), with the real tick in which it is written. -/
structure CrumbRec where
  seq      : Nat
  severity : Nat
  source   : Nat
  code     : Nat
  time     : Word
  ctx      : Byte
  state    : Byte
  site     : BitVec 16
  layer    : BitVec 16
  op       : BitVec 16
  superstep : BitVec 32
  epoch    : BitVec 32
  detail   : Bytes
  atT      : Nat
  deriving DecidableEq, Repr

/-- What a record changes: the occupied slots, the drop counters and the newest record (R497, R499, R501). -/
structure CrumbLog where
  slots    : SMap CrumbRec := []
  dropLow  : Nat := 0
  dropErr  : Nat := 0
  dropFat  : Nat := 0
  lastSlot : Nat := 0
  lastSeq  : Nat := 0
  deriving DecidableEq, Repr

/-- The Crumb Log (R496–R506): its slots and counters, the committed copies of the slots in package flash (R498), and the window
cursor. `fresh` are the records of the tick `freshAt` so far, in the order of R500, and `base` is the log before them. -/
structure CrumbSt where
  slots    : SMap CrumbRec := []
  dropLow  : Nat := 0
  dropErr  : Nat := 0
  dropFat  : Nat := 0
  lastSlot : Nat := 0
  lastSeq  : Nat := 0
  flash    : SMap CrumbRec := []
  cursor   : Nat := 0
  base     : CrumbLog := {}
  fresh    : List CrumbRec := []
  freshAt  : Nat := 0
  deriving DecidableEq, Repr

/-- A TRACE_CTL that waits for its Proof (R415): whether it enables, the mode, the region, and its packet. -/
structure TraceReq where
  on     : Bool
  compat : Bool
  base   : Nat
  size   : Nat
  cmd    : Pending
  deriving DecidableEq, Repr

/-- A record of the event ring without its sequence number, and the core whose number orders it (R410). -/
structure ObsRec where
  core : Nat
  data : Bytes
  deriving DecidableEq, Repr

/-- The OBS module block (R407–R421). `fresh` are the records of the tick in which the block stands,
and `side` those in the side-channel buffer (R408). -/
structure ObsSt where
  mode      : BitVec 2 := 0
  trace     : BitVec 2 := 0
  share     : BitVec 4 := 0
  compat    : Bool := false
  traceBase : Nat := 0
  traceRows : Nat := 0
  snapBase  : Nat := 0
  snapSlots : Nat := 0
  snapN     : Nat := 0
  evN       : Nat := 0
  evSeq     : Nat := 0
  evNext    : Nat := 0
  events    : SMap Bytes := []
  fresh     : List ObsRec := []
  side      : List Bytes := []
  skew      : SMap Nat := []
  pendTrace : List TraceReq := []
  deriving DecidableEq, Repr

/-- One monitor, or the latch (R417, R418, R423). -/
structure Monitor where
  min     : BitVec 32 := 0xFFFFFFFF#32
  max     : BitVec 32 := 0
  bins    : SMap Nat := []
  samples : Nat := 0
  last    : BitVec 32 := 0
  deriving DecidableEq, Repr

/-- The MON block (R422, R423). `fresh` are the samples of the tick in which the block stands, which enter their monitors when it
ends (R418). `eccSeen`, `meshSeen` and `latSeen` count the replays and corrections since
the last level sample, for monitors 56–58; `levelAt` and `windowAt` are the ticks after the last level and window samples. -/
structure MonSt where
  mons       : SMap Monitor := []
  fresh      : List (Nat × Nat) := []
  latchV     : Bool := false
  latchM     : BitVec 6 := 0
  latch      : Monitor := {}
  eccSeen    : Nat := 0
  meshSeen   : Nat := 0
  latSeen    : Nat := 0
  levelAt    : Nat := 0
  windowAt   : Nat := 0
  deriving DecidableEq, Repr

/-! ### The block -/

/-- The state of the block. `pending`, `now` and `free` are the model's own: the commands that wait, the real tick the
block stands in, and the counter that draws free values. `gates` holds how far the rate of each mesh port and each stack has been
used (R232, R242). `images` are the saved contexts by the DRAM address of their save
area, and `onCores` is the context whose state the cores and the cluster
memories carry (R88). -/
structure State where
  pending  : List Instr := []
  now      : Nat := 0
  free     : Nat := 0
  cores    : SMap Core := []
  clusters : SMap Cluster := []
  mem      : List Host.Cell := []
  pkts     : List Pkt := []
  gates    : SMap Nat := []
  xfers    : List Xfer := []
  nextId   : Nat := 0
  routers  : SMap Router := []
  drams    : SMap Stack := []
  sync     : SyncSt := {}
  proof    : ProofSt := {}
  hold     : HoldSt := {}
  meter    : Meter := {}
  fab      : Fabric := {}
  ports    : SMap Port := []
  ctxs     : SMap Ctx := []
  images   : SMap SavedCtx := []
  onCores  : Option Nat := none
  host     : HostSt := {}
  sec      : SecSt := {}
  mgmt     : MgmtSt := {}
  crumb    : CrumbSt := {}
  obs      : ObsSt := {}
  mon      : MonSt := {}
  deriving DecidableEq, Repr

/-- The configuration record of the module after reset. DESIGN CHOICE (log entry 6): the manual fixes what a record
holds, not the record of any one module. This one is an LT-96 of stepping B0 with option S, version 1, every cluster
enabled, no faulty site and no disabled router: the core map runs through clusters and slots in rising order and takes
slots 0 to 15 of each cluster, so logical core k stands at slot k mod 16 of cluster k / 16 (R3, R8). -/
def factoryRecord : ConfigRecord where
  version := 1
  stepping := 0xB0#8
  grade := 96
  optionS := true
  enabled := List.range 96
  coreMap := (List.range 1536).map fun k => (k / 16, k % 16)
  badCores := []
  disRouters := []
  crossings := crossingsWith fun _ => 0
  minFw := 0
  signed := true

/-- The management controller right after power-up (R479, R520). -/
def MgmtSt.reset : MgmtSt :=
  { copyA := .copy factoryRecord, copyB := .copy factoryRecord }

/-- The block right after reset. -/
def State.reset : State :=
  { mgmt := MgmtSt.reset }

end Sys2Proof.Machine
end

