-- ==== Sys2Proof/Machine/Ops.lean ====
section
/-! DEFINITION. The shared operations: the parts of the state by number, time, contexts, events and the Crumb Log,
faults of a core, Holds, and token charges. -/

namespace Sys2Proof.Machine

/-! ### Parts of the state -/

/-- The core of a logical number. -/
def State.core (s : State) (k : Nat) : Core := mget s.cores k {}

/-- Put a core. -/
def State.setCore (s : State) (k : Nat) (c : Core) : State := { s with cores := mset s.cores k c }

/-- Rewrite a core. -/
def State.onCore (s : State) (k : Nat) (f : Core → Core) : State := s.setCore k (f (s.core k))

/-- Rewrite the sequencer of a core. -/
def State.onSeq (s : State) (k : Nat) (f : Seq → Seq) : State := s.onCore k fun c => { c with seq := f c.seq }

/-- The cluster of a physical number. -/
def State.cluster (s : State) (c : Nat) : Cluster := mget s.clusters c {}

/-- Put a cluster. -/
def State.setCluster (s : State) (c : Nat) (x : Cluster) : State := { s with clusters := mset s.clusters c x }

/-- Rewrite a cluster. -/
def State.onCluster (s : State) (c : Nat) (f : Cluster → Cluster) : State := s.setCluster c (f (s.cluster c))

/-- A context. -/
def State.ctx (s : State) (i : Nat) : Ctx := mget s.ctxs i {}

/-- Rewrite a context. -/
def State.onCtx (s : State) (i : Nat) (f : Ctx → Ctx) : State := { s with ctxs := mmod s.ctxs i {} f }

/-- A Lattice port. -/
def State.port (s : State) (p : Nat) : Port := mget s.ports p {}

/-- Rewrite a Lattice port. -/
def State.onPort (s : State) (p : Nat) (f : Port → Port) : State := { s with ports := mmod s.ports p {} f }

/-- A stack. -/
def State.stack (s : State) (i : Nat) : Stack := mget s.drams i {}

/-- Rewrite a stack. -/
def State.onStack (s : State) (i : Nat) (f : Stack → Stack) : State := { s with drams := mmod s.drams i {} f }

/-- Rewrite the host interface. -/
def State.onHost (s : State) (f : HostSt → HostSt) : State := { s with host := f s.host }

/-- Rewrite the management controller. -/
def State.onMgmt (s : State) (f : MgmtSt → MgmtSt) : State := { s with mgmt := f s.mgmt }

/-- Rewrite the security controller. -/
def State.onSec (s : State) (f : SecSt → SecSt) : State := { s with sec := f s.sec }

/-- Rewrite the OBS module block. -/
def State.onObs (s : State) (f : ObsSt → ObsSt) : State := { s with obs := f s.obs }

/-- Rewrite the SYNC module block. -/
def State.onSync (s : State) (f : SyncSt → SyncSt) : State := { s with sync := f s.sync }

/-- Rewrite the Proof state. -/
def State.onProof (s : State) (f : ProofSt → ProofSt) : State := { s with proof := f s.proof }

/-- Rewrite the fabric state. -/
def State.onFab (s : State) (f : Fabric → Fabric) : State := { s with fab := f s.fab }

/-- A fresh number for a transfer, a packet or a landed row, and the state that has used it. -/
def State.fresh (s : State) : Nat × State := (s.nextId, { s with nextId := s.nextId + 1 })

/-- A free value, and the state with the counter advanced (log entry 2). -/
def State.drawFree (s : State) : Word × State := (Config.freeWord s.free, { s with free := s.free + 1 })

/-- `n` words of free values. -/
def drawWords : Nat → State → List Word × State
  | 0, s => ([], s)
  | n + 1, s =>
    let (w, s1) := s.drawFree
    let (ws, s2) := drawWords n s1
    (w :: ws, s2)

/-- `8·n` bytes of free values. -/
def drawBytes (n : Nat) (s : State) : Bytes × State :=
  let (ws, s1) := drawWords n s
  (ws.flatMap fun w => leBytes 8 w.toNat, s1)

/-! ### Sites (R3, R8, R12) -/

/-- The core map of the record in use; empty while no record is in use. -/
def State.coreMap (s : State) : List (Nat × Nat) :=
  match s.mgmt.record with
  | some r => r.coreMap
  | none => []

/-- Physical cluster and slot of a logical core. -/
def State.site (s : State) (k : Nat) : Nat × Nat := (s.coreMap[k]?).getD (0, 0)

/-- Physical cluster of a logical core. -/
def State.clusterOf (s : State) (k : Nat) : Nat := (s.site k).1

/-- The logical cores, in rising order. -/
def State.allCores (s : State) : List Nat := List.range s.coreMap.length

/-- The logical cores of one cluster, in rising order. -/
def State.coresOf (s : State) (c : Nat) : List Nat := s.allCores.filter fun k => s.clusterOf k == c

/-- The logical core at a physical site, if that site is enabled. -/
def State.coreAt (s : State) (c slot : Nat) : Option Nat :=
  s.allCores.find? fun k => s.site k == (c, slot)

/-- The enabled clusters, in rising order. -/
def State.enabled (s : State) : List Nat :=
  match s.mgmt.record with
  | some r => r.enabled
  | none => []

/-- Number of cluster islands (R25). -/
def nIslands : Nat := 96

/-! ### Time (R13, R36, R331) -/

/-- A cluster island. -/
def State.island (s : State) (c : Nat) : Island := mget s.hold.islands c {}

/-- The island is frozen by a Hold. -/
def State.frozen (s : State) (c : Nat) : Bool := (s.island c).since.isSome

/-- Ticks that an island has spent frozen. -/
def State.frozenTicks (s : State) (c : Nat) : Nat :=
  match (s.island c).since with
  | some t => (s.island c).frozen + (s.now - t)
  | none => (s.island c).frozen

/-- Ticks of an island's own clock: real ticks without its frozen ones. -/
def State.ticks (s : State) (c : Nat) : Nat := s.now - s.frozenTicks c

/-- Island tick of a core. -/
def State.coreTick (s : State) (k : Nat) : Nat := s.ticks (s.clusterOf k)

/-- Phase tick of a core; the counter stops at 0xFFFF_FFFF (R36, R71). -/
def State.phase (s : State) (k : Nat) : Nat := min max32 (s.coreTick k - (s.core k).seq.phase0)

/-- The core's island is frozen. -/
def State.coreFrozen (s : State) (k : Nat) : Bool := s.frozen (s.clusterOf k)

/-! ### Contexts (R383, R531) -/

/-- The code of a context state. -/
def ctxCode : CtxState → Nat
  | .empty => 0 | .loaded => 1 | .running => 2 | .switched => 3
  | .held => 4 | .faulted => 5 | .done => 6 | .aborted => 7

/-- A context that counts as running (R383). -/
def CtxState.active : CtxState → Bool
  | .running | .held | .faulted => true
  | _ => false

/-- The running context, if there is one. -/
def State.cur (s : State) : Option Nat := (List.range 4).find? fun i => (s.ctx i).st.active

/-- The context whose job the cores carry: the running one, or the first. -/
def State.curCtx (s : State) : Ctx := s.ctx (s.cur.getD 0)

/-- Superstep count of the running context (R531). -/
def State.superstep (s : State) : Nat :=
  match s.cur with
  | some i => (s.ctx i).w / 2
  | none => 0

/-- The job was launched with debug enabled (R84, R437). -/
def State.debugJob (s : State) : Bool :=
  match s.cur with
  | some i => (s.ctx i).launch.flags.getLsbD 1
  | none => false

/-- The job runs in Sealed mode (R437). -/
def State.sealedJob (s : State) : Bool :=
  match s.cur with
  | some i => (s.ctx i).launch.flags.getLsbD 2
  | none => false

/-- A figure of the timing table of the running binary: its 0x0B00 value, or its 0x0A01 value (R66, R353). -/
def State.table (s : State) (b0 a1 : Nat) : Nat := if s.curCtx.bin.ttId = 0x0A01#16 then a1 else b0

/-! ### Events to the host (R442) -/

/-- The code of a module state (R479). -/
def modCode : ModState → Nat
  | .off => 0 | .powering => 1 | .selfCheck => 2 | .waitHost => 3 | .ready => 4
  | .running => 5 | .safe => 6 | .retired => 7 | .rekeyResume => 8

/-- The header of an event: opcode, context, and the twenty bytes of `PARAMS` (R427, R428). -/
def eventHdr (opcode ctx : Nat) (params : Bytes) : Bytes :=
  leBytes 2 opcode ++ leBytes 2 0 ++ leBytes 1 ctx ++ [0xC0#8, 0#8, 0#8] ++ leBytes 4 0 ++ padTo 20 params

/-- Enter an event in the queue of one interface, under its mask, or count it as lost (R442). -/
def enqueueEvent (i : Iface) (bit : Nat) (hdr : Bytes) (now : Nat) (h : HostSt) : HostSt :=
  match i with
  | .renkai =>
    if h.maskR.getLsbD bit then
      if h.evR.length < 64 then { h with evR := h.evR ++ [⟨.renkai, hdr, [], now, none⟩] }
      else { h with evLost := satAdd 0xFFFF h.evLost 1 }
    else h
  | .mgmt =>
    if h.maskM.getLsbD bit then
      if h.evM.length < 64 then { h with evM := h.evM ++ [⟨.mgmt, hdr, [], now, none⟩] }
      else { h with evLost := satAdd 0xFFFF h.evLost 1 }
    else h

/-- Post an event on both interfaces. -/
def postEvent (bit : Nat) (hdr : Bytes) (s : State) : State :=
  s.onHost fun h => enqueueEvent .mgmt bit hdr s.now (enqueueEvent .renkai bit hdr s.now h)

/-- MODULE_EVENT (R442). -/
def moduleEvent (seq : Nat) (s : State) : State :=
  postEvent 0 (eventHdr 0x01F0 0
    (leBytes 1 (modCode s.mgmt.st) ++ leBytes 3 0 ++ leBytes 4 seq)) s

/-- PORT_EVENT (R442). -/
def portEvent (p st : Nat) (s : State) : State :=
  postEvent 2 (eventHdr 0x07F0 0 (leBytes 1 p ++ leBytes 1 st)) s

/-! ### The Crumb Log (R496–R501) -/

/-- A record concerns a Sealed context: its binary carries `SEALED`, or its job runs in Sealed mode (R468, R496). -/
def crumbSealed (s : State) (i : Option Nat) : Bool :=
  match i with
  | none => false
  | some c => (s.ctx c).sec.sealed || (s.ctx c).launch.flags.getLsbD 2

/-- The context byte of a record: none, or a context with its Sealed flag (R496). -/
def crumbCtx (s : State) (i : Option Nat) : Byte :=
  match i with
  | none => 0
  | some c => BitVec.ofNat 8 (c + 4 + 8 * bnat (crumbSealed s i))

/-- Power-cycle count and operating time in the layout of `MGMT.HOURS` (R496). -/
def State.hours (s : State) : Word :=
  packWord [(s.mgmt.hours0 + s.now / 100000000, 0), (s.mgmt.cycles, 36)]

/-- The lowest number from `n` on that no entry has, in a table of rising keys. -/
def firstFree {α : Type} : SMap α → Nat → Nat
  | [], n => n
  | (j, _) :: m, n => if j = n then firstFree m (n + 1) else if n < j then n else firstFree m n

/-- The slot that holds the record of one severity with the lowest `SEQ`. -/
def oldestOf (slots : SMap CrumbRec) (sev : Nat) : Option Nat :=
  (slots.foldl (fun (a : Option (Nat × Nat)) e =>
    if e.2.severity = sev then
      match a with
      | some (q, j) => if e.2.seq < q then some (e.2.seq, e.1) else some (q, j)
      | none => some (e.2.seq, e.1)
    else a) none).map (·.2)

/-- The lowest severity present. -/
def lowestSev (slots : SMap CrumbRec) : Nat := slots.foldl (fun a e => min a e.2.severity) 5

/-- The slot a new record takes, if it is not dropped (R499). -/
def crumbSlot (slots : SMap CrumbRec) (sev : Nat) : Option Nat :=
  if firstFree slots 0 < 16384 then some (firstFree slots 0)
  else if lowestSev slots < sev then oldestOf slots (lowestSev slots)
  else if sev ≤ 2 then oldestOf slots sev
  else none

/-- Count a dropped record (R501). -/
def crumbDrop (sev : Nat) (c : CrumbLog) : CrumbLog :=
  if sev ≤ 2 then { c with dropLow := satAdd 0xFFFF c.dropLow 1 }
  else if sev = 3 then { c with dropErr := satAdd 0xFFFF c.dropErr 1 }
  else { c with dropFat := satAdd 0xFFFF c.dropFat 1 }

/-- A record takes its number and its slot, or is dropped and takes number 0 (R497, R499, R501). -/
def CrumbLog.write (r : CrumbRec) (l : CrumbLog) : CrumbRec × CrumbLog :=
  match crumbSlot l.slots r.severity with
  | some n =>
    let r' := { r with seq := l.lastSeq + 1 }
    (r', { l with slots := mset l.slots n r', lastSlot := n, lastSeq := l.lastSeq + 1 })
  | none => ({ r with seq := 0 }, crumbDrop r.severity l)

/-- Records are written one after another. -/
def CrumbLog.writeAll : List CrumbRec → CrumbLog → List CrumbRec × CrumbLog
  | [], l => ([], l)
  | r :: rs, l =>
    let (r', l1) := l.write r
    let (rs', l2) := writeAll rs l1
    (r' :: rs', l2)

/-- Of two records of one tick the first is written first: by descending severity, then ascending source, then ascending site (R500). -/
def recBefore (a b : CrumbRec) : Bool :=
  decide (b.severity < a.severity) || (a.severity == b.severity &&
    (decide (a.source < b.source) || (a.source == b.source && decide (a.site.toNat < b.site.toNat))))

/-- How many of the records of the tick stay before a further one; records that R500 does not order keep the order of their events
(log entry 123). -/
def recPlace (r : CrumbRec) (xs : List CrumbRec) : Nat := (xs.takeWhile fun x => !recBefore r x).length

/-- The log without its flash copies, its cursor and what it keeps of the tick. -/
def CrumbSt.log (c : CrumbSt) : CrumbLog :=
  { slots := c.slots, dropLow := c.dropLow, dropErr := c.dropErr, dropFat := c.dropFat, lastSlot := c.lastSlot, lastSeq := c.lastSeq }

/-- The log before the records of a tick, and those records so far. -/
def CrumbSt.before (c : CrumbSt) (now : Nat) : CrumbLog × List CrumbRec :=
  if c.freshAt = now && !c.fresh.isEmpty then (c.base, c.fresh) else (c.log, [])

/-- A record of a tick joins the log: it and those behind it are written anew, so that each takes its slot after every earlier record of
the tick (R500). Its number, and the new numbers of the others, by their old ones. -/
def CrumbSt.add (r : CrumbRec) (now : Nat) (c : CrumbSt) : Nat × List (Nat × Nat) × CrumbSt :=
  let (base, old) := c.before now
  let p := recPlace r old
  let (new, l) := base.writeAll (old.take p ++ r :: old.drop p)
  ((new.getD p r).seq, (old.zip (new.eraseIdx p)).map fun e => (e.1.seq, e.2.seq),
    { c with
      slots := l.slots, dropLow := l.dropLow, dropErr := l.dropErr, dropFat := l.dropFat, lastSlot := l.lastSlot, lastSeq := l.lastSeq
      base := base, fresh := new, freshAt := now })

/-- The new number of a record. -/
def newSeq (ren : List (Nat × Nat)) (n : Nat) : Nat :=
  match ren.find? fun e => e.1 == n && n != 0 with
  | some e => e.2
  | none => n

/-- A MODULE_EVENT of the tick that still waits names its record by the new number (R442). -/
def renumber (ren : List (Nat × Nat)) (now : Nat) (x : Sent) : Sent :=
  if x.atT = now && x.hdr.take 2 == leBytes 2 0x01F0 then
    { x with hdr := x.hdr.take 16 ++ leBytes 4 (newSeq ren (field x.hdr 16 4)) ++ x.hdr.drop 20 }
  else x

/-- What a caller names of a record; the rest follows from the state. -/
structure CrumbArg where
  severity : Nat
  source   : Nat
  code     : Nat
  ctx      : Option Nat := none
  site     : BitVec 16 := 0
  layer    : BitVec 12 := 0
  op       : BitVec 12 := 0
  detail   : Bytes := []

/-- The record that a caller writes now; its number follows when it is written. -/
def crumbRec (a : CrumbArg) (s : State) : CrumbRec :=
  { seq := 0, severity := a.severity, source := a.source, code := a.code, time := s.hours,
    ctx := crumbCtx s a.ctx, state := BitVec.ofNat 8 (modCode s.mgmt.st), site := a.site,
    layer := a.layer.setWidth 16, op := a.op.setWidth 16,
    superstep := match a.ctx with
      | some c => BitVec.ofNat 32 ((s.ctx c).w / 2)
      | none => 0,
    epoch := s.fab.epoch, detail := if crumbSealed s a.ctx then padTo 24 [] else padTo 24 a.detail, atT := s.now }

/-- Write a record among those of its tick, or drop it; an ERROR or FATAL record posts a MODULE_EVENT (R442, R496–R501). -/
def crumb (a : CrumbArg) (s : State) : State :=
  let (n, ren, c) := s.crumb.add (crumbRec a s) s.now
  let s1 := { s with crumb := c }
  let s2 := if ren.isEmpty then s1
    else s1.onHost fun h => { h with evR := h.evR.map (renumber ren s.now), evM := h.evM.map (renumber ren s.now) }
  if 3 ≤ a.severity then moduleEvent n s2 else s2

/-- Commit every record to flash; a later record of the tick comes behind those that are committed (R498). -/
def crumbCommit (s : State) : State := { s with crumb := { s.crumb with flash := s.crumb.slots, fresh := [] } }

/-! ### Status codes (R429) -/

def stOk : Nat := 0
def stAccepted : Nat := 1
def stBusy : Nat := 2
def stRefused : Nat := 3
def stBadPacket : Nat := 4
def stBadParam : Nat := 5
def stDenied : Nat := 6
def stNotConf : Nat := 7
def stAborted : Nat := 8
def stDoneFirst : Nat := 9
def stFaulted : Nat := 10
def stExhausted : Nat := 11
def stVerify : Nat := 12
def stShape : Nat := 13
def stTable : Nat := 14

/-! ### Headers (R427, R428) -/

/-- `OPCODE`. -/
def hOp (h : Bytes) : Nat := field h 0 2
/-- `TAG`. -/
def hTag (h : Bytes) : BitVec 16 := BitVec.ofNat 16 (field h 2 2)
/-- `CTX`. -/
def hCtx (h : Bytes) : Nat := field h 4 1
/-- `FLAGS`. -/
def hFlags (h : Bytes) : Nat := field h 5 1
/-- `LENGTH`. -/
def hLen (h : Bytes) : Nat := field h 8 4

/-- The header of a reply: bytes 0 to 4 echo the command (R428). -/
def replyHdr (h : Bytes) (status len : Nat) (params : Bytes) : Bytes :=
  padTo 5 h ++ [0x80#8, BitVec.ofNat 8 status, 0#8] ++ leBytes 4 len ++ padTo 20 params

/-- A payload filled up to whole blocks. -/
def blockPad (p : Bytes) : Bytes := p ++ List.replicate ((32 - p.length % 32) % 32) 0

/-! ### Frames and replay buffers (R306, R308, R425, R426) -/

/-- Fields at their bit positions. -/
def bitFields (xs : List (Nat × Nat)) : Nat := xs.foldl (fun a e => a + e.1 * 2 ^ e.2) 0

/-- The message of a frame whose blocks have 256 bits each (R306). -/
def frameWord {Block : Type} (word : Block → BitVec 256) (f : Frame Block) : BitVec 5140 :=
  BitVec.ofNat 5140 (bitFields ([(f.kind.toNat, 0), (f.seq.toNat, 8)] ++
    ((List.range 20).zip f.blocks).map fun e => ((word e.2).toNat, 20 + 256 * e.1)))

/-- A frame number is `a` or one of the 2,047 before it. -/
def notAfter (a b : BitVec 12) : Bool := decide ((a - b).toNat < 2048)

/-- The frames of a replay buffer that an acknowledgement of `fseq` leaves. -/
def unacked {Block : Type} (fseq : BitVec 12) (xs : List (Frame Block)) : List (Frame Block) :=
  xs.filter fun f => !notAfter fseq f.seq

/-- The frames that a NAK of `fseq` has resent, in order; the first of them is a REPLAY frame (R306, R308). -/
def replayFrom {Block : Type} (fseq : BitVec 12) (xs : List (Frame Block)) : List (Frame Block) :=
  match xs.filter fun f => notAfter f.seq fseq with
  | f :: rest => { f with kind := 1 } :: rest
  | [] => []

/-! ### What leaves the module (R428, R442) -/

/-- The 32-B blocks of a packet (R426, R427). -/
def packetBlocks : Nat → Bytes → List Bytes
  | 0, _ => []
  | n + 1, b => if b.isEmpty then [] else padTo 32 b :: packetBlocks n (b.drop 32)

/-- The blocks of what has been handed to Renkai Link. -/
def sentBlocks (x : Sent) : List Bytes := packetBlocks (x.hdr.length + x.payload.length) (x.hdr ++ x.payload)

/-- The events of an interface leave, in the order in which they occurred; those of the management port once an endpoint
has set the module's endpoint ID (R444). -/
def flushEvents (i : Iface) (h : HostSt) : HostSt :=
  match i with
  | .renkai => { h with sent := h.sent ++ h.evR, out := h.out ++ h.evR.flatMap sentBlocks, evR := [] }
  | .mgmt => if h.eidBy.isSome then { h with sent := h.sent ++ h.evM.map fun x => { x with dst := h.eidBy }, evM := [] } else h

/-- A block leaves; the events before it go first. A BAD_PACKET reply counts in `HOST.CMD.BAD`, a DENIED_SEALED reply in
`SEC.DENIED.HOST` (R442, R446, R468). -/
def sendOut (i : Iface) (hdr payload : Bytes) (s : State) : State :=
  let s1 := if field hdr 6 1 = stDenied then s.onSec fun x => { x with deniedHost := satAdd max32 x.deniedHost 1 } else s
  s1.onHost fun h =>
    let h1 := flushEvents i h
    { h1 with
      sent := h1.sent ++ [⟨i, hdr, payload, s.now, none⟩]
      out := if i = .renkai then h1.out ++ sentBlocks ⟨i, hdr, payload, s.now, none⟩ else h1.out
      bad := if field hdr 6 1 = stBadPacket then satAdd 0xFFFF h1.bad 1 else h1.bad }

/-- The ceiling of a message counter (R466). -/
def msgLimit : Nat := 2 ^ 32

/-- A reply leaves. One to a protected command is protected under the session of its context, and advances the
module-to-host counter; at 2³² the session ends (R466). -/
def sendReply (i : Iface) (enc : Bool) (hdr payload : Bytes) (s : State) : State :=
  let c := field hdr 4 1 % 4
  match (if enc then (s.ctx c).sec.session else none) with
  | some (h2m, m2h, kIn, kOut) =>
    let hdr' := hdr.take 5 ++ [0x81#8] ++ hdr.drop 6
    let next := if msgLimit ≤ m2h + 1 then none else some (h2m, m2h + 1, kIn, kOut)
    sendOut i hdr' (gcmSeal kOut m2h hdr' payload)
      (s.onCtx c fun x => { x with sec := { x.sec with session := next } })
  | none => sendOut i hdr payload s

/-- The tag of a command is no longer outstanding (R428). -/
def dropTag (i : Iface) (tag : BitVec 16) (s : State) : State :=
  s.onHost fun h => { h with tags := h.tags.filter fun t => !(t.1 == i && t.2 == tag) }

/-! ### Operations that end (R396, R432, R434, R535) -/

/-- Rewrite an operation that runs. -/
def State.onOp (s : State) (id : BitVec 32) (f : Op → Op) : State :=
  s.onHost fun h => { h with ops := h.ops.map fun o => if o.id = id then f o else o }

/-- An operation that runs. -/
def State.op (s : State) (id : BitVec 32) : Option Op := s.host.ops.find? fun o => o.id == id

/-- An operation leaves those that run and joins the 64 that ended last. How far one that failed had come is a free value
(R535, log entry 2). -/
def endOp (id : BitVec 32) (state status : Nat) (s : State) : State :=
  match s.op id with
  | some o =>
    let (w, s1) := s.drawFree
    let progress := if status = stOk then 65536 else w.toNat % 65537
    s1.onHost fun h =>
      { h with
        ops := h.ops.filter fun x => x.id != id
        ended := (h.ended ++ [{ o with state := state, status := BitVec.ofNat 8 status, progress := progress }]).drop
          (h.ended.length + 1 - 64) }
  | none => s

/-- The first bytes of the command header that began an operation. -/
def opHdr (o : Op) : Bytes := leBytes 2 o.opcode.toNat ++ leBytes 2 o.tag.toNat ++ leBytes 1 o.ctx.toNat

/-- The completion reply of an operation, and its end (R432). `ABORTED` ends it as aborted or cancelled. -/
def complete (id : BitVec 32) (status : Nat) (params payload : Bytes) (s : State) : State :=
  match s.op id with
  | some o =>
    let pl := blockPad payload
    let s1 := sendReply o.iface o.enc (replyHdr (opHdr o) status pl.length params) pl s
    endOp id (if status = stAborted then 2 else 1) status (dropTag o.iface o.tag s1)
  | none => s

/-- The completion reply of an operation that goes on: STARTER_ARM at its capture (R434). -/
def replyOp (id : BitVec 32) (status : Nat) (s : State) : State :=
  match s.op id with
  | some o => dropTag o.iface o.tag (sendReply o.iface o.enc (replyHdr (opHdr o) status 0 []) [] s)
  | none => s

/-! ### Module and context states -/

/-- Change the module state, with its record and its event (R442, R479, R502). -/
def setMod (m : ModState) (s : State) : State :=
  if s.mgmt.st = m then s
  else
    let old := s.mgmt.st
    let s1 := s.onMgmt fun g => { g with st := m, prev := old }
    let s2 := crumb
      { severity := 1, source := 0, code := 0x0101,
        detail := leBytes 1 (modCode old) ++ leBytes 1 (modCode m) } s1
    moduleEvent 0 s2

/-- READY and RUNNING follow the contexts (R479). -/
def syncMod (s : State) : State :=
  match s.mgmt.st with
  | .ready => if s.cur.isSome then setMod .running s else s
  | .running => if s.cur.isSome then s else setMod .ready s
  | _ => s

/-- The layout of `CORE.FAULT0` (R94). -/
def fault0 (f : FaultRec) : Word :=
  packWord [(bnat f.valid, 63), (f.more, 56), (f.code.toNat, 48), (f.station.toNat, 45), (f.layer.toNat, 33),
    (f.op.toNat, 21), (f.pcWord.toNat, 5)]

/-- The header of a JOB_EVENT of a context (R442). -/
def jobHdr (i : Nat) (s : State) : Bytes :=
  let c := s.ctx i
  let ff := match c.firstFault with
    | some k => leBytes 2 k ++ leBytes 2 0 ++ leBytes 8 (fault0 (s.core k).fault).toNat
    | none => []
  eventHdr 0x02F0 i (leBytes 1 (ctxCode c.st) ++ leBytes 3 0 ++ leBytes 4 (c.w / 2) ++ ff)

/-- JOB_EVENT of a context (R442). -/
def jobEvent (i : Nat) (s : State) : State := postEvent 1 (jobHdr i s) s

/-- A pending arm lapses: its completion reply carries the status, its operation ends, and a record names N and the tag
found (R387, R502). -/
def lapseArm (i : Nat) (status : Nat) (tag : BitVec 16) (s : State) : State :=
  match (s.ctx i).arm with
  | some a =>
    let s1 := crumb
      { severity := 2, source := 0, code := 0x0205, ctx := some i, detail := leBytes 4 a.n ++ leBytes 2 tag.toNat } s
    complete a.op status [] [] (s1.onCtx i fun c => { c with arm := none })
  | none => s

/-- A STARTER operation whose capture stands ends without a further reply; the completion reply that it sent at the capture carried OK
(R396, R535). -/
def endCapture (i : Nat) (s : State) : State :=
  match (s.ctx i).capture, (s.ctx i).arm with
  | some _, some a => endOp a.op 1 stOk (s.onCtx i fun c => { c with capture := none, arm := none })
  | _, _ => s

/-- What ends with a context that leaves RUNNING and SWITCHED: its arm, its capture, a switch that waits for its Proof, and
its launch (R387, R433, R439). An arm whose context leaves RUNNING because its entry Proof fails lapses too; the status of its
completion is not stated, and is REFUSED_STATE here (DESIGN CHOICE, log entry 12). -/
def ctxLeaves (i : Nat) (st : CtxState) (s : State) : State :=
  let arm := fun (status : Nat) (s : State) =>
    if (s.ctx i).capture.isNone then lapseArm i status 0 s else endCapture i s
  let sw := fun (s : State) => match (s.ctx i).switchAt with
    | some (_, _, op) => complete op stRefused [] [] (s.onCtx i fun c => { c with switchAt := none })
    | none => s
  let launch := fun (s : State) => match (s.ctx i).launchOp with
    | some op => complete op stAborted [] [] (s.onCtx i fun c => { c with launchOp := none })
    | none => s
  match st with
  | .faulted => sw (arm stFaulted s)
  | .aborted => launch (sw (arm stAborted s))
  | .done | .empty | .loaded => arm stRefused s
  | _ => s

/-- A context enters a state; how it ends settles an abort that is under way (R384). -/
def Ctx.enter (st : CtxState) (c : Ctx) : Ctx :=
  { c with
    st := st
    abortEnd := if c.abortAt.isSome && c.abortEnd.isNone then
        (match st with
          | .done => some true
          | .aborted => some false
          | _ => none)
      else c.abortEnd }

/-- Change a context's state, with the record and the event the manual asks for (R383, R442, R502). -/
def setCtxSt (i : Nat) (st : CtxState) (s : State) : State :=
  if (s.ctx i).st = st then s
  else
    let s1 := s.onCtx i (Ctx.enter st)
    let s2 := match st with
      | .running | .done | .aborted =>
        crumb { severity := 0, source := 0, code := 0x0201, ctx := some i, detail := leBytes 1 (ctxCode st) } s1
      | _ => s1
    let s3 := match st with
      | .faulted | .held | .done | .aborted => jobEvent i s2
      | _ => s2
    syncMod (ctxLeaves i st s3)

/-! ### Faults of a core (R79–R83, R94, R95) -/

/-- The site bytes of a core in a record (R496). -/
def siteBits (s : State) (k : Nat) : BitVec 16 :=
  BitVec.ofNat 16 ((s.site k).2 + 256 * (s.site k).1)

/-- The sequencer stops, and its waits end (R81). -/
def stopSeq (st : CoreState) (q : Seq) : Seq := { q with st := st, wait := .none, bundle := [], tickTo := 0, tickAt := none }

/-- The six stations stop: they abandon what they accepted, so no command that updates a statistics set is in flight; link slots keep
their contents (R81, R177). -/
def stopStations (c : Core) : Core :=
  { c with stn := {}, vec := { c.vec with setDone := [] }, ks := [], braid := { c.braid with forward := [] }, stopAt := none, dueFault := none }

/-- The core stops at once, its stations with it. -/
def stopCore (st : CoreState) (c : Core) : Core := { stopStations c with seq := stopSeq st c.seq }

/-- The KRECVs and KSENDs of a core that stops are abandoned with its other commands; their rows are no longer pending
(R81). -/
def abandonKnead (k : Nat) (s : State) : State :=
  let c := s.clusterOf k
  let x := s.cluster c
  let ids := (x.krecvs.filter fun r => r.core == k).map (·.id) ++ (s.core k).ks.map (·.id)
  if ids.isEmpty then s
  else s.setCluster c
    { x with
      krecvs := x.krecvs.filter fun r => r.core != k
      pend := x.pend.filter fun p => !(p.knead && ids.contains p.owner)
      bankQ := x.bankQ.filter fun a => match a.work with
        | .kneadRead j _ _ => j != k
        | _ => true }

/-- The record of a stopping fault detected in this tick (R79, R82, R94). -/
def faultRec (k : Nat) (a : FaultArg) (s : State) : FaultRec :=
  { valid := true, more := 0, code := a.code, station := a.station, layer := a.layer, op := a.op,
    pcWord := a.pcWord, phase := BitVec.ofNat 32 (s.phase k), superstep := BitVec.ofNat 32 s.superstep,
    detail := a.detail, cmd := a.cmd, atT := s.coreTick k }

/-- A core that a stopping fault finds in island tick `t`: its sequencer stops now, its stations in the next tick (R81). -/
def faultCore (t : Nat) (c : Core) : Core :=
  { c with seq := stopSeq .faulted c.seq, stopAt := if c.seq.st = .faulted then c.stopAt else some t, dueFault := none }

/-- Of two faults of one tick: the lower station goes first, and within a station the lower code (R82). -/
def faultBefore (st st' : BitVec 3) (code code' : BitVec 8) : Bool :=
  decide (st.toNat < st'.toNat) || (st == st' && decide (code.toNat < code'.toNat))

/-- The detail bytes of the log record of a fault. -/
def faultDetail (a : FaultArg) : Bytes := leBytes 8 a.code.toNat ++ leBytes 8 a.detail.toNat

/-- The log record that a core's fault has written since a real tick takes the fault that fills the core's record (R81, R82). -/
def CrumbRec.refault (site : BitVec 16) (hide : Bool) (a : FaultArg) (since : Nat) (x : CrumbRec) : CrumbRec :=
  if decide (since ≤ x.atT) && x.code = 0x0202 && x.source = 2 && x.site = site then
    { x with layer := a.layer.setWidth 16, op := a.op.setWidth 16
             detail := if hide then x.detail else padTo 24 (faultDetail a) }
  else x

/-- A fault of the same tick takes the place of the one recorded: the log record and the events that tell of it follow (R81,
R82, R442). -/
def faultReplace (k : Nat) (a : FaultArg) (s : State) : State :=
  let c := s.core k
  let r := { faultRec k a s with more := satAdd 127 c.fault.more 1 }
  let s1 := s.setCore k { faultCore (s.coreTick k) c with fault := r }
  let log := CrumbRec.refault (siteBits s k) (crumbSealed s s.cur) a
    ((s.island (s.clusterOf k)).since.getD s.now)
  let s2 : State := { s1 with crumb := { s1.crumb with
    slots := s1.crumb.slots.map fun e => (e.1, log e.2), fresh := s1.crumb.fresh.map log } }
  match s.cur with
  | some i =>
    let ev := fun (x : Sent) => if x.hdr = jobHdr i s then { x with hdr := jobHdr i s1 } else x
    s2.onHost fun h => { h with evR := h.evR.map ev, evM := h.evM.map ev }
  | none => s2

/-- The log record of a core's first stopping fault (R81). -/
def faultLog (k : Nat) (a : FaultArg) (s : State) : State :=
  crumb
    { severity := 3, source := 2, code := 0x0202, ctx := s.cur, site := siteBits s k, layer := a.layer, op := a.op,
      detail := faultDetail a } s

/-- A stopping fault: the first fills the record and moves the core to FAULTED, with one ERROR record and the context
FAULTED; a later one counts in `MORE`, and of several in one tick the record takes the first in the order of R82 (R79, R81,
R82, R383). -/
def coreFault (k : Nat) (a : FaultArg) (s : State) : State :=
  let c := s.core k
  let t := s.coreTick k
  if c.fault.valid then
    if c.fault.atT = t && c.seq.st = .faulted && faultBefore a.station c.fault.station a.code c.fault.code then
      faultReplace k a s
    else s.setCore k { faultCore t c with fault := { c.fault with more := satAdd 127 c.fault.more 1 } }
  else
    let s1 := faultLog k a (s.setCore k { faultCore t c with fault := faultRec k a s })
    match s.cur with
    | some i =>
      if (s.ctx i).st = .running || (s.ctx i).st = .held then
        setCtxSt i .faulted (s1.onCtx i fun x => { x with firstFault := some k })
      else s1
    | none => s1

/-- The stations of a core whose stopping fault lies in an earlier tick stop, and what they had accepted ends with them, with
its charges (R81, R357). -/
def stopTick (s : State) : State :=
  s.allCores.foldl (fun s k =>
    match (s.core k).stopAt with
    | some t =>
      if t < s.coreTick k then
        let s1 := (abandonKnead k s).onCore k stopStations
        { s1 with meter := { s1.meter with spans := s1.meter.spans.filter fun x => x.core != k } }
      else s
    | none => s) s

/-- Faults that the hardware detects in this tick (R193). -/
def faultTick (s : State) : State :=
  s.allCores.foldl (fun s k =>
    match (s.core k).dueFault with
    | some (t, a) =>
      if t ≤ s.coreTick k then coreFault k a (s.onCore k fun c => { c with dueFault := none }) else s
    | none => s) s

/-- The fault detail of ILLEGAL_OP: sub-reason and value (R79, R80). -/
def illegal (sub value : Nat) : Word := packWord [(sub % 256, 56), (value % 2 ^ 42, 0)]

/-- A continuing fault fills `CORE.RECOV`, and the core carries on; of several in one tick the record takes the first in the order
of R82 (R79, R95). -/
def recordRecov (k : Nat) (code : BitVec 8) (station : BitVec 3) (layer op : BitVec 12) (s : State) : State :=
  s.onCore k fun c =>
    let r := c.recov
    let t := s.coreTick k
    { c with recov :=
        if r.valid && !(r.atT == t && faultBefore station r.station code r.code) then
          { r with count := satAdd 127 r.count 1 }
        else { valid := true, count := satAdd 127 r.count 1, code := code, station := station, layer := layer, op := op,
               atT := t } }

/-- A continuing fault with its WARN record (R381). -/
def contFault (k : Nat) (code : BitVec 8) (station : BitVec 3) (layer op : BitVec 12) (detail : Bytes) (s : State) :
    State :=
  crumb { severity := 2, source := 2, code := 0x0203, ctx := s.cur, site := siteBits s k, layer := layer, op := op,
          detail := leBytes 4 code.toNat ++ detail }
    (recordRecov k code station layer op s)

/-! ### Holds (R328–R331) -/

/-- Causes of a Hold (R328). -/
def causeEcc : BitVec 4 := 1
def causeRetry : BitVec 4 := 2
def causeKnead : BitVec 4 := 3
def causeMesh : BitVec 4 := 4
def causeBraid : BitVec 4 := 5
def causePower : BitVec 4 := 6
def causeThermal : BitVec 4 := 7
def causeDebug : BitVec 4 := 8
def causeTrace : BitVec 4 := 9

/-- A cause of the episode remains (R330). -/
def Episode.live (e : Episode) : Bool := e.raisers.any fun r => r.clear.isNone

/-- An episode that begins now is timed against the Hold limit: the running context is not FAULTED (R335). -/
def State.holdTimed (s : State) : Bool :=
  match s.cur with
  | some i => decide ((s.ctx i).st ≠ .faulted)
  | none => false

/-- The episode a raise of this tick joins, if any: the last one, while its causes last (R330). -/
def holdJoin (r : Raiser) (froze : Option Nat) (now : Nat) (timed : Bool) (h : HoldSt) : HoldSt :=
  let add := fun (e : Episode) =>
    { e with raisers := e.raisers ++ [r]
             froze := match froze with
               | some c => mset e.froze c now
               | none => e.froze }
  match h.eps.getLast? with
  | some e =>
    if e.live then { h with eps := h.eps.dropLast ++ [add e] }
    else { h with eps := h.eps ++ [add { u0 := now, raisers := [], timed := timed }] }
  | none => { h with eps := [add { u0 := now, raisers := [], timed := timed }] }

/-- The island froze in this very tick by a detection of its own: it detects what else of the tick is late (R329, R330). -/
def detecting (c : Nat) (s : State) : Bool :=
  (s.island c).since == some s.now &&
    s.hold.eps.any fun e => e.live && e.raisers.any fun r => r.who == .island c && r.s == s.now

/-- The episode whose causes are over and whose propagation has not reached the island (R330). -/
def passing (c : Nat) (s : State) : Option Episode :=
  s.hold.eps.find? fun e => !e.live && (mfind e.froze c).isNone && !e.thawed.contains c

/-- The island is frozen from this tick on. -/
def freezeNow (c : Nat) (s : State) : State :=
  { s with hold := { s.hold with islands := mset s.hold.islands c { s.island c with since := some s.now } } }

/-- A raise by a cluster island: it freezes in the tick of detection; a frozen island detects nothing beyond that tick (R329,
R330). An island that the propagation of an episode with no cause left has still to reach freezes under that episode, and
raises only once it has thawed (DEDUCED, log entry 94). -/
def raiseIsland (c : Nat) (cause : BitVec 4) (core item : Option Nat) (s : State) : State :=
  let join := holdJoin { who := .island c, cause := cause, s := s.now, core := core, item := item } (some c) s.now
    s.holdTimed s.hold
  if s.frozen c then
    if detecting c s then { s with hold := join } else s
  else
    match passing c s with
    | some e =>
      freezeNow c { s with hold := { s.hold with eps := s.hold.eps.map fun x =>
        if x.u0 = e.u0 then { x with froze := mset x.froze c s.now } else x } }
    | none => freezeNow c { s with hold := join }

/-- A raise by a die service or the management controller: it joins a live episode, waits for the end of one whose
causes are over, or begins an episode; no island freezes before the propagation (R329–R331). `owes` is the continuing fault
that is recorded when its episode has ended (R362). -/
def raiseService (who : RaiserId) (cause : BitVec 4) (owes : Option (Nat × BitVec 3 × BitVec 12 × BitVec 12)) (s : State) :
    State :=
  let r := fun (u : Nat) => ({ who := who, cause := cause, s := u + 16, owes := owes } : Raiser)
  match s.hold.eps.getLast? with
  | some e =>
    if e.live then { s with hold := holdJoin (r e.u0) none s.now s.holdTimed s.hold }
    else { s with hold := { s.hold with next := s.hold.next ++ [r s.now] } }
  | none => { s with hold := holdJoin (r s.now) none s.now s.holdTimed s.hold }

/-- The causes of the raisers that `p` picks clear in this tick (R331). -/
def clearCause (p : Raiser → Bool) (s : State) : State :=
  let f := fun (r : Raiser) => if p r && r.clear.isNone then { r with clear := some s.now } else r
  { s with hold := { s.hold with
      eps := s.hold.eps.map fun e => { e with raisers := e.raisers.map f }
      next := s.hold.next.map f } }

/-- D of an episode whose causes are over: the largest `c + 1 − s` of its raisers (R331). -/
def Episode.dur (e : Episode) : Nat :=
  e.raisers.foldl (fun a r => max a (r.clear.getD 0 + 1 - r.s)) 0

/-- The stall reason of a frozen tick of a core under an episode (R333). -/
def frozenReason (s : State) (e : Episode) (k : Nat) : Nat :=
  if e.raisers.any (fun r => r.cause == causeDebug) then 14
  else if e.raisers.any (fun r => r.cause == causeThermal) then 13
  else if e.raisers.any (fun r => r.cause == causeTrace) then 12
  else if e.raisers.any (fun r => r.core == some k) then 5
  else if e.raisers.any (fun r => r.who == .island (s.clusterOf k)) then 8
  else 9

/-- The episode that froze an island, if the island is frozen. -/
def episodeOf (s : State) (c : Nat) : Option Episode :=
  s.hold.eps.find? fun e => (mfind e.froze c).isSome && !e.thawed.contains c

/-! ### Token charges (R357, R358, R362) -/

/-- A charge of this tick: the shared budget, or that of a cluster. -/
def charge (budget : Option Nat) (tokens : Nat) (core : Option Nat) (st : BitVec 3) (layer op : BitVec 12)
    (s : State) : State :=
  { s with meter := { s.meter with
      charges := s.meter.charges ++ [⟨s.now, budget, tokens, core, st, layer, op⟩] } }

/-- A phase-tick charge over a run of island ticks of a core. -/
def chargeSpan (k start ticks tokens : Nat) (st : BitVec 3) (layer op : BitVec 12) (s : State) : State :=
  { s with meter := { s.meter with
      spans := s.meter.spans ++ [⟨s.clusterOf k, start, ticks, tokens, k, st, layer, op⟩] } }

/-! ### Monitors (R417, R418) -/

/-- The bin of a linear histogram (L, S). -/
def linBin (l w v : Nat) : Nat := min 15 ((v - l) / w)

/-- The bin of a log histogram with shift G (R409). -/
def logBin (g v : Nat) : Nat := min 15 (if v < 2 ^ g then 0 else Nat.log2 v + 1 - g)

/-- The bins of each monitor (R417). -/
def monBin (m v : Nat) : Nat :=
  if m < 4 then linBin 640 80 v
  else if m < 28 then linBin 640 64 v
  else if m < 32 then linBin 670 10 v
  else if m < 36 then linBin 570 10 v
  else match m with
    | 36 => linBin 3800 60 v
    | 37 => linBin 0 400 v
    | 38 => linBin 0 160 v
    | 39 => linBin 160 32 v
    | 40 => linBin 320 48 v
    | 41 => linBin 0 16 v
    | 42 => logBin 5 v
    | 43 => logBin 7 v
    | 44 => logBin 10 v
    | 45 => logBin 11 v
    | 46 => logBin 4 v
    | 47 => linBin 0 10240 v
    | 48 | 49 | 50 | 51 => linBin 0 128 v
    | 52 => linBin 0 32 v
    | 53 => linBin 0 16 v
    | 54 => linBin 0 32 v
    | 55 => linBin 0 64 v
    | 56 | 57 | 58 => logBin 0 v
    | 59 => logBin 8 v
    | _ => linBin 640 80 v

/-- One sample of a monitor. -/
def monAdd (bin v : Nat) (m : Monitor) : Monitor :=
  let w := BitVec.ofNat 32 (min v max32)
  { min := if w < m.min then w else m.min, max := if m.max < w then w else m.max,
    bins := mmod m.bins bin 0 (satAdd max32 · 1), samples := satAdd max32 m.samples 1, last := w }

/-- Sample a monitor of the block: the sample enters it when the tick ends (R418). -/
def monSample (m v : Nat) (s : State) : State := { s with mon := { s.mon with fresh := s.mon.fresh ++ [(m, v)] } }

/-- The samples of the tick that ends enter their monitors. -/
def MonSt.settle (x : MonSt) : MonSt :=
  { x with mons := x.fresh.foldl (fun m e => mmod m e.1 {} (monAdd (monBin e.1 e.2) e.2)) x.mons, fresh := [] }

end Sys2Proof.Machine
end

