-- ==== Sys2Proof/Machine/Trace.lean ====
section
/-! DEFINITION. The sequencer trace: packets, records, rows and their segments (R411–R416). The instructions that branch,
return, issue and meet Proofs call these operations; they do nothing while no trace runs. -/

namespace Sys2Proof.Machine

/-- Rewrite the trace of a core. -/
def State.onTrc (s : State) (k : Nat) (f : Trace → Trace) : State := s.onCore k fun c => { c with trc := f c.trc }

/-- The running context is traced. -/
def State.traced (s : State) : Bool := s.obs.trace != 0 && s.cur.isSome

/-- Both rows of the buffer are taken, so that a packet that does not fit the open row finds no row (R411, R414). -/
def Trace.full (t : Trace) (n : Nat) : Bool := decide (512 < t.row.length + n) && !t.ready.isEmpty

/-- Put a packet in the open row; close the row when it is full or has no room for the packet (R411, R412). -/
def Trace.put (bs : Bytes) (t : Trace) : Trace :=
  if t.row.length + bs.length < 512 then { t with row := t.row ++ bs }
  else if t.row.length + bs.length = 512 && t.ready.isEmpty then { t with row := [], ready := [t.row ++ bs] }
  else if t.row.length + bs.length = 512 then { t with row := t.row ++ bs }
  else { t with row := bs, ready := t.ready ++ [padTo 512 t.row] }

/-- A packet of the trace: planned trace drops and counts it when both rows are full, unplanned trace raises a Hold and
keeps it (R414, R415). After a drop nothing goes out before the LOST packet and its SYNC. -/
def tracePut (k : Nat) (bs : Bytes) (s : State) : State :=
  let t := (s.core k).trc
  if t.lostNow != 0 || t.full bs.length then
    if s.obs.trace = 1 then
      s.onTrc k fun t => { t with lostNow := satAdd 0xFFFF t.lostNow bs.length, lost := satAdd 0xFFFF t.lost bs.length }
    else raiseIsland (s.clusterOf k) causeTrace none none (s.onTrc k (Trace.put bs))
  else s.onTrc k (Trace.put bs)

/-- A record of address-compatibility mode (R416). -/
def compatRec (kind count k pc data : Nat) : Bytes :=
  leBytes 1 kind ++ leBytes 1 count ++ leBytes 2 k ++ leBytes 4 pc ++ leBytes 8 data

/-- Superstep count and phase tick of a compatibility record (R416). -/
def compatTime (s : State) (k : Nat) : Nat := s.phase k % 2 ^ 32 + s.superstep % 2 ^ 32 * 2 ^ 32

/-- The number that a list of outcomes spells, the oldest in bit 0. -/
def outcomeBits : List Bool → Nat
  | [] => 0
  | b :: bs => bnat b + 2 * outcomeBits bs

/-- Emit the pending outcomes, if any (R413, R416). -/
def flushOutcomes (k : Nat) (s : State) : State :=
  let t := (s.core k).trc
  if t.outcomes.isEmpty then s
  else
    let n := t.outcomes.length
    let s1 := s.onTrc k fun t => { t with outcomes := [] }
    if s.obs.compat then tracePut k (compatRec 1 n k t.brPc (outcomeBits t.outcomes)) s1
    else tracePut k [BitVec.ofNat 8 (0x80 + outcomeBits t.outcomes + 2 ^ n)] s1

/-- The address of the next instruction: that at the PC, or, of a core that waits in an instruction, the one behind it or behind its
bundle (R412). -/
def Seq.nextPc (q : Seq) : BitVec 18 :=
  if q.st = .proofWait then q.pc + 8
  else
    match q.wait with
    | .none => q.pc
    | .bundle items => q.pc + BitVec.ofNat 18 (4 * items.length)
    | .proof _ => q.pc + 8
    | _ => q.pc + 4

/-- The SYNC packet or record of a core (R412, R416). -/
def syncPacket (k : Nat) (s : State) : Bytes :=
  let q := (s.core k).seq
  if s.obs.compat then compatRec 3 0 k q.nextPc.toNat (compatTime s k)
  else [1#8, BitVec.ofNat 8 q.stack.length] ++ leBytes 2 (q.nextPc.toNat / 4) ++ leBytes 4 s.superstep ++
    leBytes 4 (s.phase k) ++ leBytes 2 q.lastLayer.toNat ++ leBytes 2 q.lastOp.toNat

/-- Note the IDs the trace has recorded (R413). -/
def noteIds (k : Nat) (s : State) : State :=
  s.onCore k fun c => { c with trc := { c.trc with lastIds := some (c.seq.lastLayer, c.seq.lastOp) } }

/-- Note the IDs, if the packet that carries them went out. -/
def noteIfPut (k : Nat) (s : State) : State := if (s.core k).trc.lostNow = 0 then noteIds k s else s

/-- A row has left the buffer, so that lost bytes can be reported: the pending outcomes go first, then a LOST packet with the
instruction at the PC, then a SYNC (R413, R414, R416). -/
def traceLost (k : Nat) (s : State) : State :=
  let t := (s.core k).trc
  if t.lostNow = 0 then s
  else
    let lost := if s.obs.compat then compatRec 4 0 k (s.core k).seq.pc.toNat (t.lostNow % 65536)
      else 4#8 :: leBytes 3 (t.lostNow % 65536)
    noteIds k (tracePut k (syncPacket k s) (tracePut k lost (flushOutcomes k (s.onTrc k fun t => { t with lostNow := 0 }))))

/-- Emit a packet: the pending outcomes go first (R413). -/
def traceEmit (k : Nat) (bs : Bytes) (s : State) : State :=
  if s.traced then tracePut k bs (flushOutcomes k s) else s

/-- An outcome of a conditional branch or of a guarded instruction (R413). -/
def traceOutcome (k : Nat) (b : Bool) (s : State) : State :=
  if s.traced then
    let s1 := s.onTrc k fun t => { t with outcomes := t.outcomes ++ [b], brPc := (s.core k).seq.pc.toNat }
    let full := if s.obs.compat then 64 else 6
    if full ≤ (s1.core k).trc.outcomes.length then flushOutcomes k s1 else s1
  else s

/-- A SYNC (R413). -/
def traceSync (k : Nat) (s : State) : State :=
  if s.traced then noteIfPut k (traceEmit k (syncPacket k s) s) else s

/-- A TAG, or an ADDR, where a command's IDs differ from the last ones recorded (R413, R416). -/
def traceTag (k pcw : Nat) (layer op : BitVec 12) (s : State) : State :=
  if s.traced && decide ((s.core k).trc.lastIds ≠ some (layer, op)) then
    let bs := if s.obs.compat then compatRec 2 0 k (4 * pcw) (compatTime s k)
      else 2#8 :: leBytes 3 (layer.toNat + 4096 * op.toNat)
    let s1 := traceEmit k bs s
    if (s1.core k).trc.lostNow = 0 then s1.onTrc k fun t => { t with lastIds := some (layer, op) } else s1
  else s

/-- A RET packet (R413). -/
def traceRet (k target : Nat) (s : State) : State :=
  traceEmit k (if s.obs.compat then compatRec 6 0 k target 0 else 5#8 :: leBytes 2 (target / 4)) s

/-- A PROOF packet; in compatibility mode the tag stands in the empty record that follows (R413, R416). -/
def traceProof (k : Nat) (p : ProofArg) (s : State) : State :=
  if s.obs.compat then
    traceEmit k (compatRec 0 0 p.tag.toNat 0 0)
      (traceEmit k (compatRec 5 0 k (s.core k).seq.pc.toNat (compatTime s k)) s)
  else traceEmit k (3#8 :: leBytes 2 p.tag.toNat ++ leBytes 1 p.scope.toNat) s

/-- The open row is padded to its end: a complete row, which stays in its half of the buffer while the other half holds one (R411,
R412). -/
def Trace.close (t : Trace) : Trace :=
  if t.row.isEmpty then t
  else if t.ready.isEmpty then { t with row := [], ready := [padTo 512 t.row] }
  else { t with row := padTo 512 t.row }

/-- Write out the partial row, padded (R411). -/
def traceClose (k : Nat) (s : State) : State :=
  if s.traced then (flushOutcomes k s).onTrc k Trace.close else s

end Sys2Proof.Machine
end

