-- ==== Sys2Proof/Machine/Operands.lean ====
section
/-! DEFINITION. Operand forms of the sequencer: registers, predicates, guards, immediates, offsets and local-store
addresses (R60, R62, R63, R65, R72, R73), and the fields of a station command (R67). -/

namespace Sys2Proof.Machine

/-! ### Registers and predicates -/

/-- A scalar register; s0 reads 0 (R60). -/
def Seq.reg (q : Seq) (r : BitVec 5) : Word := if r = 0 then 0 else mget q.regs r.toNat 0

/-- Write a scalar register, usable `lat` ticks after island tick `t`; a write to s0 is discarded (R60, R66). -/
def Seq.setReg (r : BitVec 5) (v : Word) (usable : Nat) (q : Seq) : Seq :=
  if r = 0 then q
  else { q with regs := mset q.regs r.toNat v, regReady := mset q.regReady r.toNat usable }

/-- A predicate; p0 reads 1 (R60). -/
def Seq.pred (q : Seq) (p : BitVec 3) : Bool := if p = 0 then true else q.preds.getLsbD p.toNat

/-- Write a predicate; a write to p0 is discarded (R60). -/
def Seq.setPred (p : BitVec 3) (b : Bool) (q : Seq) : Seq :=
  if p = 0 then q
  else { q with preds := if b then q.preds ||| (1#8 <<< p.toNat) else q.preds &&& ~~~(1#8 <<< p.toNat) }

/-- The guard holds: predicate `PG`, inverted by `PN` (R62). -/
def Seq.guard (q : Seq) (g : Guard) : Bool := q.pred g.pg != g.pn

/-- The guard is the constant true: `PG` 0, `PN` 0 (R62). -/
def guardAlways (g : Guard) : Bool := g.pg == 0 && !g.pn

/-- The bits of a guard in an instruction word (R62). -/
def guardWord (g : Guard) : BitVec 32 := g.pg.setWidth 32 <<< 29 ||| (if g.pn then 1#32 <<< 28 else 0)

/-- Every register of a list is usable in island tick `t` (R66). -/
def Seq.usable (q : Seq) (rs : List (BitVec 5)) (t : Nat) : Bool :=
  rs.all fun r => r == 0 || decide (mget q.regReady r.toNat 0 ≤ t)

/-! ### Immediates and addresses -/

/-- A 12-bit immediate, sign-extended (R65). -/
def immS (i : BitVec 12) : Word := i.signExtend 64

/-- A 12-bit immediate, zero-extended (R65). -/
def immZ (i : BitVec 12) : Word := i.zeroExtend 64

/-- Bytes of a load or store width: 1, 2, 4 or 8 (R63). -/
def widthBytes (w : BitVec 2) : Nat := 2 ^ w.toNat

/-- Local-store address of a load or store: `ra` plus the signed offset in units of the width (R63, R65). -/
def lsAddr (base : Word) (w : BitVec 2) (off : BitVec 10) : Nat :=
  (base + off.signExtend 64 * BitVec.ofNat 64 (widthBytes w)).toNat

/-- A branch target: the branch's own address plus four times the signed offset (R65). -/
def branchTarget (pc : BitVec 18) (off : BitVec 17) : BitVec 18 := pc + off.signExtend 18 * 4#18

/-- `n` bytes at an address lie in a region given by its first line and the first line past it (R72, R97). -/
def inRegion (base limit a n : Nat) : Bool := decide (64 * base ≤ a) && decide (a + n ≤ 64 * limit)

/-- `n` bytes at an address lie in the data region (R72). -/
def Core.inData (c : Core) (a n : Nat) : Bool := inRegion c.dataBase c.dataLimit a n

/-- `n` bytes at an address lie in the code region (R72). -/
def Core.inCode (c : Core) (a n : Nat) : Bool := inRegion c.codeBase c.codeLimit a n

/-- A byte of a run of the local store fails its parity check (R73). -/
def Core.parityBad (c : Core) (a n : Nat) : Bool := c.lsBad.any fun x => decide (a ≤ x) && decide (x < a + n)

/-! ### Station commands (R67) -/

/-- The station field's encoding (R49). -/
def stCode : Station → BitVec 3
  | .fetch => 1 | .matrix => 2 | .vector => 3 | .sparse => 4 | .store => 5 | .knead => 6

/-- The station of an encoding (R49). -/
def stationOf : Nat → Option Station
  | 1 => some .fetch | 2 => some .matrix | 3 => some .vector
  | 4 => some .sparse | 5 => some .store | 6 => some .knead
  | _ => none

/-- A bit field of a command. -/
def cmdBits (c : Cmd) (lo n : Nat) : Nat := bits c.toNat lo n

/-- `OPCODE` (R67). -/
def cmdOpcode (c : Cmd) : Nat := cmdBits c 120 8

/-- `STATION` (R67). -/
def cmdStation (c : Cmd) : Nat := cmdBits c 112 8

/-- `LAYER` (R67). -/
def cmdLayer (c : Cmd) : BitVec 12 := BitVec.ofNat 12 (cmdBits c 100 12)

/-- `OPERATOR` (R67). -/
def cmdOp (c : Cmd) : BitVec 12 := BitVec.ofNat 12 (cmdBits c 88 12)

/-- `IN_LINK` (R67). -/
def cmdIn (c : Cmd) : Nat := cmdBits c 84 4

/-- `OUT_LINK` (R67). -/
def cmdOut (c : Cmd) : Nat := cmdBits c 80 4

/-- The queue of a station. -/
def Stations.q (x : Stations) : Station → StationQ
  | .fetch => x.fetch | .matrix => x.matrix | .vector => x.vector
  | .sparse => x.sparse | .store => x.store | .knead => x.knead

/-- Put the queue of a station. -/
def Stations.setQ (x : Stations) (st : Station) (q : StationQ) : Stations :=
  match st with
  | .fetch => { x with fetch := q } | .matrix => { x with matrix := q } | .vector => { x with vector := q }
  | .sparse => { x with sparse := q } | .store => { x with store := q } | .knead => { x with knead := q }

/-- The queue of a station of a core. -/
def State.stq (s : State) (k : Nat) (st : Station) : StationQ := (s.core k).stn.q st

/-- Rewrite the queue of a station of a core. -/
def State.onStq (s : State) (k : Nat) (st : Station) (f : StationQ → StationQ) : State :=
  s.onCore k fun c => { c with stn := c.stn.setQ st (f (c.stn.q st)) }

end Sys2Proof.Machine
end

