-- ==== Sys2Proof/Machine/Leaven.lean ====
section
/-! DEFINITION. Leaven: stream slots, draws and their fields, the draw phases of the generator (R165–R170), and the norm
taps (R172–R174). -/

namespace Sys2Proof.Machine

/-! ### Draws (R167, R168) -/

/-- The rotation of each round (R167). -/
def drawRot : List Nat := [13, 37, 21, 49, 7, 29, 43, 17, 55, 3]

/-- The rounds of a draw, from round `i` on. -/
def drawRounds (k0 k1 : Word) : List Nat → Nat → Word → Word → Word × Word
  | [], _, x0, x1 => (x0, x1)
  | r :: rs, i, x0, x1 =>
    let y0 := x0 + x1
    let y1 := x1.rotateLeft r ^^^ y0
    let key := (if i % 2 = 0 then k0 else k1) + BitVec.ofNat 64 (i + 1) * 0x9E3779B97F4A7C15#64
    drawRounds k0 k1 rs (i + 1) (y0 ^^^ key) y1

/-- A draw (R167). -/
def draw (k0 k1 base : Word) (kind c : Nat) : Word :=
  let x := drawRounds k0 k1 drawRot 0 (base ^^^ k0) ((BitVec.ofNat 64 (kind * 2 ^ 56) ||| BitVec.ofNat 64 c) ^^^ k1)
  x.1 ^^^ x.2.rotateLeft 32

/-- Elements that share one draw, by kind (R168). -/
def drawGroup : Nat → Nat
  | 0 => 16 | 1 => 8 | 2 => 2 | _ => 1

/-- Logical index of element (i, j) (R120). -/
def logical (origin : BitVec 48) (pitch : BitVec 24) (i j : Nat) : Nat := origin.toNat + i * pitch.toNat + j

/-- The stream slot that validly holds an ID (R165). -/
def Leaven.slot (l : Leaven) (id : Nat) : Option StreamSlot :=
  (l.slots.find? fun e => e.2.valid && e.2.id.toNat == id).map (·.2)

/-- The number of the stream slot that holds an ID. -/
def Leaven.slotNo (l : Leaven) (id : Nat) : Option Nat :=
  (l.slots.find? fun e => e.2.valid && e.2.id.toNat == id).map (·.1)

/-- The field of logical index `n` of a stream, for the draw base `base` (R168). -/
def drawField (slot : StreamSlot) (base : Word) (kind n : Nat) : Nat :=
  let d := (draw slot.k0 slot.k1 base kind (n / drawGroup kind)).toNat
  let w := 64 / drawGroup kind
  bits d (w * (n % drawGroup kind)) w

/-- The uniform value of a 32-bit field (R168). -/
def unifValue (w : Nat) : F32 := enc32 (.fin false (2 * (w / 512) + 1) (-24))

/-- The normal value of a draw (R168). -/
def normValue (d : Nat) : F32 :=
  let sum := bits d 0 16 + bits d 16 16 + bits d 32 16 + bits d 48 16
  let x : Fv := if 131070 ≤ sum then .fin false (sum - 131070) (-16) else .fin true (131070 - sum) (-16)
  fmul (enc32 x) 0x3FDDB3D7#32

/-- Number of distinct draw counters that a tile's elements touch (R169). -/
def drawCount (origin : BitVec 48) (pitch : BitVec 24) (kind : Nat) : Nat :=
  let g := drawGroup kind
  (((List.range 32).flatMap fun i =>
    let a := logical origin pitch i 0 / g
    let b := logical origin pitch i 31 / g
    (List.range (b + 1 - a)).map (a + ·)).eraseDups).length

/-- The draw phase that the generator gives a command accepted in island tick `t`, which draws fields of a kind at an `ORIGIN` and
`PITCH`, and the LEAVEN block that has taken it: it begins after the acceptance and after the previous command's last draw, one
counter per tick (R169). -/
def Leaven.phase (l : Leaven) (id t kind : Nat) (origin : BitVec 48) (pitch : BitVec 24) : Option DrawPhase × Leaven :=
  match l.slot id with
  | some slot =>
    let first := max (t + 1) l.genLast
    let d := drawCount origin pitch kind
    (some { base := slot.base, origin := origin, pitch := pitch, first := first, last := first + d - 1 },
      { l with genLast := first + d })
  | none => (none, l)

/-- LVBASE: the draw base of a stream (R169). -/
def Leaven.setBase (l : Leaven) (id : Nat) (base : Word) : Leaven :=
  match l.slotNo id with
  | some n => { l with slots := mmod l.slots n {} fun x => { x with base := base } }
  | none => l

/-- Draws that the draw buffer holds for the drains of a station, in island tick `t` (R170). The manual does not say when an
entry is freed: here all entries of a drain are free from the tick in which the drain begins (DESIGN CHOICE, log entry
90). -/
def drawHeld (q : StationQ) (t : Nat) : Nat :=
  q.acc.foldl (fun a x =>
    match x.draw, x.stage with
    | some d, .queued | some d, .stalled _ | some d, .issued _ => a + (if d.begun then min (d.last + 1 - d.first) (t + 1 - d.first) else 0)
    | _, _ => a) 0

/-! ### Norm taps (R172, R173) -/

/-- A magnitude rounded to 48 bits, ties to even, as exponent X and mantissa M (R172). -/
def tapNormal (m : Nat) (e : Int) : BitVec 12 × BitVec 48 :=
  if m = 0 then (0, 0)
  else
    let q := leadExp m e - 47
    let lo := quantize .rne m e q
    let (lo', q') := if lo = 2 ^ 48 then (2 ^ 47, q + 1) else (lo, q)
    (BitVec.ofInt 12 (q' + 2094), BitVec.ofNat 48 lo')

/-- The sum of an entry with the square of one element added (R173). -/
def tapAdd (t : TapEntry) (x : Fv) : TapEntry :=
  match x with
  | .fin _ m e =>
    match addV (.fin false t.mant.toNat ((t.exp.toNat : Int) - 2094)) (.fin false (m * m) (2 * e)) with
    | .fin _ m' e' =>
      let r := tapNormal m' e'
      { t with exp := r.1, mant := r.2 }
    | _ => t
  | _ => { t with nf := true }

/-- The entry of a key, or the lowest free one (R173). -/
def Leaven.tapIndex (l : Leaven) (layer : BitVec 12) (cls : BitVec 2) : Option Nat :=
  match l.taps.find? (fun e => e.2.valid && e.2.layer == layer && e.2.cls == cls) with
  | some e => some e.1
  | none => (List.range 32).find? fun n => !(mget l.taps n {}).valid

/-- One tapped element (R173). -/
def Leaven.tap (layer : BitVec 12) (cls : BitVec 2) (l : Leaven) (x : Fv) : Leaven :=
  match l.tapIndex layer cls with
  | some n =>
    let t := mget l.taps n {}
    { l with taps := mset l.taps n (tapAdd { t with valid := true, cls := cls, layer := layer } x) }
  | none => { l with miss := satAdd 255 l.miss 1 }

/-- The elements of a tile, given by their encodings, enter in row-major order (R173). -/
def Leaven.tapTile (layer : BitVec 12) (cls : BitVec 2) (f : Nat) (elems : List Nat) (l : Leaven) : Leaven :=
  if cls = 0 then l else elems.foldl (fun l x => l.tap layer cls (decode f x)) l

/-- The value of a tap's sum. -/
def tapValue (t : TapEntry) : Fv := .fin false t.mant.toNat ((t.exp.toNat : Int) - 2094)

end Sys2Proof.Machine
end

