-- ==== Sys2Proof/Machine/Station.lean ====
section
/-! DEFINITION. Links, slots and semaphores (R51–R54, R74, R98), the queue of a station and the stages of its commands
(R50, R70), and the events that end them: TILE_FILLED, SLOT_FREED, TRANSFER_RETIRE. -/

namespace Sys2Proof.Machine

/-! ### Links (R51, R98) -/

def linkEnabled (w : Word) : Bool := w.getLsbD 31
def linkProducer (w : Word) : Nat := bits w.toNat 24 3
def linkConsumer (w : Word) : Nat := bits w.toNat 20 3
def linkDepth (w : Word) : Nat := bits w.toNat 16 4
/-- Bytes of a slot. -/
def linkSize (w : Word) : Nat := 512 * 2 ^ bits w.toNat 12 2
/-- First byte of the link's extent in slot memory. -/
def linkBase (w : Word) : Nat := 512 * bits w.toNat 0 7
/-- The bits of `CORE.LINKn.CFG` that are no reserved ones (R98). -/
def linkMask : Word := 0x877F307F#64

/-- A link of a core. -/
def Core.link (c : Core) (n : Nat) : Link := mget c.links n {}

/-- Rewrite a link of a core. -/
def Core.onLink (n : Nat) (f : Link → Link) (c : Core) : Core := { c with links := mmod c.links n {} f }

/-- The extents of two links overlap. -/
def linkOverlap (a b : Word) : Bool :=
  decide (linkBase a < linkBase b + linkDepth b * linkSize b) &&
    decide (linkBase b < linkBase a + linkDepth a * linkSize a)

/-- A configuration obeys R51 and the slot-memory rules of R98, by itself. -/
def linkCfgOk (w : Word) : Bool :=
  !linkEnabled w ||
    (decide (1 ≤ linkProducer w) && decide (linkProducer w ≤ 6) && decide (1 ≤ linkConsumer w) &&
      decide (linkConsumer w ≤ 6) && linkProducer w != linkConsumer w && decide (2 ≤ linkDepth w) &&
      decide (linkDepth w ≤ 8) && linkBase w % linkSize w == 0 &&
      decide (linkBase w + linkDepth w * linkSize w ≤ 65536))

/-- A configuration for link `n` obeys the rules beside the other enabled links of the core (R51, R98). -/
def linkFits (c : Core) (n : Nat) (w : Word) : Bool :=
  linkCfgOk w && (!linkEnabled w || (List.range 16).all fun i =>
    i == n || !linkEnabled (c.link i).cfg || !linkOverlap w (c.link i).cfg)

/-- A reset of a link: nothing filled, FREE the depth, both positions at slot 0 (R75). -/
def Link.reset (l : Link) : Link :=
  { l with filled := 0, free := linkDepth l.cfg, cons := 0, prod := 0, status := [] }

/-- The bytes of a slot. -/
def Core.slotData (c : Core) (n i : Nat) : Bytes :=
  let w := (c.link n).cfg
  memBytes c.slotMem (linkBase w + i * linkSize w) (linkSize w)

/-- The slot the consumer of a link reads next. -/
def Core.inSlot (c : Core) (n : Nat) : Bytes := c.slotData n (c.link n).cons

/-- The slots that a command's input links give it, in order: a link that is named twice gives its next two slots. -/
def Core.inSlots (c : Core) (ins : List Nat) : List Bytes :=
  ins.mapIdx fun i n => c.slotData n (((c.link n).cons + (ins.take i).count n) % linkDepth (c.link n).cfg)

/-- The slot of the second input link. -/
def Core.inSlot2 (c : Core) (ins : List Nat) : Bytes := ((c.inSlots ins)[1]?).getD []

/-- A station begins to read a slot: FILLED falls, and FREE will rise in island tick `due` (R52, R53). -/
def takeSlot (n due : Nat) (c : Core) : Core :=
  let c' := c.onLink n fun l => { l with filled := l.filled - 1, cons := (l.cons + 1) % linkDepth l.cfg }
  { c' with stn := { c'.stn with frees := c'.stn.frees ++ [(n, due)] } }

/-- A station begins to write a slot: FREE falls, and the tile shows in island tick `t.due` (R52, R53). The slot number
is filled in here. -/
def putTile (t : OutTile) (c : Core) : Core :=
  let slot := (c.link t.link).prod
  let c' := c.onLink t.link fun l => { l with free := l.free - 1, prod := (l.prod + 1) % linkDepth l.cfg }
  { c' with stn := { c'.stn with outs := c'.stn.outs ++ [{ t with slot := slot }] } }

/-! ### Commands of a station -/

/-- The command has not begun. -/
def Acc.waiting (a : Acc) : Bool :=
  match a.stage with
  | .queued | .stalled _ => true
  | _ => false

/-- The oldest command of a queue that has not begun (R50). -/
def StationQ.head (q : StationQ) : Option Acc := q.acc.find? Acc.waiting

/-- Rewrite the first element that satisfies a test. -/
def mapFirst {α : Type} (p : α → Bool) (f : α → α) : List α → List α
  | [] => []
  | x :: xs => if p x then f x :: xs else x :: mapFirst p f xs

/-- Remove the first element that satisfies a test. -/
def dropFirst {α : Type} (p : α → Bool) : List α → List α
  | [] => []
  | x :: xs => if p x then xs else x :: dropFirst p xs

/-- Rewrite the oldest command that has not begun. -/
def onHead (k : Nat) (st : Station) (f : Acc → Acc) (s : State) : State :=
  s.onStq k st fun q => { q with acc := mapFirst Acc.waiting f q.acc }

/-- The oldest command waits under a stall reason (R403). -/
def stall (k : Nat) (st : Station) (reason : Nat) (s : State) : State :=
  onHead k st (fun a => { a with stage := .stalled reason }) s

/-- The oldest command begins and retires in island tick `retire`. -/
def begin' (k : Nat) (st : Station) (retire : Nat) (s : State) : State :=
  onHead k st (fun a => { a with stage := .running retire }) s

/-- The oldest command begins; another event retires it. -/
def beginOpen (k : Nat) (st : Station) (s : State) : State := onHead k st (fun a => { a with stage := .open }) s

/-- A DRAIN whose turn has come and which has not begun. -/
def Acc.issued (a : Acc) : Bool :=
  match a.stage with
  | .issued _ => true
  | _ => false

/-- The oldest DRAIN of a station that waits to begin (R121, R195). -/
def StationQ.issued (q : StationQ) : Option Acc := q.acc.find? Acc.issued

/-- Rewrite the oldest DRAIN that waits to begin. -/
def onIssued (k : Nat) (st : Station) (f : Acc → Acc) (s : State) : State :=
  s.onStq k st fun q => { q with acc := mapFirst Acc.issued f q.acc }

/-- The stations of a core work: its island is not frozen, and the core has not stopped, or the tick of its stopping fault has
not gone by (R81, R332). -/
def stationsOn (k : Nat) (s : State) : Bool :=
  (match (s.core k).seq.st with
    | .idle => false
    | .faulted => (s.core k).stopAt == some (s.coreTick k)
    | _ => true) && !s.coreFrozen k

/-- Run the oldest command of a station that has not begun, if it has the given opcode. -/
def runHead (k : Nat) (st : Station) (opcode : Nat) (f : Acc → State → State) (s : State) : State :=
  match (s.stq k st).head with
  | some a => if stationsOn k s && cmdOpcode a.cmd == opcode then f a s else s
  | none => s

/-- A stopping fault found in a station: the record names the command and its issuing instruction (R81, R94). -/
def stationFault (k : Nat) (st : Station) (a : Acc) (code : BitVec 8) (detail : Word) (s : State) : State :=
  coreFault k { code := code, station := stCode st, layer := cmdLayer a.cmd, op := cmdOp a.cmd,
                pcWord := BitVec.ofNat 16 a.pcw, detail := detail, cmd := a.cmd } s

/-- A link the command reads holds too few tiles, or the one it writes has no free slot: the reason under which the station
waits (R52, R54). -/
def linkWait (c : Core) (ins outs : List Nat) : Option Nat :=
  if ins.any fun n => decide ((c.link n).filled < ins.count n) then some 2
  else if outs.any fun n => (c.link n).free == 0 then some 3
  else none

/-- Wait for the links and for an island tick, then go on. -/
def whenReady (k : Nat) (st : Station) (ins outs : List Nat) (fromTick : Nat) (body : State → State) (s : State) :
    State :=
  match linkWait (s.core k) ins outs with
  | some r => stall k st r s
  | none => if s.coreTick k < fromTick then stall k st 15 s else body s

/-! ### DRAINs (R121, R195) -/

/-- A DRAIN takes its turn among the commands of its station; from then on later commands go on while it waits.

DESIGN CHOICE (log entry 109): R50 has a station execute its commands in order, and R196 has the commands of one pair go on while
the DRAINs of the other wait. -/
def drainTurn (k : Nat) (st : Station) (s : State) : State :=
  if s.coreTick k < (s.stq k st).busy then stall k st 15 s else onHead k st (fun a => { a with stage := .issued 15 }) s

/-- The oldest DRAIN that waits begins once `OUT_LINK` has a free slot and the island tick has come. -/
def drainWhen (k : Nat) (st : Station) (out fromTick : Nat) (body : State → State) (s : State) : State :=
  match linkWait (s.core k) [] [out] with
  | some r => onIssued k st (fun a => { a with stage := .issued r }) s
  | none => if s.coreTick k < fromTick then onIssued k st (fun a => { a with stage := .issued 15 }) s else body s

/-- The oldest DRAIN that waits begins, and retires in island tick `retire`. -/
def beginDrain (k : Nat) (st : Station) (retire : Nat) (s : State) : State :=
  onIssued k st (fun a => { a with stage := .running retire }) s

/-- Try the oldest DRAIN that waits. -/
def tryIssued (k : Nat) (st : Station) (f : Acc → State → State) (s : State) : State :=
  match (s.stq k st).issued with
  | some a => if stationsOn k s then f a s else s
  | none => s

/-- The row of a DRAIN: a DRAIN at the head takes its turn, and the oldest one that waits begins if it may. -/
def runDrain (k : Nat) (st : Station) (opcode : Nat) (f : Acc → State → State) (s : State) : State :=
  tryIssued k st f (runHead k st opcode (fun _ s => drainTurn k st s) s)

/-- Rewrite the part of a core that stations own. -/
def State.onStn (s : State) (k : Nat) (f : Stations → Stations) : State := s.onCore k fun c => { c with stn := f c.stn }

/-! ### Tile status and the non-finite flag (R147–R150) -/

/-- The status of a tile whose elements are non-finite as the list says, in row-major order (R149). -/
def tileStatus (nf : List Bool) : TileStatus :=
  match nf.findIdx? (·) with
  | some i => { nf := true, row := i / 32, col := i % 32 }
  | none => {}

/-! ### Events -/

/-- Tiles are entered by the tick in which they show, then by station number, then by `OUT_LINK` (R150, R173). -/
def OutTile.before (a b : OutTile) : Bool :=
  decide (a.due < b.due) || (a.due == b.due &&
    (decide ((stCode a.st).toNat < (stCode b.st).toNat) || (a.st == b.st && decide (a.link < b.link))))

/-- The tile of a core that is entered next: of those that are due and complete, the first in the order of entry. -/
def nextTile (s : State) (k : Nat) : Option OutTile :=
  ((s.core k).stn.outs.filter fun t => decide (t.due ≤ s.coreTick k) && t.missing == 0).foldl
    (fun b t => match b with
      | some x => some (if t.before x then t else x)
      | none => some t) none

/-- The next tile to enter, if the station wrote it. -/
def dueTile (s : State) (k : Nat) (st : Station) : Option OutTile :=
  match nextTile s k with
  | some t => if t.st = st then some t else none
  | none => none

/-- A flagged tile enters in island tick `now`: `CORE.NF` records it if it was clear, and the first tile of the tick is kept for
a FLAGCLR of the same tick (R78, R150). -/
def Core.enterNf (now : Nat) (t : OutTile) (c : Core) : Core :=
  if t.status.nf then
    let r : NonFinite :=
      { flag := true, station := stCode t.st, layer := t.layer, op := t.op,
        row := BitVec.ofNat 5 t.status.row, col := BitVec.ofNat 5 t.status.col }
    { c with nf := if c.nf.flag then c.nf else r
             nfNow := if c.nfNow.1 = now && c.nfNow.2.flag then c.nfNow else (now, r) }
  else c

/-- A tile is complete: the slot holds it, FILLED rises, and the flag and the norm taps take it (R52, R53, R147, R150,
R173). -/
def fillTile (now : Nat) (t : OutTile) (c : Core) : Core :=
  let l := c.link t.link
  let c1 := (c.onLink t.link fun l => { l with filled := l.filled + 1, status := mset l.status t.slot t.status }).enterNf
    now t
  { c1 with
    slotMem := memWrite c1.slotMem (linkBase l.cfg + t.slot * linkSize l.cfg) t.data
    stn := { c1.stn with outs := dropFirst (fun x => decide (x = t)) c1.stn.outs }
    lv := c1.lv.tapTile t.layer t.tap t.fmt.toNat (t.kept.getD (tileElems t.fmt.toNat t.data)) }

/-- TILE_FILLED (R52). -/
def execTileFilled (k : Nat) (st : Station) (s : State) : Host.Outcome State Fault Refusal :=
  .next (match dueTile s k st with
    | some t => if stationsOn k s then s.onCore k (fillTile (s.coreTick k) t) else s
    | none => s)

/-- The slot of a link whose freeing is the first due: slots are read in order, and those read and not yet free stand behind
the consumer's position. -/
def freedSlot (n : Nat) (due : Nat × Nat → Bool) (c : Core) : Nat :=
  let mine := c.stn.frees.filter fun e => e.1 == n
  let l := c.link n
  (l.cons + linkDepth l.cfg - mine.length % (linkDepth l.cfg + 1) + (mine.findIdx due)) % linkDepth l.cfg

/-- SLOT_FREED: FREE rises, and the status of the slot is discarded (R52, R53, R147). -/
def execSlotFreed (k : Nat) (n : BitVec 4) (s : State) : Host.Outcome State Fault Refusal :=
  let due := fun (e : Nat × Nat) => e.1 == n.toNat && decide (e.2 ≤ s.coreTick k)
  .next (if stationsOn k s && (s.core k).stn.frees.any due then
    s.onCore k fun c =>
      { c.onLink n.toNat (fun l => { l with free := l.free + 1, status := mdel l.status (freedSlot n.toNat due c) }) with
        stn := { c.stn with frees := dropFirst due c.stn.frees } }
  else s)

/-- The command has begun and its retirement tick has come. -/
def Acc.due (a : Acc) (t : Nat) : Bool :=
  match a.stage with
  | .running r => decide (r ≤ t)
  | _ => false

/-- The retirement tick of a command that has one. -/
def Acc.retireTick (a : Acc) : Nat :=
  match a.stage with
  | .running r => r
  | _ => 0

/-- Commands of a station that have not retired by island tick `t` (R70). -/
def StationQ.outstanding (q : StationQ) (t : Nat) : List Acc := q.acc.filter fun a => !a.due t

/-- TRANSFER_RETIRE: a command retires and frees its place among the outstanding transfers (R70). -/
def execTransferRetire (k : Nat) (st : Station) (s : State) : Host.Outcome State Fault Refusal :=
  let t := s.coreTick k
  .next (if stationsOn k s then
    s.onStq k st fun q =>
      { q with
        acc := dropFirst (fun a => a.due t) q.acc
        last := match q.acc.find? fun a => a.due t with
          | some a => max q.last a.retireTick
          | none => q.last }
  else s)

end Sys2Proof.Machine
end

