-- ==== Sys2Proof/Machine/Matrix.lean ====
section
/-! DEFINITION. The MATRIX station (R100–R129): its checks, interlocks, arithmetic, and one meaning per command. LOADB
stands with Braid, in `Sys2Proof.Machine.Knead`. -/

namespace Sys2Proof.Machine

/-! ### Fields (R127) -/

def mxMask (c : Cmd) : Nat := cmdBits c 76 4
def mxOrient (c : Cmd) : Bool := c.getLsbD 75
def mxFlip (c : Cmd) : Bool := c.getLsbD 74
def mxBank (c : Cmd) : Bool := c.getLsbD 73
def mxInit (c : Cmd) : Bool := c.getLsbD 72
def cmdIn2 (c : Cmd) : Nat := cmdBits c 68 4
def mxFmt (c : Cmd) : Nat := cmdBits c 64 4
def mxGauss (c : Cmd) : Bool := c.getLsbD 63
def mxXu (c : Cmd) : Bool := c.getLsbD 62
def mxWu (c : Cmd) : Bool := c.getLsbD 61
def mxReg (c : Cmd) : Bool := c.getLsbD 60
def mxShift (c : Cmd) : Nat := 8 * cmdBits c 58 2
def mxSr (c : Cmd) : Nat := cmdBits c 56 2
def mxTap (c : Cmd) : Nat := cmdBits c 54 2
def cmdScale (c : Cmd) : F32 := c.extractLsb' 16 32
def mxStream (c : Cmd) : Nat := cmdBits c 0 16
/-- `MODE` of SETMODE (R127). -/
def mxModeField (c : Cmd) : Nat := cmdBits c 78 2
/-- `ORIGIN` of a SETIDX (R127). -/
def idxOrigin (c : Cmd) : BitVec 48 := c.extractLsb' 32 48
/-- `PITCH` of a SETIDX (R127). -/
def idxPitch (c : Cmd) : BitVec 24 := c.extractLsb' 8 24

/-- The mode of a field value. -/
def mmodeOf : Nat → MMode
  | 1 => .gang2 | 2 => .gang4 | _ => .split

/-! ### What is known when a command is accepted (R128) -/

/-- The mode and the formats of P0 and P1 of each array, as they will stand when every accepted command has run. -/
structure MxView where
  mode : MMode
  fmts : List (Option (BitVec 4) × Option (BitVec 4))

/-- The arrays of a group: those a stream addressed to `a` passes through (R101). -/
def mxGroup (m : MMode) (a : Nat) : List Nat :=
  match m with
  | .split => [a]
  | .gang2 => [a, a + 1]
  | .gang4 => [0, 1, 2, 3]

/-- Rewrite the entries of a list whose numbers satisfy a test. -/
def mapIdxIf {α : Type} (p : Nat → Bool) (f : α → α) (xs : List α) : List α :=
  xs.mapIdx fun i x => if p i then f x else x

/-- The effect of a waiting command on the view. -/
def mxViewStep (v : MxView) (c : Cmd) : MxView :=
  let f := some (BitVec.ofNat 4 (mxFmt c))
  let inMask := fun i => (mxMask c).testBit i
  match cmdOpcode c with
  | 0x01 => { v with mode := mmodeOf (mxModeField c) }
  | 0x02 | 0x03 => { v with fmts := mapIdxIf inMask (fun e => (e.1, f)) v.fmts }
  | 0x04 | 0x05 => { v with fmts := mapIdxIf inMask (fun _ => (f, f)) v.fmts }
  | 0x08 =>
    if mxFlip c then
      { v with fmts := mapIdxIf (fun i => (mxGroup v.mode (mxMask c)).contains i) (fun e => (e.2, e.2)) v.fmts }
    else v
  | _ => v

/-- An array of MATRIX. -/
def Matrix.array (m : Matrix) (a : Nat) : MArray := mget m.arrays a {}

/-- Rewrite an array. -/
def Matrix.onArray (a : Nat) (f : MArray → MArray) (m : Matrix) : Matrix :=
  { m with arrays := mmod m.arrays a {} f }

/-- The view of a core's MATRIX, its waiting commands included. -/
def mxView (c : Core) : MxView :=
  ((c.stn.matrix.acc.filter Acc.waiting).map (·.cmd)).foldl mxViewStep
    { mode := c.mx.mode, fmts := (List.range 4).map fun a => ((c.mx.array a).fmt0, (c.mx.array a).fmt1) }

/-- A stream of a 64-K configuration (R101). -/
def mx64K (m : MMode) (orient : Bool) : Bool :=
  match m with
  | .split => false
  | .gang2 => orient
  | .gang4 => true

/-- The opcode is a stream. -/
def mxIsStream (o : Nat) : Bool := o == 0x08 || o == 0x09 || o == 0x0A || o == 0x0B

/-- The opcodes of R126. -/
def mxOpcodes : List Nat := [0x01, 0x02, 0x03, 0x04, 0x05, 0x08, 0x09, 0x0A, 0x0B, 0x10, 0x11]

/-- The input links a command reads, in the order of R69 (R101, R126, R127). -/
def mxIns (m : MMode) (c : Cmd) : List Nat :=
  match cmdOpcode c with
  | 0x02 | 0x05 | 0x09 | 0x0A => [cmdIn c]
  | 0x04 | 0x0B => [cmdIn c, cmdIn2 c]
  | 0x08 => if mx64K m (mxOrient c) then [cmdIn c, cmdIn2 c] else [cmdIn c]
  | _ => []

/-- The output link a command writes. -/
def mxOuts (c : Cmd) : List Nat := if cmdOpcode c = 0x11 then [cmdOut c] else []

/-- Two formats may be paired (R112). -/
def mxPairs (x w : Nat) : Bool := if x = 8 || w = 8 then x == w else x != 0 && w != 0

/-- A register's format, if it holds one, pairs with a stream format. A register that nothing has loaded holds +0. -/
def mxRegOk (x : Nat) : Option (BitVec 4) → Bool
  | none => true
  | some w => mxPairs x w.toNat

/-- A register holds FP32 parts (R115), or nothing. -/
def mxRegParts : Option (BitVec 4) → Bool
  | none => true
  | some w => w == 0

/-- The checks of R128, after those of R69; `true` lets the command pass. `a1` is an A1 module (R117).

DESIGN CHOICE (log entry 99): R128 names no fault for a LOAD, LOADB or LOADPAIR with `FMT` FP32, for a STREAMC whose `FMT` is
not BF16 or for a STREAMI whose `FMT` is not INT8; each faults here with STATION_OPCODE. -/
def mxChecks (c : Core) (a1 : Bool) (cmd : Cmd) : Bool :=
  let v := mxView c
  let o := cmdOpcode cmd
  let f := mxFmt cmd
  let a := mxMask cmd
  let slotOk := fun n => linkSize (c.link n).cfg == fmtTile f
  let regs := fun (a : Nat) => (v.fmts[a]?).getD (none, none)
  let links := (mxIns v.mode cmd).all slotOk && (mxOuts cmd).all slotOk
  let split := v.mode == .split
  match o with
  | 0x01 => mxModeField cmd != 3
  | 0x10 => true
  | 0x02 | 0x03 => fmtOk f && f != 0 && a != 0 && links
  | 0x04 => fmtOk f && f != 0 && a != 0 && split && !mxFlip cmd && links
  | 0x05 => f == 0 && a != 0 && split && !mxFlip cmd && links
  | 0x08 =>
    let group := mxGroup v.mode a
    fmtOk f && f != 0 && links &&
      (match v.mode with
        | .split => decide (a < 4)
        | .gang2 => a == 0 || a == 2
        | .gang4 => a == 0) &&
      group.all fun i => mxRegOk f (if mxFlip cmd then (regs i).2 else (regs i).1)
  | 0x09 =>
    f == 8 && decide (a < 4) && split && !mxFlip cmd && links &&
      mxRegOk 8 (if mxReg cmd then (regs a).2 else (regs a).1)
  | 0x0A =>
    f == 0 && decide (a < 4) && split && !mxFlip cmd && links && mxRegParts (regs a).1 && mxRegParts (regs a).2
  | 0x0B =>
    f == 1 && decide (a < 4) && split && !mxFlip cmd && links && !(mxGauss cmd && a1) &&
      mxRegOk 1 (regs a).1 && mxRegOk 1 (regs a).2
  | 0x11 =>
    fmtOk f && decide (a < 4) && links && mxSr cmd != 3 && !(mxSr cmd != 0 && f == 0) &&
      (mxSr cmd == 0 || (c.lv.slot (mxStream cmd)).isSome)
  | _ => false

/-- `ORIGIN` and `PITCH` as they stand after the waiting commands of a station whose SETIDX has opcode `o` (R120). -/
def idxView (q : StationQ) (o : Nat) (origin : BitVec 48) (pitch : BitVec 24) : BitVec 48 × BitVec 24 :=
  ((q.acc.filter Acc.waiting).map (·.cmd)).foldl
    (fun p c => if cmdOpcode c = o then (idxOrigin c, idxPitch c) else p) (origin, pitch)

/-! ### Products and sums (R109–R111, R115) -/

/-- Values of a P register, in row-major order of the stored tile. -/
def regVals {α : Type} (zero : α) (f : BitVec 16 → α) (p : List (BitVec 16)) : List α :=
  if p.isEmpty then List.replicate 1024 zero else p.map f

/-- The values of a register by the format it was loaded in; FP32 is held as BF16 parts (R100, R115). -/
def partVals (f : Option (BitVec 4)) (p : List (BitVec 16)) : List Fv :=
  let g := if f.getD 0 = 0 then 1 else (f.getD 0).toNat
  regVals (.fin false 0 0) (fun v => decode g v.toNat) p

/-- The values of a register that holds BF16 values. -/
def bf16Vals (p : List (BitVec 16)) : List Fv := regVals (.fin false 0 0) (fun v => decode 1 v.toNat) p

/-- What the cells of an array hold now. -/
def MArray.regs (x : MArray) (upto : Nat) : MRegs :=
  { upto := upto, p0 := x.p0, p1 := x.p1, sum := x.sum, fmt0 := x.fmt0, fmt1 := x.fmt1 }

/-- A stationary operand by the entry tick of the vector that meets it: the versions of before, each up to its last tick,
and the version of now (R105). -/
structure Met (α : Type) where
  past : List (Nat × α)
  cur  : α

/-- Apply a function to every version. -/
def Met.map {α β : Type} (f : α → β) (v : Met α) : Met β := { past := v.past.map fun o => (o.1, f o.2), cur := f v.cur }

/-- What a vector meets that enters in tick `t` (R105, R107).

DESIGN CHOICE (log entry 30): a vector that reaches a cell in the tick in which a load writes it meets the old value. -/
def Met.at' {α : Type} (v : Met α) (t : Nat) : α := ((v.past.find? fun o => decide (t ≤ o.1)).map (·.2)).getD v.cur

/-- A stationary operand of an array. -/
def MArray.met {α : Type} (f : MRegs → α) (x : MArray) : Met α :=
  { past := x.past.map fun g => (g.upto, f g), cur := f (x.regs 0) }

/-- P0 and P1 as values. -/
def MArray.p0V (x : MArray) : Met (List Fv) := x.met fun g => partVals g.fmt0 g.p0
def MArray.p1V (x : MArray) : Met (List Fv) := x.met fun g => partVals g.fmt1 g.p1

/-- The entry tick of vector `r` of a tile whose first vector enters in tick `a` and which takes `ticks` (R105, R113). -/
def rowTick (a ticks r : Nat) : Nat := a + r * ticks / 32

/-- The columns of a stationary tile as a stream reads them: column n holds cell (k, n) for rising k (R103). -/
def cellCols {α : Type} (orient : Bool) (tile : List α) : List (List α) :=
  if orient then rowsOf 32 32 tile else transposeR 32 (rowsOf 32 32 tile)

/-- The chunk sum of one output element: products rounded to FP32, added in ascending k from +0 (R109, R110). -/
def chunkSum (xs ws : List Fv) : F32 := (List.zipWith (fun x w => enc32 (mulV x w)) xs ws).foldl fadd 0

/-- The exact integer chunk sum (R111). -/
def chunkSumI (xs ws : List Int) : Int := (List.zipWith (· * ·) xs ws).foldl (· + ·) 0

/-- The chunk sums of a stream tile against a stationary operand, in row-major order: each vector against what it
meets. -/
def chunkRows {α β : Type} (dot : List α → List α → β) (orient : Bool) (tick : Nat → Nat) (xs : List α) (w : Met (List α)) :
    List β :=
  let cols := w.map (cellCols orient)
  (rowsOf 32 32 xs).zipIdx.flatMap fun x => (cols.at' (tick x.2)).map (dot x.1)

/-- The FP32 chunk sums of a tile. -/
def chunkTile (orient : Bool) (tick : Nat → Nat) (xs : List Fv) (w : Met (List Fv)) : List F32 :=
  chunkRows chunkSum orient tick xs w

/-- The integer chunk sums of a tile. -/
def chunkTileI (orient : Bool) (tick : Nat → Nat) (xs : List Int) (w : Met (List Int)) : List Int :=
  chunkRows chunkSumI orient tick xs w

/-- An INT8 element as an integer, signed or not (R118). -/
def int8 (unsigned : Bool) (v : Nat) : Int := if unsigned || v % 256 < 128 then (v % 256 : Nat) else (v % 256 : Nat) - 256

/-- The values of a bank, one per element. -/
def Bank.all (b : Bank) : List F32 := if b.vals.isEmpty then List.replicate 1024 0 else b.vals

/-- A bank set to +0 by `INIT` (R100, R110, R111). -/
def Bank.init (b : Bank) (i : Bool) : Bank := if i then { b with vals := [], sat := [], isInt := false } else b

/-- B ← B + S, or B − S, in FP32; the bank's type becomes floating-point (R100, R110, R116). -/
def Bank.addF (sub : Bool) (s : List F32) (b : Bank) : Bank :=
  { b with vals := List.zipWith (if sub then fsub else fadd) b.all s, isInt := false }

/-- A bank value and a chunk sum, saturated: the value and whether it saturated (R111). -/
def satSum (b : F32) (x : Int) : F32 × Bool :=
  let v := b.toInt + x
  if v < -2147483648 then (0x80000000#32, true)
  else if 2147483647 < v then (0x7FFFFFFF#32, true)
  else (BitVec.ofInt 32 v, false)

/-- B ← B + (S << SHIFT) with saturation and its marks; the bank's type becomes integer (R100, R111). -/
def Bank.addI (shift : Nat) (s : List Int) (b : Bank) : Bank :=
  let r := List.zipWith (fun v x => satSum v (x * 2 ^ shift)) b.all s
  { b with vals := r.map (·.1), isInt := true
           sat := (List.range 1024).filter fun i => b.sat.contains i || ((r[i]?).map (·.2)).getD false }

/-- A bank of an array. -/
def MArray.bank (a : MArray) (b : Bool) : Bank := if b then a.bank1 else a.bank0

/-- Rewrite a bank of an array. -/
def MArray.onBank (b : Bool) (f : Bank → Bank) (a : MArray) : MArray :=
  if b then { a with bank1 := f a.bank1 } else { a with bank0 := f a.bank0 }

/-- hi of the split of R115: x rounded to BF16, or truncated where its magnitude exceeds the largest BF16 value; NaN and
infinity stay. -/
def splitHi (x : F32) : Nat :=
  match dec32 x with
  | .fin neg m e => if overLargest 1 m e then encodeFin 1 .rtz neg m e else encodeFin 1 .rne neg m e
  | v => encode 1 .rne v

/-- lo of the split of R115. -/
def splitLo (x : F32) : Nat :=
  match dec32 x with
  | .fin neg m e => encode 1 .rne (dec32 (enc32 (addV (.fin neg m e) (negV (decode 1 (splitHi x))))))
  | _ => 0

/-! ### Entry ticks and completion (R113, R129) -/

/-- Entry ticks of a load of a format: bytes ÷ 256. -/
def loadTicks (f : Nat) : Nat := fmtTile f / 256

/-- The rate class of a pair: ticks per stream tile and tokens per tick and array; the parts that LOAD32 leaves are 16 bits wide (R112,
R113, R115, R357). -/
def streamClass (x w : Nat) : Nat × Nat :=
  if x = 8 then (16, 12)
  else if 2048 ≤ fmtTile x || 2048 ≤ fmtTile w then (32, 14)
  else if x = 7 && w = 7 then (8, 18)
  else (16, 16)

/-- Ticks from the tick after the last entry into a bank to its completion: the last entry plus 32, or 33 in a 64-K
configuration; 34 and 35 under 0x0A01 (R129). -/
def completeAfter (s : State) (k64 : Bool) : Nat := if k64 then s.table 32 34 else s.table 31 33

/-- Rewrite MATRIX of a core. -/
def State.onMx (s : State) (k : Nat) (f : Matrix → Matrix) : State := s.onCore k fun c => { c with mx := f c.mx }

/-- Read the slots of a command's input links; they are free again in island tick `due`.

DESIGN CHOICE (log entry 99): a STREAMC or LOADPAIR frees both its slots when the whole command has entered; R116 does not say
when each is last read. -/
def takeAll (k : Nat) (ins : List Nat) (due : Nat) (s : State) : State :=
  s.onCore k fun c => ins.foldl (fun c n => takeSlot n due c) c

/-! ### Multi-part streams (R111, R115–R118) -/

/-- The sum of two values, rounded to BF16 (R117). -/
def bf16Sum (a b : Fv) : Fv := decode 1 (encode 1 .rne (addV a b))

/-- STREAMI: one integer pass (R111, R118). -/
def MArray.streami (cmd : Cmd) (t : Nat) (xs : List Nat) (x : MArray) : MArray :=
  let w := x.met fun g => regVals 0 (fun v => int8 (mxWu cmd) v.toNat) (if mxReg cmd then g.p1 else g.p0)
  x.onBank (mxBank cmd) fun b =>
    (b.init (mxInit cmd)).addI (mxShift cmd) (chunkTileI (mxOrient cmd) (rowTick t 16) (xs.map (int8 (mxXu cmd))) w)

/-- STREAM32: hi·lo, lo·hi, hi·hi (R115). -/
def MArray.stream32 (cmd : Cmd) (t : Nat) (xs : List Nat) (x : MArray) : MArray :=
  let hi := xs.map fun v => decode 1 (splitHi (BitVec.ofNat 32 v))
  let lo := xs.map fun v => decode 1 (splitLo (BitVec.ofNat 32 v))
  let pass := fun (p : Nat) => chunkTile (mxOrient cmd) (rowTick (t + 32 * p) 32)
  x.onBank (mxBank cmd) fun b =>
    (((b.init (mxInit cmd)).addF false (pass 0 hi x.p1V)).addF false (pass 1 lo x.p0V)).addF false (pass 2 hi x.p0V)

/-- STREAMC: four passes, or three with the pre-sums of Gauss (R116, R117). -/
def MArray.streamc (cmd : Cmd) (t : Nat) (xr xi : List Nat) (x : MArray) : MArray :=
  let re := xr.map (decode 1)
  let im := xi.map (decode 1)
  let pass := fun (p : Nat) => chunkTile (mxOrient cmd) (rowTick (t + 32 * p) 32)
  let b0 := x.bank0.init (mxInit cmd)
  let b1 := x.bank1.init (mxInit cmd)
  let s1 := pass 0 re x.p0V
  let s2 := pass 1 im x.p1V
  if mxGauss cmd then
    { x with bank0 := (b0.addF false s1).addF true s2
             bank1 := ((b1.addF true s1).addF true s2).addF false
               (pass 2 (List.zipWith bf16Sum re im) (x.met fun g => bf16Vals g.sum)) }
  else
    { x with bank0 := (b0.addF false s1).addF true s2
             bank1 := (b1.addF false (pass 2 re x.p1V)).addF false (pass 3 im x.p0V) }

/-- The banks after a multi-part stream whose first vector enters in tick `t`. -/
def MArray.multi (cmd : Cmd) (t : Nat) (tiles : List (List Nat)) (x : MArray) : MArray :=
  let tile := fun (i : Nat) => (tiles[i]?).getD []
  match cmdOpcode cmd with
  | 0x09 => x.streami cmd t (tile 0)
  | 0x0A => x.stream32 cmd t (tile 0)
  | _ => x.streamc cmd t (tile 0) (tile 1)

/-- Start a multi-part stream. -/
def MArray.start (cmd : Cmd) (t : Nat) (tiles : List (List Nat)) (x : MArray) : MArray :=
  { x.multi cmd t tiles with
    run := some { at' := t, cmd := cmd, tiles := tiles, bank0 := x.bank0, bank1 := x.bank1 } }

/-- The sums of a multi-part stream over again, from the banks it found: a load has changed what its later vectors meet
(R105). -/
def MArray.redo (r : MxRun) (x : MArray) : MArray :=
  let back := fun (old now : Bank) => { now with vals := old.vals, sat := old.sat, isInt := old.isInt }
  { x with bank0 := back r.bank0 x.bank0, bank1 := back r.bank1 x.bank1 }.multi r.cmd r.at' r.tiles

/-! ### Loads (R102, R106, R107, R114, R115) -/

/-- The tick from which a load may take its first entry tick: interlocks 2 and 3, and R114's wait for a load that writes
P0. -/
def loadFrom (m : Matrix) (mask : Nat) (both : Bool) : Nat :=
  (List.range 4).foldl (fun t a =>
    if mask.testBit a then max t (if both then max (m.array a).flight (m.array a).flipIn else (m.array a).flipIn)
    else t) m.loadLast

/-- A load of an array with the entry ticks `t` to `t + ticks - 1`: the vectors that enter up to the last of them meet the
old contents (R105). -/
def MArray.load (t ticks : Nat) (f : MArray → MArray) (x : MArray) : MArray :=
  let run := if x.lastIn ≤ t then none else x.run
  let keep := (run.map (·.at')).getD t
  let y := { f x with past := (x.past.filter fun g => decide (keep ≤ g.upto)) ++ [x.regs (t + ticks - 1)]
                      run := run, loadEnd := t + ticks }
  match run with
  | some r => y.redo r
  | none => y

/-- A load takes its entry ticks from island tick `t` on. -/
def loadArrays (mask t ticks : Nat) (f : MArray → MArray) (m : Matrix) : Matrix :=
  { (List.range 4).foldl (fun m a => if mask.testBit a then m.onArray a (MArray.load t ticks f) else m) m with
    loadLast := t + ticks }

/-- The 16-bit registers of a tile's encodings. -/
def regsOf (xs : List Nat) : List (BitVec 16) := xs.map (BitVec.ofNat 16 ·)

/-- Run a load once its links and interlocks let it. -/
def mxLoad (k : Nat) (both : Bool) (ins : List Nat) (ticks : Nat) (f : Core → MArray → MArray) (a : Acc) (s : State) :
    State :=
  let t := s.coreTick k
  whenReady k .matrix ins [] (max (loadFrom (s.core k).mx (mxMask a.cmd) both) (s.stq k .matrix).busy)
    (fun s => begin' k .matrix (t + ticks)
      (takeAll k ins (t + ticks) (s.onMx k (loadArrays (mxMask a.cmd) t ticks (f (s.core k)))))) s

/-- LOAD: one tile into the shadows of `MASK` (R102). -/
def mxDoLoad (k : Nat) (a : Acc) (s : State) : State :=
  let f := mxFmt a.cmd
  mxLoad k false [cmdIn a.cmd] (loadTicks f)
    (fun c x => { x with p1 := regsOf (tileElems f (c.inSlot (cmdIn a.cmd))), fmt1 := some (BitVec.ofNat 4 f) }) a s

/-- LOADPAIR: P0 from `IN_LINK` and P1 from `IN_LINK2`, and their pre-sum (R114, R117).

DESIGN CHOICE (log entry 102): R105 dates what a LOAD writes by its last entry tick and R114 does not date the two tiles of a
LOADPAIR apart: P0 is written with P1, by the last entry tick of the whole command. -/
def mxDoLoadpair (k : Nat) (a : Acc) (s : State) : State :=
  let f := mxFmt a.cmd
  mxLoad k true [cmdIn a.cmd, cmdIn2 a.cmd] (2 * loadTicks f)
    (fun c x =>
      let re := tileElems f (c.inSlot (cmdIn a.cmd))
      let im := tileElems f (c.inSlot2 [cmdIn a.cmd, cmdIn2 a.cmd])
      { x with p0 := regsOf re, p1 := regsOf im
               sum := regsOf (List.zipWith (fun v w => encode 1 .rne (addV (decode f v) (decode f w))) re im)
               fmt0 := some (BitVec.ofNat 4 f), fmt1 := some (BitVec.ofNat 4 f) }) a s

/-- LOAD32: an FP32 tile split into hi in P0 and lo in P1 (R115). -/
def mxDoLoad32 (k : Nat) (a : Acc) (s : State) : State :=
  mxLoad k true [cmdIn a.cmd] 16
    (fun c x =>
      let xs := (tileElems 0 (c.inSlot (cmdIn a.cmd))).map (BitVec.ofNat 32 ·)
      { x with p0 := regsOf (xs.map splitHi), p1 := regsOf (xs.map splitLo), fmt0 := some 0, fmt1 := some 0 }) a s

/-! ### Streams (R101, R103–R107, R110, R115–R118) -/

/-- The arrays whose banks a stream accumulates into, each with the arrays whose chunk sums it adds, in order, and the
input of each: 0 for `IN_LINK`, 1 for `IN_LINK2` (R101, R110). -/
def mxPlan (m : MMode) (orient : Bool) (a : Nat) : List (Nat × List (Nat × Nat)) :=
  match m, orient with
  | .split, _ => [(a, [(a, 0)])]
  | .gang2, false => [(a, [(a, 0)]), (a + 1, [(a + 1, 0)])]
  | .gang2, true => [(a, [(a, 0), (a + 1, 1)])]
  | .gang4, false => [(0, [(0, 0), (2, 1)]), (1, [(1, 0), (3, 1)])]
  | .gang4, true => [(0, [(0, 0), (1, 1)]), (2, [(2, 0), (3, 1)])]

/-- The tick from which a stream may enter its group: interlocks 1 and 4, a change of orientation, and the drains of
its banks (R104, R107, R121). -/
def streamFrom (m : Matrix) (group : List Nat) (flip orient : Bool) (banks : List (Nat × Bool × Nat)) : Nat :=
  let t := group.foldl (fun t a =>
    let x := m.array a
    max t (max (if flip then x.loadEnd else 0) (max x.lastIn (if x.orient != orient then x.accDone else 0)))) 0
  banks.foldl (fun t b => max t ((m.array b.1).bank b.2.1).drain) t

/-- A DRAIN that waits reads a bank that a stream fills (R121). -/
def drainAhead (q : StationQ) (banks : List (Nat × Bool × Nat)) : Bool :=
  q.acc.any fun a => a.issued && banks.any fun b => b.1 == mxMask a.cmd && b.2.1 == mxBank a.cmd

/-- The marks a stream leaves on the arrays it passes and on the banks it fills, each with its entry ticks up to the last entry
into that bank: `t` its first entry tick, `ticks` its entry ticks, `comp` the ticks from the last entry's successor to
completion (R129). -/
def streamMarks (group : List Nat) (banks : List (Nat × Bool × Nat)) (flip orient : Bool) (t ticks comp : Nat) (m : Matrix) :
    Matrix :=
  let m1 := group.foldl (fun m a => m.onArray a fun x =>
    { x with lastIn := t + ticks, orient := orient, accDone := t + ticks + comp, flight := t + ticks + 30
             flipIn := if flip then t + 1 else x.flipIn }) m
  banks.foldl (fun m b => m.onArray b.1 (·.onBank b.2.1 fun k => { k with done := t + b.2.2 + comp })) m1

/-- An array as a stream that enters in tick `t` finds it: P1 copied into P0 if it flips (R106). -/
def MArray.enter (t : Nat) (flip : Bool) (x : MArray) : MArray :=
  { x with p0 := if flip then x.p1 else x.p0, fmt0 := if flip then x.fmt1 else x.fmt0
           past := x.past.filter fun g => decide (t ≤ g.upto), run := none }

/-- Run a stream once its links and interlocks let it and no DRAIN waits for a bank it fills; `f` is its arithmetic on the arrays
as it finds them, with the tick of its first vector. -/
def mxRunStream (k : Nat) (group : List Nat) (banks : List (Nat × Bool × Nat)) (ticks tokens : Nat) (k64 : Bool) (ins : List Nat)
    (f : Core → Nat → Matrix → Matrix) (a : Acc) (s : State) : State :=
  let t := s.coreTick k
  let flip := mxFlip a.cmd
  let orient := mxOrient a.cmd
  whenReady k .matrix ins []
    (max (streamFrom (s.core k).mx group flip orient banks) (s.stq k .matrix).busy)
    (fun s =>
      if drainAhead (s.stq k .matrix) banks then stall k .matrix 15 s else
      let c := s.core k
      let found := group.foldl (fun m a => m.onArray a (MArray.enter t flip)) c.mx
      let s1 := s.onMx k fun _ => streamMarks group banks flip orient t ticks (completeAfter s k64) (f c t found)
      let s2 := chargeSpan k t ticks (tokens * group.length) 2 (cmdLayer a.cmd) (cmdOp a.cmd) s1
      begin' k .matrix (t + ticks) (takeAll k ins (t + ticks) s2)) s

/-- STREAM: one tile, or two in a 64-K configuration (R101, R103, R110, R111). -/
def mxDoStream (k : Nat) (a : Acc) (s : State) : State :=
  let m := (s.core k).mx
  let arr := mxMask a.cmd
  let orient := mxOrient a.cmd
  let group := mxGroup m.mode arr
  let plan := mxPlan m.mode orient arr
  let f := mxFmt a.cmd
  let ins := mxIns m.mode a.cmd
  let b := mxBank a.cmd
  let wf := group.foldl (fun w i =>
    let x := m.array i
    let fi := (if mxFlip a.cmd then x.fmt1 else x.fmt0).getD (BitVec.ofNat 4 f)
    if fmtTile fi.toNat > fmtTile w then fi.toNat else w) (if f = 7 then 7 else f)
  let cls := streamClass f wf
  mxRunStream k group (plan.map fun p => (p.1, b, cls.1)) cls.1 cls.2 (mx64K m.mode orient) ins
    (fun c t m =>
      let tiles := (c.inSlots ins).map (tileElems f)
      let tick := rowTick t cls.1
      plan.foldl (fun m p => m.onArray p.1 (·.onBank b fun bank =>
        p.2.foldl (fun bank q =>
          let x := (tiles[q.2]?).getD []
          let w := m.array q.1
          if f = 8 then
            bank.addI 0 (chunkTileI orient tick (x.map (int8 false))
              (w.met fun g => regVals 0 (fun v => int8 false v.toNat) g.p0))
          else bank.addF false (chunkTile orient tick (x.map (decode f)) w.p0V)) (bank.init (mxInit a.cmd)))) m) a s

/-- A multi-part stream of one array, with the formats of its tiles and the banks it fills, each with the entry ticks up to the last
entry into it (R115–R118). -/
def mxRunMulti (k : Nat) (banks : List (Bool × Nat)) (ticks tokens fmt : Nat) (ins : List Nat) (a : Acc) (s : State) : State :=
  let arr := mxMask a.cmd
  mxRunStream k [arr] (banks.map fun b => (arr, b)) ticks tokens false ins
    (fun c t m => m.onArray arr (MArray.start a.cmd t ((c.inSlots ins).map (tileElems fmt)))) a s

/-- The entry ticks of a STREAMC. -/
def streamcTicks (c : Cmd) : Nat := if mxGauss c then 96 else 128

/-- STREAMI, STREAM32 and STREAMC: bank 0 of a STREAMC takes its last vector in the second pass (R116, R117, R129). -/
def mxDoStreami (k : Nat) (a : Acc) (s : State) : State :=
  mxRunMulti k [(mxBank a.cmd, 16)] 16 12 8 [cmdIn a.cmd] a s
def mxDoStream32 (k : Nat) (a : Acc) (s : State) : State :=
  mxRunMulti k [(mxBank a.cmd, 96)] 96 14 0 [cmdIn a.cmd] a s
def mxDoStreamc (k : Nat) (a : Acc) (s : State) : State :=
  mxRunMulti k [(false, 64), (true, streamcTicks a.cmd)] (streamcTicks a.cmd) 14 1 [cmdIn a.cmd, cmdIn2 a.cmd] a s

/-! ### SETMODE, SETIDX, DRAIN (R119–R121) -/

/-- SETMODE, after every accumulation is complete. -/
def mxDoSetmode (k : Nat) (a : Acc) (s : State) : State :=
  let t := s.coreTick k
  let m := (s.core k).mx
  let done := (List.range 4).foldl (fun u i => max u (m.array i).accDone) (s.stq k .matrix).busy
  whenReady k .matrix [] [] done (fun s =>
    begin' k .matrix (t + 2) ((s.onMx k fun m => { m with mode := mmodeOf (mxModeField a.cmd) }).onStq k .matrix
      fun q => { q with busy := t + 2 })) s

/-- SETIDX (R120). -/
def mxDoSetidx (k : Nat) (a : Acc) (s : State) : State :=
  let t := s.coreTick k
  whenReady k .matrix [] [] (s.stq k .matrix).busy (fun s =>
    begin' k .matrix (t + 1)
      (s.onMx k fun m => { m with origin := idxOrigin a.cmd, pitch := idxPitch a.cmd })) s

/-- The random field of element `i` of a tile for a stream, or 0 for a command that draws nothing (R120, R144). -/
def srField (l : Leaven) (id : Nat) (d : Option DrawPhase) (i : Nat) : Nat :=
  match d, l.slot id with
  | some p, some slot => drawField slot p.base 0 (logical p.origin p.pitch (i / 32) (i % 32))
  | _, _ => 0

/-- A drained element: its encoding and whether it is non-finite (R119, R148). -/
def drainElem (isInt : Bool) (scale : F32) (f : Nat) (r : Rnd) (marked : Bool) (v : F32) : Nat × Bool :=
  let x := if isInt then enc32 (.fin (decide (v.toInt < 0)) v.toInt.natAbs 0) else v
  let y := convert f r scale x
  (y.1, y.2 || marked)

/-- The elements of a drain of a bank. -/
def drainBank (b : Bank) (scale : F32) (f sr : Nat) (rand : Nat → Nat) : List (Nat × Bool) :=
  b.all.mapIdx fun i v => drainElem b.isInt scale f (rndOf sr (rand i)) (b.sat.contains i) v

/-- The tick after the last draw of a drain (R170). -/
def lastDraw (a : Acc) : Nat :=
  match a.draw with
  | some d => d.last + 1
  | none => 0

/-- DRAIN: one bank to the slot of `OUT_LINK`, no earlier than the bank's completion, the drain before it and its last
draw (R119–R121, R129, R170).

DESIGN CHOICE (log entry 99): under 0x0A01 the two extra ticks before the first write follow whatever the DRAIN waited for;
DESIGN CHOICE (log entry 90): the draw buffer drops all entries of the drain in the tick in which it begins. -/
def mxDoDrain (k : Nat) (a : Acc) (s : State) : State :=
  let t := s.coreTick k
  let c := s.core k
  let arr := mxMask a.cmd
  let b := mxBank a.cmd
  let bank := (c.mx.array arr).bank b
  let f := mxFmt a.cmd
  drainWhen k .matrix (cmdOut a.cmd) (max (max bank.done c.mx.drainLast) (lastDraw a))
    (fun s =>
      let el := drainBank bank (cmdScale a.cmd) f (mxSr a.cmd) (srField c.lv (mxStream a.cmd) a.draw)
      let due := t + s.table 0 2 + fmtTile f / 256
      let tile : OutTile :=
        { st := .matrix, link := cmdOut a.cmd, slot := 0, due := due, data := tileBytes f (el.map (·.1)),
          status := tileStatus (el.map (·.2)), layer := cmdLayer a.cmd, op := cmdOp a.cmd,
          fmt := BitVec.ofNat 4 f, tap := BitVec.ofNat 2 (mxTap a.cmd) }
      let s1 := s.onMx k fun m =>
        { m.onArray arr (·.onBank b fun x => { x with drain := due }) with drainLast := due }
      beginDrain k .matrix due (s1.onCore k (putTile tile))) s

/-! ### Meanings -/

def execSetmode (k : Nat) (s : State) : Host.Outcome State Fault Refusal := .next (runHead k .matrix 0x01 (mxDoSetmode k) s)
def execLoad (k : Nat) (s : State) : Host.Outcome State Fault Refusal := .next (runHead k .matrix 0x02 (mxDoLoad k) s)
def execLoadpair (k : Nat) (s : State) : Host.Outcome State Fault Refusal :=
  .next (runHead k .matrix 0x04 (mxDoLoadpair k) s)
def execLoad32 (k : Nat) (s : State) : Host.Outcome State Fault Refusal :=
  .next (runHead k .matrix 0x05 (mxDoLoad32 k) s)
def execStream (k : Nat) (s : State) : Host.Outcome State Fault Refusal :=
  .next (runHead k .matrix 0x08 (mxDoStream k) s)
def execStreami (k : Nat) (s : State) : Host.Outcome State Fault Refusal :=
  .next (runHead k .matrix 0x09 (mxDoStreami k) s)
def execStream32 (k : Nat) (s : State) : Host.Outcome State Fault Refusal :=
  .next (runHead k .matrix 0x0A (mxDoStream32 k) s)
def execStreamc (k : Nat) (s : State) : Host.Outcome State Fault Refusal :=
  .next (runHead k .matrix 0x0B (mxDoStreamc k) s)
def execMatrixSetidx (k : Nat) (s : State) : Host.Outcome State Fault Refusal :=
  .next (runHead k .matrix 0x10 (mxDoSetidx k) s)
def execMatrixDrain (k : Nat) (s : State) : Host.Outcome State Fault Refusal :=
  .next (runDrain k .matrix 0x11 (mxDoDrain k) s)

/-- MATRIX after a release of MODULE scope or wider, a load or a restore: stationaries and banks +0, mode SPLIT, index 0
(R123, R124). -/
def Matrix.cleared : Matrix := {}

end Sys2Proof.Machine
end

