-- ==== Sys2Proof/Machine/Mesh.lean ====
section
/-! DEFINITION. The module address map, the hash of DRAM over the stacks, routes and latencies of the mesh, row packets,
and the events of routers and stacks (R203, R232–R252). -/

namespace Sys2Proof.Machine

/-! ### The module address map (R203, R251) -/

/-- The first address past DRAM. -/
def dramEnd : Nat := 0x01E000000000

/-- The base of the cluster-memory windows. -/
def windowBase : Nat := 0x020000000000

/-- Rows of a cluster memory. -/
def clRows : Nat := 24576

/-- An address lies in DRAM. -/
def isDram (a : Nat) : Bool := decide (a < dramEnd)

/-- Module address of a row of a cluster. -/
def rowAddr (c r : Nat) : Nat := windowBase + c * 0x1000000 + r * 512

/-- The cluster window an address lies in, and the offset there. -/
def windowOf (a : Nat) : Option (Nat × Nat) :=
  if windowBase ≤ a && a < windowBase + 96 * 0x1000000 then
    some ((a - windowBase) / 0x1000000, (a - windowBase) % 0x1000000)
  else none

/-- A transfer may name the row at an address: it is aligned, and lies in DRAM or in the populated rows of an enabled
cluster's window (R204, R252). -/
def State.rowOk (s : State) (a : Nat) : Bool :=
  a % 512 == 0 && (isDram a ||
    match windowOf a with
    | some (c, o) => s.enabled.contains c && decide (o < 512 * clRows)
    | none => false)

/-- The first of `n` rows from an address on that no transfer may name (R252). -/
def State.badRow (s : State) (a n : Nat) : Option Nat :=
  ((List.range n).map fun i => a + 512 * i).find? fun x => !s.rowOk x

/-! ### The hash (R243) -/

/-- Stack of a DRAM address. -/
def stackOf (a : Nat) : Nat :=
  let g := a / 8192
  (g % 24 + g / 24 + g / 24 / 24) % 24

/-- Byte address within the stack. -/
def localOf (a : Nat) : Nat := a / 8192 / 24 * 8192 + a % 8192

/-- The DRAM address of a byte of a stack. -/
def addrOf (st loc : Nat) : Nat :=
  let q := loc / 8192
  let m := (st + 23 * (q + q / 24)) % 24
  (24 * q + m) * 8192 + loc % 8192

/-- Bytes of a stack. -/
def stackBytes : Nat := 10485760 * 8192

/-! ### Routers and routes (R232, R236–R239, R310, R530) -/

/-- Column of a router. -/
def rtX (r : Nat) : Nat := r % 12

/-- Row of a router. -/
def rtY (r : Nat) : Nat := r / 12

/-- The router at a position. -/
def rtAt (x y : Nat) : Nat := y * 12 + x

/-- The disabled routers that the record in use lists. -/
def State.disRouters (s : State) : List (Nat × Nat) :=
  match s.mgmt.record with
  | some r => r.disRouters
  | none => []

/-- One step toward a coordinate. -/
def toward (a b : Nat) : Nat := if a < b then a + 1 else a - 1

/-- Row by which a packet moving in x passes a disabled router of row `y` (R238). -/
def detourY (y : Nat) : Nat := if y = 3 || y = 7 then y - 1 else y + 1

/-- Column by which a packet moving in y passes a disabled router of column `x` (R238). -/
def detourX (x : Nat) : Nat := if x = 5 || x = 11 then x - 1 else x + 1

/-- The routers a packet enters after the one at (x, y): first in x, then in y, with the detours of R238. -/
def routeFrom (dis : List (Nat × Nat)) (dx dy : Nat) : Nat → Nat → Nat → List Nat
  | 0, _, _ => []
  | n + 1, x, y =>
    if x = dx && y = dy then []
    else if x != dx then
      let x1 := toward x dx
      if !dis.contains (x1, y) then rtAt x1 y :: routeFrom dis dx dy n x1 y
      else if x1 = dx then
        let y1 := toward y dy
        rtAt x y1 :: rtAt x1 y1 :: routeFrom dis dx dy n x1 y1
      else
        let x2 := toward x1 dx
        let yd := detourY y
        [rtAt x yd, rtAt x1 yd, rtAt x2 yd, rtAt x2 y] ++ routeFrom dis dx dy n x2 y
    else
      let y1 := toward y dy
      if !dis.contains (x, y1) then rtAt x y1 :: routeFrom dis dx dy n x y1
      else
        let y2 := toward y1 dy
        let xd := detourX x
        [rtAt xd y, rtAt xd y1, rtAt xd y2, rtAt x y2] ++ routeFrom dis dx dy n x y2

/-- The routers on the way from one router to another, the first one left out. -/
def State.route (s : State) (a b : Nat) : List Nat := routeFrom s.disRouters (rtX b) (rtY b) 32 (rtX a) (rtY a)

/-- Die boundaries crossed along a list of routers. -/
def crossings : List Nat → Nat
  | a :: b :: rest =>
    bnat (decide (rtX a < 6) != decide (rtX b < 6)) + bnat (decide (rtY a < 4) != decide (rtY b < 4)) +
      crossings (b :: rest)
  | _ => 0

/-- One-way latency between two routers (R239). -/
def State.latency (s : State) (a b : Nat) : Nat :=
  let p := s.route a b
  6 + 2 * p.length + 4 * crossings (a :: p)

/-- A router, or its neighbour in x if it is disabled (R237, R310). -/
def State.orBeside (s : State) (x y : Nat) : Nat := if s.disRouters.contains (x, y) then rtAt (x ^^^ 1) y else rtAt x y

/-- A coordinate held between two bounds. -/
def clamp (lo hi v : Nat) : Nat := max lo (min hi v)

/-- The attachment router that a requester's packets to a stack take (R236, R237). -/
def State.attach (s : State) (r st : Nat) : Nat :=
  let a := st % 6
  let b := st / 6
  s.orBeside (clamp (2 * a) (2 * a + 1) (rtX r)) (clamp (2 * b) (2 * b + 1) (rtY r))

/-- The router a Lattice port attaches to (R310). -/
def State.portRouter (s : State) (p : Nat) : Nat :=
  let d := p / 5
  s.orBeside (6 * (d % 2) + 1 + p % 5) (4 * (d / 2) + 3 * (p % 5 % 2))

/-- The host router (R530). -/
def State.hostRouter (s : State) : Nat := s.orBeside 0 0

/-! ### Modules of the job and ways to them (R265, R311, R313) -/

/-- The module's index: that of the fabric once it is brought up, and before that its tray slot. -/
def State.moduleIndex (s : State) : Nat := s.fab.index.getD s.mgmt.slotUsed.toNat

/-- Tray slot of a module index (R265). -/
def traySlot (m : Nat) : Nat := m % 8

/-- Coordinates of the tray of a module index (R265). -/
def trayXYZ (m : Nat) : Nat × Nat × Nat := (m / 128, m / 32 % 4, m / 8 % 4)

/-- The module of a tray slot in the tray of module `m`. -/
def inTray (m slot : Nat) : Nat := m / 8 * 8 + slot

/-- The port of the shorter way round a ring of size `n` (R313). -/
def ringPort (n a b plus minus : Nat) : Nat := if (b + n - a) % n ≤ n / 2 then plus else minus

/-- The port by which row or packet `k` to module `m` leaves a module of index `me` (R311, R313). -/
def State.portVia (s : State) (me m k : Nat) : Option Nat :=
  let (x, y, z) := trayXYZ me
  let (dx, dy, dz) := trayXYZ m
  if me = m then none
  else if traySlot me != traySlot m then some (2 * ((traySlot m + 8 - traySlot me) % 8 - 1) + k % 2)
  else if x != dx then some (ringPort s.fab.x x dx 14 15)
  else if y != dy then some (ringPort s.fab.y y dy 16 17)
  else some (ringPort s.fab.z z dz 18 19)

/-- The port by which row `k` to module `m` leaves this module. -/
def State.portTo (s : State) (m k : Nat) : Option Nat := s.portVia s.moduleIndex m k

/-- The port by which row `k` from module `m` reaches this module: a packet crosses to the destination's tray slot first, then moves
in x, y and z, so the last of these it moves in names the port (R311–R313). -/
def State.portFrom (s : State) (m k : Nat) : Option Nat :=
  let me := s.moduleIndex
  let (x, y, z) := trayXYZ m
  let (dx, dy, dz) := trayXYZ me
  if m = me then none
  else if z != dz then some (ringPort s.fab.z z dz 19 18)
  else if y != dy then some (ringPort s.fab.y y dy 17 16)
  else if x != dx then some (ringPort s.fab.x x dx 15 14)
  else some (2 * (7 - (traySlot me + 8 - traySlot m) % 8) + k % 2)

/-! ### Rates (R232, R242) -/

/-- A port that moves `rate` bytes in a tick has some of this tick left. -/
def gateOpen (g : SMap Nat) (now : Nat) (x : Nat × Nat) : Bool := decide (mget g x.1 0 < (now + 1) * x.2)

/-- `n` bytes pass a port in tick `now`. -/
def gateUse (n now : Nat) (g : SMap Nat) (x : Nat × Nat) : SMap Nat :=
  mset g x.1 (max (mget g x.1 0) (now * x.2) + n)

/-- The link of a plane from one router to its neighbour, 1,024 B/tick. -/
def linkPort (plane a b : Nat) : Nat × Nat :=
  let dir := if rtX a < rtX b then 0 else if rtX b < rtX a then 1 else if rtY a < rtY b then 2 else 3
  (4 * (a + 96 * plane) + dir, 1024)

/-- The port by which a packet enters or leaves the mesh at a router: 2,048 B/tick to the cluster, 1,280 B/tick to the stack; the
host link and the Lattice ports use none of them (R232, R310, R530). -/
def endPort (e : MeshEnd) (r : Nat) (out : Bool) : List (Nat × Nat) :=
  match e with
  | .cluster => [(1152 + 2 * r + bnat out, 2048)]
  | .stack => [(1344 + 2 * r + bnat out, 1280)]
  | .host | .lattice => []

/-- Bytes that a stack moves in a tick at its full rate (R242). -/
def stackRate : Nat := 3750

/-- The bond interface of a stack. -/
def stackPort (st : Nat) : Nat × Nat := (1536 + st, stackRate)

/-- The scrub of a stack with no context running, at 1/64 of its rate, in units of 1/64 byte (R250). -/
def scrubPort (st : Nat) : Nat × Nat := (1560 + st, stackRate)

/-- Place of a die in the ring of port switches, die 0–1–3–2–0 (R310). -/
def ringPlace : Nat → Nat
  | 0 => 0
  | 1 => 1
  | 3 => 2
  | _ => 3

/-- The links of the ring of port switches, 512 B/tick in each direction, that a packet takes from one Lattice port to another: the
shorter way, and from a die to the one opposite upwards (R310; DESIGN CHOICE, log entry 115). -/
def ringLinks (p n : Nat) : List (Nat × Nat) :=
  let a := ringPlace (p / 5)
  let m := (ringPlace (n / 5) + 4 - a) % 4
  if m ≤ 2 then (List.range m).map fun i => (1584 + (a + i) % 4, 512) else [(1588 + a, 512)]

/-- `n` bytes can pass these ports in this tick. -/
def State.portsOpen (s : State) (n : Nat) (ps : List (Nat × Nat)) : Bool := n == 0 || ps.all (gateOpen s.gates s.now)

/-- `n` bytes pass these ports in this tick. -/
def State.usePorts (s : State) (n : Nat) (ps : List (Nat × Nat)) : State :=
  if n = 0 then s else { s with gates := ps.foldl (gateUse n s.now) s.gates }

/-! ### Packets (R233–R235, R239) -/

/-- Plane of row `k` of a transfer that cluster `c` issues (R233). -/
def planeOf (c k : Nat) : Nat := (c + k) % 3

/-- Payload bytes of a packet; headers travel beside the links (R232). -/
def Pkt.size (p : Pkt) : Nat :=
  match p.kind with
  | .readReq | .writeAck => 0
  | .readRsp | .writeRow | .kneadRow | .landRow => 512
  | .ctl => 64 * p.rows

/-- Ticks that the end of a path adds to the 3 of its injection or ejection: the crossing to a stack controller, and the two
crossings to the host link (R324, R530). R239 gives injection and ejection together 6 ticks; half for each is a DESIGN CHOICE
(log entry 95). -/
def endTicks : MeshEnd → Nat
  | .cluster | .lattice => 3
  | .stack => 5
  | .host => 11

/-- Put a packet on the mesh: the number it gets, and the state with it. -/
def State.sendNew (s : State) (p : Pkt) : Nat × State :=
  let (i, s1) := s.fresh
  let q : Pkt :=
    { p with
      id := i, path := p.src :: s.route p.src p.dst, place := none, atT := s.now
      ready := s.now + endTicks p.srcEnd + (if p.dstEnd = .lattice then endTicks .lattice else 0) }
  (i, { s1 with pkts := s1.pkts ++ [q] })

/-- Put a packet on the mesh. -/
def State.sendPkt (s : State) (p : Pkt) : State := (s.sendNew p).2

/-- Put a CTL packet on plane 0: from, to, the payload's 64-B units, and the core whose operation it carries (R233). -/
def State.sendCtl (s : State) (src dst units : Nat) (core : Option Nat) : Nat × State :=
  s.sendNew { id := 0, src := src, dst := dst, kind := .ctl, plane := 0, vc := 2, core := core, rows := units }

/-- A packet of the mesh. -/
def State.pkt (s : State) (pid : Nat) : Option Pkt := s.pkts.find? fun p => p.id == pid

/-- Rewrite a packet. -/
def State.onPkt (s : State) (pid : Nat) (f : Pkt → Pkt) : State :=
  { s with pkts := s.pkts.map fun p => if p.id = pid then f p else p }

/-- Take a packet off the mesh. -/
def State.dropPkt (s : State) (pid : Nat) : State := { s with pkts := s.pkts.filter fun p => p.id != pid }

/-- Only the packets that `p` picks stay on the mesh and in the queues of the stacks. -/
def State.keepPkts (s : State) (p : Pkt → Bool) : State :=
  let ids := (s.pkts.filter p).map (·.id)
  { s with
    pkts := s.pkts.filter p
    drams := s.drams.map fun e => (e.1, { e.2 with reqs := e.2.reqs.filter ids.contains }) }

/-- An access that a bank owes to a host bulk transfer (R440). -/
def State.hostAcc (s : State) (a : BankAcc) : Bool :=
  match a.work with
  | .drawRead pid | .windowWrite pid _ => s.pkts.any fun p => p.id == pid && p.bulk.isSome
  | _ => false

/-- Two packets share plane, virtual channel and pair of routers (R234). -/
def sameFlow (p q : Pkt) : Bool := p.plane == q.plane && p.vc == q.vc && p.src == q.src && p.dst == q.dst

/-- An earlier packet of the same flow stands no further on the path, so that this one cannot move (R234). -/
def State.flowBlocked (s : State) (p : Pkt) : Bool :=
  (s.pkts.takeWhile fun q => q.id != p.id).any fun q => sameFlow p q && !q.taken && decide (p.path.length ≤ q.path.length)

/-- A packet has left its last router, is first of its flow there, and nothing has it in hand. -/
def State.delivered (s : State) (p : Pkt) : Bool :=
  p.path.isEmpty && decide (p.ready ≤ s.now) && !p.taken && !s.flowBlocked p

/-- The packet of a CTL operation has come, or the operation needs none. -/
def State.arrived (s : State) (pid : Option Nat) : Bool :=
  match pid with
  | none => true
  | some i =>
    match s.pkt i with
    | some p => s.delivered p
    | none => true

/-- The packet of a CTL operation has been used. -/
def State.consume (s : State) (pid : Option Nat) : State :=
  match pid with
  | some i => s.dropPkt i
  | none => s

/-- The station that issued the transfer of a packet. -/
def pktStation : PktKind → BitVec 3
  | .readReq | .readRsp => stCode .fetch
  | .writeRow | .writeAck => stCode .store
  | .kneadRow | .landRow => stCode .knead
  | .ctl => 0

/-- A transfer in flight. -/
def State.xfer (s : State) (id : Nat) : Option Xfer := s.xfers.find? fun x => x.id == id

/-- Rewrite a transfer. -/
def State.onXfer (s : State) (id : Nat) (f : Xfer → Xfer) : State :=
  { s with xfers := s.xfers.map fun x => if x.id = id then f x else x }

/-- The command of a transfer and the word address of its instruction. -/
def State.xferCmd (s : State) (core id : Nat) : Cmd × Nat :=
  match s.xfer id with
  | some x => (x.cmd, x.pcw)
  | none =>
    match (s.core core).ks.find? fun x => x.id == id with
    | some x => (x.cmd, x.pcw)
    | none => (0, 0)

/-- ECC_UNCORRECTABLE on the core of a transfer, with the module address of the row (R79, R205, R235, R247). -/
def xferFault (core id : Nat) (st : BitVec 3) (addr : Nat) (s : State) : State :=
  let (cmd, pcw) := s.xferCmd core id
  coreFault core { code := 0x0C, station := st, layer := cmdLayer cmd, op := cmdOp cmd,
                   pcWord := BitVec.ofNat 16 pcw, detail := BitVec.ofNat 64 (addr % 2 ^ 42), cmd := cmd } s

/-- HOST_UNCORR: an uncorrectable row of a BULK_READ (R440, R502). -/
def hostUncorr (a : Nat) (s : State) : State :=
  crumb { severity := 3, source := 0, code := 0x0302, detail := leBytes 8 a } s

/-- A row of a host bulk transfer is done, with what was read of it. -/
def bulkGot (id k : Nat) (data : Bytes) (s : State) : State :=
  s.onHost fun h => { h with jobs := h.jobs.map fun j => if j.id = id then { j with got := mset j.got k data } else j }

/-- A row of a host bulk transfer is lost to an uncorrectable error: a row that was to be read counts as 512 zero bytes, with its
record (R440); one that was to be written is done with, unwritten (DESIGN CHOICE, log entry 96). -/
def bulkLost (id : Nat) (p : Pkt) (s : State) : State :=
  bulkGot id p.row (List.replicate 512 0)
    (if p.kind = .readReq || p.kind = .readRsp then hostUncorr p.addr s else s)

/-- Rewrite the counters of a router. -/
def State.onRouter (s : State) (r : Nat) (f : Router → Router) : State := { s with routers := mmod s.routers r {} f }

/-- The rows that `p` picks leave their landing buffers: a Lattice port owes its partner a credit for each (R292, R307). -/
def leaveLanding (p : Landed → Bool) (s : State) : State :=
  ((s.fab.landed.filter p).foldl (fun s l =>
    match l.place with
    | .port n => s.onPort n fun q => { q with owed := q.owed + 1 }
    | .router _ => s) s).onFab fun f => { f with landed := f.landed.filter fun l => !p l }

/-- A packet is discarded: the core whose transfer it belonged to faults, with the row's module address; a packet that carries no
row of the address map has none, and the detail is then a free value (R235, log entries 2 and 97). What a CTL packet carried is
lost with it. -/
def lostPkt (p : Pkt) (s : State) : State :=
  let s1 := (s.dropPkt p.id).onSync fun y =>
    { y with sigs := y.sigs.filter fun x => x.pkt != some p.id, msgs := y.msgs.filter fun m => m.pkt != p.id }
  let s1 := if p.kind = .landRow then leaveLanding (fun l => l.id == p.xfer) s1 else s1
  match p.bulk, p.core with
  | some id, _ => bulkLost id p s1
  | none, some k =>
    if p.kind = .ctl || (p.kind = .kneadRow && p.addr = 0) then
      let (w, s2) := s1.drawFree
      xferFault k p.xfer (pktStation p.kind) w.toNat s2
    else xferFault k p.xfer (pktStation p.kind) p.addr s1
  | none, none => s1

/-- A packet that has passed its last router joins the requests of the stack controller above it, or the queue of the Lattice
port it leaves by. -/
def atController (p : Pkt) (s : State) : State :=
  match p.dstEnd, p.lat with
  | .stack, _ => s.onStack (stackOf p.addr) fun t => { t with reqs := t.reqs ++ [p.id] }
  | .lattice, some (port, h) =>
    (s.dropPkt p.id).onPort port fun q =>
      { q with queue := q.queue ++ [if p.kind = .ctl then .sig h else .row h p.data] }
  | _, _ => s

/-- The ring of a receive endpoint lacks the room of R279 for a message, when the tick of R283 has come: its units stand in the
mesh (R281). -/
def heldMsg (room : Msg → Bool) (s : State) (p : Pkt) : Bool :=
  p.kind == .ctl && p.path.isEmpty && s.sync.msgs.any fun m => m.pkt == p.id && m.wr.isNone && !room m

/-- The links of a list of routers. -/
def linksOf : List Nat → List (Nat × Nat)
  | a :: b :: rest => (a, b) :: linksOf (b :: rest)
  | _ => []

/-- The units of a blocked message wait on its path, and no other CTL packet enters a link that they hold (R281, R284). -/
def State.pathHeld (s : State) (room : Msg → Bool) (p : Pkt) (r : Nat) : Bool :=
  match p.kind, p.place with
  | .ctl, some a => s.pkts.any fun q => q.id != p.id && heldMsg room s q && (linksOf (q.src :: s.route q.src q.dst)).contains (a, r)
  | _, _ => false

/-- The ports that a packet passes on its arrival at a router (R232). -/
def Pkt.ports (p : Pkt) (r : Nat) (last : Bool) : List (Nat × Nat) :=
  (match p.place with
    | none => endPort p.srcEnd r false
    | some a => [linkPort p.plane a r]) ++ (if last then endPort p.dstEnd r true else [])

/-- Ticks from a packet's arrival at a router to its arrival at the next, or to its end (R239). -/
def hopTicks (p : Pkt) (r : Nat) : List Nat → Nat
  | [] => if p.dstEnd = .lattice then 0 else endTicks p.dstEnd
  | b :: _ => 2 + 4 * crossings [r, b]

/-! ### Rooms of receive rings (R279, R283) -/

/-- Fields of `CHAN.TXe.CFG` and `CHAN.RXe.CFG` (R290). -/
def chEnable (w : Word) : Bool := w.getLsbD 63
def chPeer (w : Word) : Nat := bits w.toNat 32 11
def chPeerEp (w : Word) : Nat := bits w.toNat 24 3
def chBase (w : Word) : Nat := bits w.toNat 12 12
def chSize (w : Word) : Nat := bits w.toNat 0 12

/-- A send endpoint. -/
def Core.txEp (c : Core) (e : Nat) : TxEp := mget c.tx e {}
/-- A receive endpoint. -/
def Core.rxEp (c : Core) (e : Nat) : RxEp := mget c.rx e {}
/-- Rewrite a send endpoint. -/
def Core.onTx (e : Nat) (f : TxEp → TxEp) (c : Core) : Core := { c with tx := mmod c.tx e {} f }
/-- Rewrite a receive endpoint. -/
def Core.onRx (e : Nat) (f : RxEp → RxEp) (c : Core) : Core := { c with rx := mmod c.rx e {} f }

/-- `USED`: units from HEAD to TAIL. -/
def RxEp.used (r : RxEp) : Nat := r.msgs.foldl (fun a m => a + m.1) 0

/-- Units that a message may not use in tick `t`: those used, and those freed too lately (R279, R283). -/
def RxEp.taken (r : RxEp) (t : Nat) : Nat :=
  r.used + r.freed.foldl (fun a e => if t < e.2 then a + e.1 else a) 0

/-- Every unit that a message of `n` units takes in tick `t`, and every unit that it skips, is free (R279). The units that are not
free lie before TAIL: `taken` of them, around the ring. A message that wraps may use a unit that it also skips only in a ring
that holds nothing. -/
def ringRoom (r : RxEp) (n t : Nat) : Bool :=
  let size := chSize r.cfg
  if n ≤ size - r.tail then decide (r.taken t + n ≤ size)
  else decide (r.taken t + (size - r.tail) ≤ size) && decide (n ≤ size) &&
    (r.taken t == 0 || decide (r.taken t + (size - r.tail) + n ≤ size))

/-- The ring of a message's receiver has room for it now. -/
def State.msgRoom (s : State) (m : Msg) : Bool :=
  ringRoom ((s.core m.dst).rxEp m.dstEp.toNat) m.n (s.ticks (s.clusterOf m.dst))

/-- A packet arrives at the next router of its path, no sooner than R239 lets it, as far as the ports have room: it is corrected,
discarded with a fault of its core, or goes on (R232, R234, R235, R284). -/
def routerArrival (pid : Nat) (ecc : Ecc) (s : State) : State :=
  match s.pkt pid with
  | none => s
  | some p =>
    match p.path with
    | [] => s
    | r :: rest =>
      let ps := p.ports r rest.isEmpty
      if s.now < p.ready || s.flowBlocked p || s.pathHeld s.msgRoom p r || !s.portsOpen p.size ps then s
      else
        let s0 := s.usePorts p.size ps
        match ecc with
        | .uncorrectable => lostPkt p (s0.onRouter r fun x => { x with uncorr := satAdd 0xFFFF x.uncorr 1 })
        | _ =>
          let s1 : State := if ecc = .corrected then
              { (s0.onRouter r fun x => { x with corr := satAdd max32 x.corr 1 }) with
                mon := { s.mon with meshSeen := s.mon.meshSeen + 1 } }
            else s0
          let q : Pkt := { p with path := rest, place := some r, atT := s.now, ready := s.now + hopTicks p r rest }
          let s2 := s1.onPkt pid fun _ => q
          if rest.isEmpty then atController q s2 else s2

def execRouterPacketArrival (pid : Nat) (ecc : Ecc) (s : State) : Host.Outcome State Fault Refusal :=
  .next (routerArrival pid ecc s)

/-! ### Stacks (R242–R250) -/

/-- Record an error of a stack: the count, and the row of the first error since the last read, the lowest address of its
tick (R259). -/
def Stack.err (uncorr : Bool) (addr now : Nat) (t : Stack) : Stack :=
  let t1 := if uncorr then { t with uncorr := satAdd 0xFFFF t.uncorr 1 } else { t with corr := satAdd max32 t.corr 1 }
  if !t.addrV || (t.addrT = now && addr < t.addr) then
    { t1 with addrV := true, addrU := uncorr, addr := addr, addrT := now }
  else t1

/-- The request a controller takes next: the oldest, or a write of the same row that reached it in the same tick (R245). -/
def State.nextReq (s : State) (st : Nat) : Option Pkt :=
  let ps := (s.stack st).reqs.filterMap s.pkt
  match ps with
  | [] => none
  | f :: _ =>
    match ps.find? fun q => q.kind == .writeRow && q.addr == f.addr && q.ready == f.ready with
    | some q => some q
    | none => some f

/-- The answer to a packet goes back from where it ended (R236). -/
def answer (p : Pkt) (kind : PktKind) (data : Bytes) (s : State) : State :=
  s.sendPkt { p with kind := kind, src := p.dst, dst := p.src, srcEnd := p.dstEnd, dstEnd := p.srcEnd, vc := 1, data := data
                     taken := false }

/-- What becomes of a row that is read for a packet with its check's outcome: it goes back; an uncorrectable one sends no data to a
core, whose row stays pending, and zeros to the host (R247, R440). -/
def answerRead (p : Pkt) (st : BitVec 3) (data : Bytes) (bad : Bool) (s : State) : State :=
  if !bad then answer p .readRsp data s
  else
    match p.bulk, p.core with
    | some _, _ => answer p .readRsp (List.replicate 512 0) (hostUncorr p.addr s)
    | none, some k => (xferFault k p.xfer st p.addr s).onXfer p.xfer fun x => { x with dead := x.dead ++ [p.row] }
    | none, none => s

/-- A stack controller reads or writes one row, at the rate of its interface (R242, R245, R247). A stack takes no access while a
maintenance slot is open for it (R249), a refresh is in progress (R246) or it refreshes itself (R382). -/
def stackRequest (st : Nat) (ecc : Ecc) (s : State) : State :=
  let t := s.stack st
  if !t.slots.isEmpty || t.selfRef || s.now < t.refresh || !s.portsOpen 512 [stackPort st] then s
  else
    match s.nextReq st with
    | none => s
    | some p =>
      if s.now ≤ p.ready then s
      else
        let s0 := ((s.dropPkt p.id).onStack st fun t => { t with reqs := t.reqs.filter (· != p.id) }).usePorts 512 [stackPort st]
        match p.kind with
        | .writeRow => answer p .writeAck [] { s0 with mem := memWrite s0.mem p.addr p.data }
        | _ =>
          let data := memBytes s0.mem p.addr 512
          let err := fun (u : Bool) (s : State) => s.onStack st (Stack.err u p.addr s.now)
          match ecc with
          | .clean => answerRead p (pktStation p.kind) data false s0
          | .corrected =>
            let s1 : State := { s0 with mon := { s0.mon with eccSeen := s0.mon.eccSeen + 1 } }
            answerRead p (pktStation p.kind) data false
              ((err false s1).onXfer p.xfer fun x => { x with replay := x.replay ++ [p.row] })
          | .uncorrectable => answerRead p (pktStation p.kind) data true (err true s0)

def execStackRequest (st : Nat) (ecc : Ecc) (s : State) : Host.Outcome State Fault Refusal :=
  .next (stackRequest st ecc s)

/-- A refresh: the stack takes no access in this tick. How long it delays one, at most 96 ticks, the controller's next
request shows (R246). -/
def execDramRefresh (st : Nat) (s : State) : Host.Outcome State Fault Refusal :=
  .next (if (s.stack st).powered && !(s.stack st).selfRef then
    s.onStack st fun t => { t with refresh := s.now + 1 }
  else s)

/-- The scrub of a stack advances by `n` bytes, to the row in which it then stands; at the end of the stack a pass is complete (R249,
R250). -/
def Stack.advance (n : Nat) (t : Stack) : Stack :=
  { t with passes := satAdd max32 t.passes ((t.pos + n) / stackBytes), pos := (t.pos + n) % stackBytes / 512 * 512
           wrapped := t.wrapped || decide (stackBytes ≤ t.pos + n) }

/-- How far the scrub of open slots stands at the beginning of tick `now`, counted on from the start of the pass: it moves on at full
rate (R249). -/
def Stack.slotPos (now : Nat) (t : Stack) : Nat := t.pos + (now - t.slotAt) * stackRate

/-- The scrub of a stack as it stands in tick `now` (R249). -/
def Stack.scrubbed (now : Nat) (t : Stack) : Stack :=
  if t.slots.isEmpty then t else t.advance ((now - t.slotAt) * stackRate)

/-- The next row that the scrub of open slots checks in tick `now`, if it has not checked all that its rate covers in this tick: of
the rows before them it has nothing to tell (R249). -/
def Stack.slotRow (now : Nat) (t : Stack) : Option Nat :=
  let r := max t.seen ((t.slotPos now + 511) / 512 * 512)
  if r < t.slotPos (now + 1) then some r else none

/-- The current phase is one that a slot names: after an even number of wide releases a Bake, after an odd one a Knead
(R531). -/
def slotPhase (s : State) (m : MaintSlot) : Bool :=
  let w := s.curCtx.w
  (w % 2 == 1) == m.knead && (w / 2) % m.period == m.residue

/-- A maintenance slot opens at its start tick in every phase it names (R249). -/
def maintOpen (i : Nat) (s : State) : State :=
  match s.cur, s.curCtx.bin.maint[i]? with
  | some _, some m =>
    let start := s.proof.phaseStart + m.start
    if slotPhase s m && start ≤ s.now && s.now < start + m.length then
      (List.range 24).foldl (fun s st =>
        if m.mask.getLsbD st && !(s.stack st).slots.any (fun e => e.1 == i) then
          s.onStack st fun t =>
            { t with slots := t.slots ++ [(i, start + m.length)], slotAt := if t.slots.isEmpty then s.now else t.slotAt
                     seen := if t.slots.isEmpty then 0 else t.seen }
        else s) s
    else s
  | _, _ => s

def execMaintSlotOpen (i : Nat) (s : State) : Host.Outcome State Fault Refusal := .next (maintOpen i s)

/-- A slot closes when its length is over; the stacks it alone held open have scrubbed for as long at full rate, and
their waiting accesses go on (R249). -/
def maintClose (i : Nat) (s : State) : State :=
  (List.range 24).foldl (fun s st =>
    let t := s.stack st
    if t.slots.any (fun e => e.1 == i && decide (e.2 ≤ s.now)) then
      let rest := t.slots.filter fun e => e.1 != i
      if rest.isEmpty then s.onStack st fun t => { t.scrubbed s.now with slots := [] }
      else s.onStack st fun t => { t with slots := rest }
    else s) s

def execMaintSlotClose (i : Nat) (s : State) : Host.Outcome State Fault Refusal := .next (maintClose i s)

/-- What a scrub finds in a row: a correctable error is corrected, written back and counted; an uncorrectable one is counted and
writes an ERROR record with the row's module address (R249, R250, R259). -/
def scrubFound (st addr : Nat) (ecc : Ecc) (s : State) : State :=
  match ecc with
  | .clean => s
  | .corrected => s.onStack st (Stack.err false addr s.now)
  | .uncorrectable =>
    crumb { severity := 3, source := 4, code := 0x0301, site := BitVec.ofNat 16 st, detail := leBytes 8 addr }
      (s.onStack st (Stack.err true addr s.now))

/-- A scrub takes its next row. In an open slot the scrub moves on by itself, and its rows of this tick follow one another. With no
context running the scrub moves on by one row, no faster than 1/64 of the stack's rate, or at full rate while a SCRUB operation
runs, and only while no other access waits (R249, R250, R396). -/
def scrubStep (st : Nat) (ecc : Ecc) (s : State) : State :=
  let t := s.stack st
  if !t.powered || !t.trained || t.selfRef || 24 ≤ st then s
  else if !t.slots.isEmpty then
    match t.slotRow s.now with
    | some r => scrubFound st (addrOf st (r % stackBytes)) ecc (s.onStack st fun t => { t with seen := r + 512 })
    | none => s
  else
    let full := s.host.ops.any fun o => bits o.id.toNat 24 8 == 2
    let n := if full then 512 else 512 * 64
    if s.cur.isSome || !t.reqs.isEmpty || !s.portsOpen n [scrubPort st] then s
    else scrubFound st (addrOf st t.pos) ecc ((s.usePorts n [scrubPort st]).onStack st fun t => t.advance 512)

def execBackgroundScrub (st : Nat) (ecc : Ecc) (s : State) : Host.Outcome State Fault Refusal :=
  .next (scrubStep st ecc s)

end Sys2Proof.Machine
end

