-- ==== Sys2Proof/Machine/Clm.lean ====
section
/-! DEFINITION. Cluster memory: rings, the engine's bank cycles, collisions, and the FETCH and STORE commands
(R203–R226, R244). Bank cycles of the engine are taken at their ticks by `engineRun`, which the block's clock and the end
of a Hold call. -/

namespace Sys2Proof.Machine

/-! ### Fields of a FETCH or STORE command (R224) -/

def rgNo (c : Cmd) : Nat := cmdBits c 74 6
def rgForm (c : Cmd) : Bool := c.getLsbD 73
def rgRows (c : Cmd) : Nat := cmdBits c 66 7
def rgOff (c : Cmd) : Nat := cmdBits c 51 15
def rgAddr (c : Cmd) : Nat := cmdBits c 0 42

/-! ### Rings (R211–R213) -/

/-- A ring of a cluster. -/
def Cluster.ring (x : Cluster) (n : Nat) : Ring := mget x.rings n {}

/-- Rewrite a ring of a cluster. -/
def Cluster.onRing (n : Nat) (f : Ring → Ring) (x : Cluster) : Cluster := { x with rings := mmod x.rings n {} f }

/-- Cluster index of a core (R212). -/
def State.clIndex (s : State) (k : Nat) : Nat := (s.coresOf (s.clusterOf k)).idxOf k

/-- The readers of a ring. -/
def Ring.readerList (r : Ring) : List Nat := (List.range 16).filter fun j => r.readers.getLsbD j

/-- Head of a reader. -/
def Ring.head (r : Ring) (j : Nat) : Nat := mget r.heads j 0

/-- The head of a reader as far as freeing goes: rows that a sequential WBACK or KSEND has read are not free before the
tick that R215 or R296 gives. -/
def Ring.freedHead (r : Ring) (t j : Nat) : Nat :=
  r.defer.foldl (fun a e => if e.2.1 = j && (e.2.2.2 = 0 || t < e.2.2.2) then min a e.2.2.1 else a) (r.head j)

/-- Head of the reader farthest behind, in island tick `t`; 0 when no core is a reader (R212, R231). -/
def Ring.slowest (r : Ring) (t : Nat) : Nat :=
  match r.readerList.map (r.freedHead t) with
  | [] => 0
  | h :: hs => hs.foldl min h

/-- Reserved rows of a FIFO ring; the size of any other (R212, R213). -/
def Ring.reserved (r : Ring) (t : Nat) : Nat := if r.mode = 1 then r.tail - r.slowest t else r.size

/-- Rows of the cluster memory that `n` ring rows from offset `first` on take, modulo the size (R212, R213). -/
def Ring.rows (r : Ring) (first n : Nat) : List Nat := (List.range n).map fun i => r.base + (first + i) % r.size

/-- How an access to a ring fails (R212, R213). -/
inductive RingErr where
  | overrun | underrun | opcode
  deriving DecidableEq, Repr

/-- A read of `n` rows by the reader of index `j`: the offset of its first row and the ring after it (R212, R213). -/
def Ring.read (r : Ring) (j : Nat) (form : Bool) (off n : Nat) : Except RingErr (Nat × Ring) :=
  if r.mode = 0 then .error .opcode
  else if r.mode = 1 then
    if !r.readers.getLsbD j then .error .opcode
    else if form then
      if r.tail < r.head j + off + n then .error .underrun else .ok (r.head j + off, r)
    else if r.tail < r.head j + n then .error .underrun
    else .ok (r.head j, { r with heads := mset r.heads j (r.head j + n) })
  else if form then if r.size ≤ off then .error .overrun else .ok (off, r)
  else .ok (r.head j, { r with heads := mset r.heads j (r.head j + n) })

/-- A write of `n` rows in island tick `t`: the offset of its first row and the ring after it (R212, R213). -/
def Ring.append (r : Ring) (t : Nat) (form : Bool) (off n : Nat) : Except RingErr (Nat × Ring) :=
  if r.mode = 0 then .error .opcode
  else if r.mode = 1 then
    if form then .error .opcode
    else if r.size - r.reserved t < n then .error .overrun
    else .ok (r.tail, { r with tail := r.tail + n })
  else if form then if r.size ≤ off then .error .overrun else .ok (off, r)
  else .ok (r.tail, { r with tail := r.tail + n })

/-- The fault of a failed ring access (R79, R212). -/
def ringFault (k : Nat) (st : Station) (a : Acc) (n : Nat) (e : RingErr) (s : State) : State :=
  let detail := packWord [(s.clusterOf k, 8), (n, 0)]
  match e with
  | .overrun => stationFault k st a 0x03 detail s
  | .underrun => stationFault k st a 0x04 detail s
  | .opcode => stationFault k st a 0x01 (illegal 0x03 (cmdOpcode a.cmd)) s

/-! ### What is known when a command is accepted (R223–R225) -/

/-- Input links of a FETCH or STORE command. -/
def ringIns (st : Station) (c : Cmd) : List Nat :=
  if st = .store && (cmdOpcode c = 1 || cmdOpcode c = 2) then [cmdIn c] else []

/-- Output links of a FETCH or STORE command. -/
def ringOuts (st : Station) (c : Cmd) : List Nat := if st = .fetch && cmdOpcode c = 1 then [cmdOut c] else []

/-- The checks of R225; `true` lets the command pass. -/
def ringChecks (st : Station) (c : Core) (x : Cluster) (cmd : Cmd) : Bool :=
  let r := x.ring (rgNo cmd)
  let rowsOk := decide (1 ≤ rgRows cmd) && decide (rgRows cmd ≤ 64)
  let formOk := !(rgForm cmd && r.mode == 1)
  r.mode != 0 &&
    match st, cmdOpcode cmd with
    | .fetch, 1 => true
    | .fetch, 2 => rowsOk && formOk
    | .fetch, 3 => decide (rgRows cmd ≤ 64)
    | .store, 1 => formOk
    | .store, 2 => r.mode == 3 && linkSize (c.link (cmdIn cmd)).cfg == 4096
    | .store, 3 => rowsOk && formOk
    | _, _ => false

/-! ### Reservation of bank cycles (R206–R209, R219) -/

/-- Bank of a row (R203). -/
def bankOf (r : Nat) : Nat := r % 48

/-- The bank of a row is free of reserved cycles in tick `t` and the next. -/
def cycleFree (rs : List Resv) (row t : Nat) : Bool :=
  rs.all fun x => x.joined || bankOf x.row != bankOf row || decide (x.start + 2 ≤ t) || decide (t + 2 ≤ x.start)

/-- No lock of the row overlaps the ticks `t` to `t + n − 1` (R219). -/
def rowUnlocked (rs : List Resv) (row t n : Nat) : Bool :=
  rs.all fun x => x.row != row || x.lock == 0 || decide (x.start + x.lock ≤ t) || decide (t + n ≤ x.start)

/-- No reserved cycle of the row overlaps the ticks `t` to `t + n − 1`; a read that joined has none of its own (R209, R219). -/
def rowFree (rs : List Resv) (row t n : Nat) : Bool :=
  rs.all fun x => x.row != row || x.joined || decide (x.start + 2 ≤ t) || decide (t + n ≤ x.start)

/-- The first of the next numbers that satisfies a test. -/
def firstFit (p : Nat → Bool) : Nat → Nat → Nat
  | 0, t => t
  | n + 1, t => if p t then t else firstFit p n (t + 1)

/-- How far a search for a free cycle can have to go: each reserved cycle blocks no more than eight ticks. -/
def fitFuel (rs : List Resv) : Nat := 10 * (rs.length + 2)

/-- Reserve a read or a write, given with its nominal start: the cycle it takes, and its shift (R208, R209). -/
def reserve (rs : List Resv) (x : Resv) : Resv × Nat :=
  match (if x.kind = .read then
      rs.find? fun h => h.kind == .read && !h.joined && h.row == x.row && decide (h.start ≤ x.start) &&
        decide (x.start < h.start + 2)
    else none) with
  | some h => ({ x with joined := true, ecc := h.ecc, due := x.start + 2 }, 0)
  | none =>
    let t := firstFit (fun t => cycleFree rs x.row t && rowUnlocked rs x.row t 2) (fitFuel rs) x.start
    ({ x with start := t, due := if x.kind = .read then t + 2 else x.start + 2 }, t - x.start)

/-- Reserve the read and the write of one row of ACC, `d` ticks apart; they move together, and lock the row (R208, R219). -/
def reserveAcc (rs : List Resv) (x : Resv) (d : Nat) : List Resv × Nat :=
  let t := firstFit (fun t => cycleFree rs x.row t && cycleFree rs x.row (t + d) && rowUnlocked rs x.row t (d + 2) &&
    rowFree rs x.row t (d + 2)) (fitFuel rs) x.start
  ([{ x with kind := .accRead, start := t, lock := d + 2, due := t + 2 },
    { x with kind := .accWrite, start := t + d, due := x.start + d + 2 }], t - x.start)

/-- The larger of two shifts, each with the nominal start of its row; the first of equal ones. -/
def maxShift (a b : Nat × Nat) : Nat × Nat := if a.1 < b.1 then b else a

/-- Reserve rows one at a time: the new reservations, and the largest shift with the nominal start of its row. -/
def reserveAll (rs : List Resv) : List Resv → List Resv × Nat × Nat
  | [] => ([], 0, 0)
  | x :: xs =>
    let (y, d) := reserve rs x
    let (ys, m) := reserveAll (rs ++ [y]) xs
    (y :: ys, maxShift (d, x.start) m)

/-- Reserve the rows of an ACC one at a time. -/
def reserveAccs (d : Nat) (rs : List Resv) : List Resv → List Resv × Nat × Nat
  | [] => ([], 0, 0)
  | x :: xs =>
    let (ys, e) := reserveAcc rs x d
    let (zs, m) := reserveAccs d (rs ++ ys) xs
    (ys ++ zs, maxShift (e, x.start) m)

/-- The tick in which a row is written moves by the largest shift among the rows of its command (R208). -/
def Resv.shifted (d : Nat) (x : Resv) : Resv :=
  if x.kind == .write || x.kind == .accWrite then { x with due := max (x.start + 2) (x.due + d) } else x

/-! ### Bank cycles -/

/-- Contents of a row. -/
def State.row (s : State) (c r : Nat) : Bytes := memBytes s.mem (rowAddr c r) 512

/-- Write a row. -/
def State.putRow (s : State) (c r : Nat) (data : Bytes) : State := { s with mem := memWrite s.mem (rowAddr c r) data }

/-- The station of an engine cycle. -/
def engStation : EngKind → Station
  | .read => .fetch
  | _ => .store

/-- A fault found in an engine cycle. -/
def engFault (x : Resv) (code : BitVec 8) (detail : Nat) (s : State) : State :=
  coreFault x.core { code := code, station := stCode (engStation x.kind), layer := cmdLayer x.cmd, op := cmdOp x.cmd,
                     pcWord := BitVec.ofNat 16 x.pcw, detail := BitVec.ofNat 64 (detail % 2 ^ 42), cmd := x.cmd } s

/-- What a DMA-path access does to its row: true for a write. -/
def workWrites : BankWork → Bool
  | .fillRow .. | .windowWrite .. | .landing .. => true
  | .drawRead _ | .wbackRead .. | .kneadRead .. => false

/-- Count a collision at a row: the engine access is a write or a read (R221, R228); with collision check it faults. -/
def collide (c : Nat) (x : Resv) (n : Nat) (s : State) : State :=
  if n = 0 || x.joined then s
  else
    let s1 := s.onCluster c fun y =>
      let y1 := { y with collCount := satAdd max32 y.collCount n }
      if y.collValid then y1
      else { y1 with collValid := true, collKind := x.kind != .read && x.kind != .accRead, collRow := x.row }
    if (s.cluster c).collCheck then engFault x 0x0D (rowAddr c x.row) s1 else s1

/-- An engine cycle changes its row. -/
def engWrites (x : Resv) : Bool := x.kind == .write || x.kind == .accWrite

/-- The DMA-path accesses of the opposite kind that are at a row in real tick `now` (R221). -/
def waitingOpposite (now : Nat) (y : Cluster) (x : Resv) : Nat :=
  (y.bankQ.filter fun a => a.row == x.row && decide (a.atT ≤ now) && workWrites a.work != engWrites x).length

/-- Engine cycles of the opposite kind that start on a row in this very tick (R221). -/
def startedOpposite (s : State) (c row : Nat) (writes : Bool) : List Resv :=
  if s.frozen c then []
  else (s.cluster c).resv.filter fun x =>
    x.done && !x.joined && x.row == row && x.start == s.ticks c && engWrites x != writes

/-- Insert an access behind those that arrive no later (R207). -/
def insertAcc (a : BankAcc) : List BankAcc → List BankAcc
  | [] => [a]
  | b :: bs => if a.atT < b.atT then a :: b :: bs else b :: insertAcc a bs

/-- An access joins the queue of a cluster's banks, to arrive in real tick `t`. One that arrives in the tick in which an engine
access of the opposite kind to its row has started collides with it (R207, R221). -/
def queueAt (t c row : Nat) (work : BankWork) (s : State) : State :=
  let s1 := s.onCluster c fun y => { y with bankQ := insertAcc ⟨row, t, work⟩ y.bankQ }
  if t = s.now then (startedOpposite s c row (workWrites work)).foldl (fun s x => collide c x 1 s) s1 else s1

/-- An access joins the queue of a cluster's banks now. -/
def queueAccess (c row : Nat) (work : BankWork) (s : State) : State := queueAt s.now c row work s

/-- Count an outcome of the corrector (R205). -/
def countEcc (c : Nat) (e : Ecc) (s : State) : State :=
  match e with
  | .clean => s
  | .corrected => s.onCluster c fun y => { y with eccCorr := satAdd max32 y.eccCorr 1 }
  | .uncorrectable => s.onCluster c fun y => { y with eccUncorr := satAdd 0xFFFF y.eccUncorr 1 }

/-- A row read for a tile of FETCH goes to its place (R226). -/
def tileRow (x : Resv) (data : Bytes) (c : Core) : Core :=
  let mine := fun (t : OutTile) => t.st == .fetch && t.link == x.link && t.slot == x.slot && t.missing != 0
  let put := fun (t : OutTile) =>
    { t with data := t.data.take (512 * x.place) ++ data ++ t.data.drop (512 * (x.place + 1)), missing := t.missing - 1 }
  { c with stn := { c.stn with outs := mapFirst mine put c.stn.outs } }

/-- The FP32 sums of two rows (R219). -/
def addRows (m x : Bytes) : Bytes :=
  (List.range 128).flatMap fun i =>
    leBytes 4 (fadd (BitVec.ofNat 32 (field m (4 * i) 4)) (BitVec.ofNat 32 (field x (4 * i) 4))).toNat

/-- The cause of the Hold for a pending row: that of the transfer that is late (R214, R247, R294, R328). A Knead row is delayed by
a retry when a frame that carried it was replayed, or while the port that it comes by awaits a replay or takes one in: every frame that
follows a lost one is replayed with it (R308). -/
def lateCause (s : State) (c : Nat) (p : Pend) : BitVec 4 :=
  if p.knead then
    match (s.cluster c).krecvs.find? fun r => r.id == p.owner with
    | some r =>
      let k := r.rowsNo.idxOf p.row
      let mine := fun (l : Landed) =>
        l.replayed && l.dcluster == c && l.srcmod == r.srcmod && l.tag == r.tag && l.row == k
      let awaits := match s.portFrom r.srcmod k with
        | some q => (s.port q).waitFor.isSome || (s.port q).replays != 0
        | none => false
      if s.fab.landed.any mine || awaits then causeRetry else causeKnead
    | none => causeKnead
  else
    match s.xfer p.owner with
    | some x =>
      if x.replay.any fun i => x.rowsNo[i]? == some p.row then causeEcc else causeMesh
    | none => causeMesh

/-- The pending mark that an engine cycle meets, if its core still works; the write of an ACC belongs to an access that has begun. -/
def meets (c : Nat) (s : State) (x : Resv) : Option Pend :=
  if stationsOn x.core s && x.kind != .accWrite then (s.cluster c).pend.find? fun p => p.row == x.row else none

/-- Rewrite the first reservation that equals `x`. -/
def onResv (c : Nat) (x : Resv) (f : Resv → Resv) (s : State) : State :=
  s.onCluster c fun y => { y with resv := mapFirst (fun z => decide (z = x)) f y.resv }

/-- An engine cycle that meets no pending row begins in its tick: it reads its row, or brings what it writes. A core that has
stopped has abandoned its cycles (R81). -/
def engineCycle (c : Nat) (x : Resv) (s : State) : State :=
  if !stationsOn x.core s then onResv c x (fun z => { z with done := true, moved := true }) s
  else
    let old := s.row c x.row
    let data := if x.kind = .read then old else if x.kind = .accRead then [] else
      if x.kind = .accWrite then addRows old x.data else x.data
    let s1 := collide c x (waitingOpposite s.now (s.cluster c) x) (onResv c x (fun z => { z with done := true, data := data }) s)
    if x.joined then s1
    else charge (some c) 11 (some x.core) (stCode (engStation x.kind)) (cmdLayer x.cmd) (cmdOp x.cmd) s1

/-- What an engine cycle moves has arrived: a row read goes to its slot, unless it cannot be corrected; a row written shows
(R205, R226). -/
def engineMove (c : Nat) (x : Resv) (s : State) : State :=
  let s1 := onResv c x (fun z => { z with moved := true }) s
  let s2 := if x.joined || engWrites x then s1 else countEcc c x.ecc s1
  match x.kind with
  | .read =>
    if !stationsOn x.core s then s2
    else if x.ecc = .uncorrectable then engFault x 0x0C (rowAddr c x.row) s2
    else s2.onCore x.core (tileRow x x.data)
  | .accRead => if x.ecc = .uncorrectable && stationsOn x.core s then engFault x 0x0C (rowAddr c x.row) s2 else s2
  | .write | .accWrite => s2.putRow c x.row x.data

/-- Insert a reservation in order of start. -/
def insertResv (x : Resv) : List Resv → List Resv
  | [] => [x]
  | y :: ys => if x.start < y.start then x :: y :: ys else y :: insertResv x ys

/-- The reservations of a cluster that satisfy a test, in order of start. -/
def Cluster.pick (y : Cluster) (p : Resv → Bool) : List Resv := (y.resv.filter p).foldl (fun a x => insertResv x a) []

/-- What has arrived by this tick moves. The add of an ACC is written before another engine cycle of its row begins (R219). -/
def engineMoves (c : Nat) (s : State) : State :=
  let t := s.ticks c
  let y := s.cluster c
  let due := y.pick fun x => x.done && !x.moved && (decide (x.due ≤ t) ||
    (x.kind == .accWrite && y.resv.any fun z => !z.done && z.kind == .accRead && z.row == x.row && decide (z.start ≤ t)))
  due.foldl (fun s x => engineMove c x s) s

/-- The engine cycles of a cluster whose tick has come. If any of them meets a pending row, none begins: each that does raises the
Hold, and the island freezes in this tick (R214, R329). -/
def engineRun (c : Nat) (s : State) : State :=
  let s1 := engineMoves c s
  let t := s1.ticks c
  let due := (s1.cluster c).pick fun x => !x.done && decide (x.start ≤ t)
  let late := due.filterMap fun x => (meets c s1 x).map fun p => (x, p)
  if late.isEmpty then due.foldl (fun s x => engineCycle c x s) s1
  else late.foldl (fun s e => raiseIsland c (lateCause s c e.2) (some e.1.core) (some e.1.row) s) s1

/-- Forget the cycles that are over. -/
def engineTidy (c : Nat) (s : State) : State :=
  let t := s.ticks c
  let ended := fun (x : Resv) => x.done && x.moved && decide (x.start + max 2 x.lock ≤ t)
  if (s.cluster c).resv.any ended then s.onCluster c fun y => { y with resv := y.resv.filter fun x => !ended x } else s

/-- Rows have become pending in this tick. An engine cycle of this tick on one of them does not begin after all, and raises the
Hold (R214). -/
def pendMet (c : Nat) (rows : List Nat) (s : State) : State :=
  let t := s.ticks c
  let hit := (s.cluster c).pick fun x => x.done && !x.moved && x.kind != .accWrite && x.start == t && rows.contains x.row
  if s.frozen c then s
  else
    hit.foldl (fun s x =>
      match (s.cluster c).pend.find? fun p => p.row == x.row with
      | some p =>
        let s1 := onResv c x (fun z => { z with done := false, data := if engWrites x then x.data else [] }) s
        let mine := fun (h : Charge) => h.atT == s.now && h.budget == some c && h.core == some x.core && h.tokens == 11
        let s2 : State := if x.joined then s1 else { s1 with meter := { s1.meter with charges := dropFirst mine s1.meter.charges } }
        raiseIsland c (lateCause s c p) (some x.core) (some x.row) s2
      | none => s) s

/-! ### FETCH and STORE commands (R223, R226) -/

/-- Keep the outcomes of a ring access: fault, or go on with the first offset and the new ring. -/
def ringThen (k : Nat) (st : Station) (a : Acc) (r : Except RingErr (Nat × Ring)) (body : Nat → Ring → State → State)
    (s : State) : State :=
  match r with
  | .error e => ringFault k st a (rgNo a.cmd) e s
  | .ok (first, ring) => body first ring s

/-- Enter reservations and a shift (R208, R229). -/
def putResv (c : Nat) (n : Nat) (ring : Ring) (rs : List Resv) (shift : Nat) (s : State) : State :=
  s.onCluster c fun y =>
    { y.onRing n (fun _ => ring) with
      resv := y.resv ++ rs.map (Resv.shifted shift), engShift := satAdd max32 y.engShift shift }

/-- The port of FETCH or STORE is taken up to an island tick (R226). -/
def setPortTick (k : Nat) (st : Station) (t : Nat) (s : State) : State := s.onStq k st fun q => { q with port := t }

/-- The station is busy up to an island tick. -/
def setBusy (k : Nat) (st : Station) (t : Nat) (s : State) : State := s.onStq k st fun q => { q with busy := t }

/-- The oldest command begins, its engine cycles shifted by `d` ticks from tick `from'` on (R208). -/
def beginShifted (k : Nat) (st : Station) (retire d from' : Nat) (s : State) : State :=
  onHead k st (fun a => { a with stage := .running retire, shift := d, shiftAt := from' }) s

/-- The oldest command of a station is an engine access that was accepted in this tick and has not been tried yet. -/
def newAccess (s : State) (k : Nat) (st : Station) : Bool :=
  match (s.stq k st).head with
  | some a =>
    a.stage == .queued && a.atT == s.coreTick k && stationsOn k s &&
      (cmdOpcode a.cmd == 1 || (st == .store && cmdOpcode a.cmd == 2))
  | none => false

/-- A command accepted in this tick reserves after those of FETCH, then after those of lower cores (R208). -/
def reservesLater (s : State) (k : Nat) (st : Station) (a : Acc) : Bool :=
  a.atT == s.coreTick k && (s.coresOf (s.clusterOf k)).any fun j =>
    (newAccess s j .fetch && (st == .store || decide (j < k))) || (st == .store && decide (j < k) && newAccess s j .store)

/-- An engine command takes its links and reserves its cycles in the tick of acceptance, or in the first tick in which its links
let it; while the port is still taken or the station busy, its ticks count from the tick in which both are free (R206, R208,
R226). -/
def engineReady (k : Nat) (st : Station) (a : Acc) (ins outs : List Nat) (body : Nat → State → State) (s : State) : State :=
  if reservesLater s k st a then s
  else whenReady k st ins outs 0 (fun s => body (max (s.coreTick k) (max (s.stq k st).port (s.stq k st).busy)) s) s

/-- RD. -/
def rdDo (k : Nat) (ecc : List Ecc) (a : Acc) (s : State) : State :=
  let out := cmdOut a.cmd
  engineReady k .fetch a [] [out] (fun t s =>
    let c := s.clusterOf k
    let x := s.cluster c
    let n := linkSize ((s.core k).link out).cfg / 512
    ringThen k .fetch a ((x.ring (rgNo a.cmd)).read (s.clIndex k) (rgForm a.cmd) (rgOff a.cmd) n) (fun first ring s =>
      let rows := ring.rows first n
      let want := rows.mapIdx fun i r =>
        ({ row := r, start := t + 2 + 2 * i, kind := .read, core := k, link := out,
           slot := ((s.core k).link out).prod, place := i, ecc := (ecc[i]?).getD .clean, cmd := a.cmd,
           pcw := a.pcw } : Resv)
      let (rs, shift, from') := reserveAll x.resv want
      let due := t + 8 + 2 * n + shift
      let s1 := putResv c (rgNo a.cmd) ring rs shift s
      let s2 := s1.onCore k (putTile
        { st := .fetch, link := out, slot := 0, due := due, data := List.replicate (512 * n) 0,
          status := { src := rows.head?.map (rowAddr c) }, layer := cmdLayer a.cmd, op := cmdOp a.cmd, fmt := 0, tap := 0,
          missing := n })
      setPortTick k .fetch (t + 2 * n + shift) (beginShifted k .fetch due shift from' s2)) s) s

/-- WR. -/
def wrDo (k : Nat) (a : Acc) (s : State) : State :=
  let inl := cmdIn a.cmd
  engineReady k .store a [inl] [] (fun t s =>
    let c := s.clusterOf k
    let x := s.cluster c
    let data := (s.core k).inSlot inl
    let n := data.length / 512
    ringThen k .store a ((x.ring (rgNo a.cmd)).append (s.coreTick k) (rgForm a.cmd) (rgOff a.cmd) n) (fun first ring s =>
      let want := (ring.rows first n).mapIdx fun i r =>
        ({ row := r, start := t + 6 + 2 * i, kind := .write, core := k, data := (data.drop (512 * i)).take 512,
           cmd := a.cmd, pcw := a.pcw } : Resv)
      let (rs, shift, from') := reserveAll x.resv want
      let s1 := (putResv c (rgNo a.cmd) ring rs shift s).onCore k (takeSlot inl (t + 2 * n + shift))
      setPortTick k .store (t + 2 * n + shift) (beginShifted k .store (t + 6 + 2 * n + shift) shift from' s1)) s) s

/-- ACC. -/
def accDo (k : Nat) (ecc : List Ecc) (a : Acc) (s : State) : State :=
  let inl := cmdIn a.cmd
  engineReady k .store a [inl] [] (fun t s =>
    let c := s.clusterOf k
    let x := s.cluster c
    let data := (s.core k).inSlot inl
    ringThen k .store a ((x.ring (rgNo a.cmd)).append (s.coreTick k) (rgForm a.cmd) (rgOff a.cmd) 8) (fun first ring s =>
      let want := (ring.rows first 8).mapIdx fun i r =>
        ({ row := r, start := t + 6 + 2 * i, kind := .accRead, core := k, data := (data.drop (512 * i)).take 512,
           ecc := (ecc[i]?).getD .clean, cmd := a.cmd, pcw := a.pcw } : Resv)
      let (rs, shift, from') := reserveAccs (s.table 4 5) x.resv want
      let s1 := (putResv c (rgNo a.cmd) ring rs shift s).onCore k (takeSlot inl (t + 16 + shift))
      setPortTick k .store (t + 16 + shift) (beginShifted k .store (t + s.table 26 27 + shift) shift from' s1)) s) s

/-- The tick from which the station's busy ticks of a command that needs no port count: now, or the end of those of the command
before it (R226). -/
def stationFrom (k : Nat) (st : Station) (s : State) : Nat := max (s.coreTick k) (s.stq k st).busy

/-- RDROP: it waits for the pending rows it passes, then moves the core's head; it needs no port (R216, R226). -/
def rdropDo (k : Nat) (a : Acc) (s : State) : State :=
  whenReady k .fetch [] [] 0 (fun s =>
    let c := s.clusterOf k
    let t := stationFrom k .fetch s
    let x := s.cluster c
    let ring := x.ring (rgNo a.cmd)
    let j := s.clIndex k
    let done := fun (r : Ring) (s : State) =>
      setBusy k .fetch (t + 1) (begin' k .fetch (t + 1) (s.onCluster c (Cluster.onRing (rgNo a.cmd) fun _ => r)))
    if ring.mode = 1 then
      let n := if rgRows a.cmd = 0 then ring.tail - ring.head j else rgRows a.cmd
      ringThen k .fetch a (ring.read j false 0 n) (fun first ring' s =>
        let rows := ring.rows first n
        match x.pend.find? fun p => rows.contains p.row with
        | some p => raiseIsland c (lateCause s c p) (some k) (some p.row) (stall k .fetch 5 s)
        | none => done ring' s) s
    else done { ring with heads := mset ring.heads j 0 } s) s

/-- The worst case of a transfer of `n` rows (R244). -/
def worstOf (s : State) (kd : XferKind) (n : Nat) : Nat :=
  (match kd with
    | .fillDram => s.table 420 436
    | .wbackDram => s.table 380 396
    | .fillWindow | .wbackWindow => 200) + 8 * (n - 8)

/-- Where the requests of a core for an address go: the router of its window's cluster, or the attachment router of its
stack (R236). -/
def State.targetRouter (s : State) (c a : Nat) : Nat :=
  match windowOf a with
  | some (c', _) => c'
  | none => s.attach c (stackOf a)

/-- Where a packet for an address leaves the mesh. -/
def memEnd (a : Nat) : MeshEnd := if isDram a then .stack else .cluster

/-- The first of `n` rows from an address on that lies in the sealed range of a context other than the one whose state the
cores carry (R464). -/
def State.deniedRow (s : State) (a n : Nat) : Option Nat :=
  let rs := ((List.range 4).filter fun i => s.onCores != some i).flatMap fun i => (s.ctx i).sec.ranges
  ((List.range n).map fun i => a + 512 * i).find? fun x => rs.any fun r => decide (x < r.1 + r.2 ∧ r.1 < x + 512)

/-- Take a DMA entry, wait when there is none, and check the addresses (R204, R215, R252, R464); then go on in the ring
with the number of the transfer. A FILL or a WBACK needs no port (R226). -/
def dmaStart (k : Nat) (st : Station) (a : Acc) (body : Nat → State → State) (s : State) : State :=
  whenReady k st [] [] 0 (fun s =>
    if 4 ≤ (s.core k).dma.length then stall k st 15 s
    else
      match s.badRow (rgAddr a.cmd) (rgRows a.cmd) with
      | some bad => stationFault k st a 0x05 (BitVec.ofNat 64 bad) s
      | none =>
        match s.deniedRow (rgAddr a.cmd) (rgRows a.cmd) with
        | some bad =>
          stationFault k st a 0x05 (BitVec.ofNat 64 (6 * 2 ^ 60 + bad))
            (s.onSec fun x => { x with deniedEng := satAdd max32 x.deniedEng 1 })
        | none =>
          let (id, s1) := s.fresh
          body id s1) s

/-- Enter a transfer that has begun: its record, its DMA entry, its pending rows, from this tick on; the station is busy for 2
ticks (R214, R215, R226). -/
def dmaEnter (k : Nat) (st : Station) (a : Acc) (kd : XferKind) (id : Nat) (ring : Ring) (rows : List Nat) (s : State) :
    State :=
  let c := s.clusterOf k
  let t := s.coreTick k
  let w := t + worstOf s kd rows.length
  let x : Xfer :=
    { id := id, kind := kd, core := k, ring := rgNo a.cmd, rowsNo := rows, addr := rgAddr a.cmd, issue := t, worst := w,
      cmd := a.cmd, pcw := a.pcw }
  let s1 : State := { s with xfers := s.xfers ++ [x] }
  let s2 := s1.onCluster c fun y =>
    { y.onRing (rgNo a.cmd) (fun _ => ring) with pend := y.pend ++ rows.map fun r => ⟨r, id, false⟩ }
  let s3 := s2.onCore k fun x => { x with dma := x.dma ++ [⟨id, w, false⟩] }
  let b := stationFrom k st s
  pendMet c rows (setBusy k st (b + 2) (begin' k st (b + 2) s3))

/-- FILL: its rows are reserved and pending, and one request per row leaves (R214, R233). -/
def fillDo (k : Nat) (a : Acc) (s : State) : State :=
  dmaStart k .fetch a (fun id s =>
    let c := s.clusterOf k
    let n := rgRows a.cmd
    ringThen k .fetch a (((s.cluster c).ring (rgNo a.cmd)).append (s.coreTick k) (rgForm a.cmd) (rgOff a.cmd) n)
      (fun first ring s =>
        let kd : XferKind := if isDram (rgAddr a.cmd) then .fillDram else .fillWindow
        let s1 := dmaEnter k .fetch a kd id ring (ring.rows first n) s
        (List.range n).foldl (fun s i =>
          let ad := rgAddr a.cmd + 512 * i
          s.sendPkt { id := 0, src := c, dst := s.targetRouter c ad, dstEnd := memEnd ad, kind := .readReq
                      plane := planeOf c i, vc := 0, core := some k, xfer := id, row := i, addr := ad }) s1) s) s

/-- WBACK: its source rows are pending until they are read over the DMA path, a row every 8 ticks (R214, R215, R240). -/
def wbackDo (k : Nat) (a : Acc) (s : State) : State :=
  dmaStart k .store a (fun id s =>
    let c := s.clusterOf k
    let n := rgRows a.cmd
    let j := s.clIndex k
    ringThen k .store a (((s.cluster c).ring (rgNo a.cmd)).read j (rgForm a.cmd) (rgOff a.cmd) n)
      (fun first ring s =>
        let kd : XferKind := if isDram (rgAddr a.cmd) then .wbackDram else .wbackWindow
        let ring' := if ring.mode = 1 && !rgForm a.cmd then
            { ring with defer := ring.defer ++ (List.range n).map fun i => (id, j, first + i, 0) }
          else ring
        let rows := ring.rows first n
        let at0 := max s.now (s.core k).outAt
        let s1 := (dmaEnter k .store a kd id ring' rows s).onCore k fun x => { x with outAt := at0 + 8 * n }
        (List.range n).foldl (fun s i => queueAt (at0 + 8 * i) c ((rows[i]?).getD 0) (.wbackRead id i) s) s1) s) s

def execRd (k : Nat) (ecc : List Ecc) (s : State) : Host.Outcome State Fault Refusal :=
  .next (runHead k .fetch 0x01 (rdDo k ecc) s)
def execFill (k : Nat) (s : State) : Host.Outcome State Fault Refusal := .next (runHead k .fetch 0x02 (fillDo k) s)
def execRdrop (k : Nat) (s : State) : Host.Outcome State Fault Refusal := .next (runHead k .fetch 0x03 (rdropDo k) s)
def execWr (k : Nat) (s : State) : Host.Outcome State Fault Refusal := .next (runHead k .store 0x01 (wrDo k) s)
def execAcc (k : Nat) (ecc : List Ecc) (s : State) : Host.Outcome State Fault Refusal :=
  .next (runHead k .store 0x02 (accDo k ecc) s)
def execWback (k : Nat) (s : State) : Host.Outcome State Fault Refusal := .next (runHead k .store 0x03 (wbackDo k) s)

end Sys2Proof.Machine
end

