-- ==== Sys2Proof/Machine/Obs.lean ====
section
/-! DEFINITION. Observation: records of the event ring (R410), the tick classes of FINE and its layer table (R404–R406),
snapshot records (R407, R408), the histograms of CENSUS (R409), and the monitors' commands and level samples (R417,
R418). -/

namespace Sys2Proof.Machine

/-! ### Observation records (R410) -/

/-- A record of the event ring: kind, scope, the core it names, the two halves that follow, the virtual ID, the phase tick, the
IDs, and the core's module. It is written when the tick ends. -/
def obsRecord (kind scope core w4 cell vid phase : Nat) (layer op : BitVec 12) (module : Nat) (s : State) : State :=
  let r := leBytes 1 kind ++ leBytes 1 scope ++ leBytes 2 core ++ leBytes 2 w4 ++ leBytes 2 cell ++ leBytes 4 vid ++
    leBytes 4 phase ++ leBytes 4 s.superstep ++ leBytes 2 layer.toNat ++ leBytes 2 op.toNat ++
    leBytes 2 module ++ leBytes 2 0
  s.onObs fun o => { o with fresh := o.fresh ++ [⟨core, r⟩] }

/-- A record of what happens in this tick at a core of this module. -/
def obsEvent (kind scope core w4 cell vid : Nat) (layer op : BitVec 12) (s : State) : State :=
  obsRecord kind scope core w4 cell vid (s.phase core) layer op s.moduleIndex s

/-- Insert a record behind those of the same and of lower cores. -/
def insertRec (x : ObsRec) : List ObsRec → List ObsRec
  | [] => [x]
  | y :: ys => if x.core < y.core then x :: y :: ys else y :: insertRec x ys

/-- Write a record into the event ring, with its sequence number. -/
def ObsSt.write (o : ObsSt) (x : ObsRec) : ObsSt :=
  { o with events := mset o.events o.evNext (x.data ++ leBytes 4 o.evSeq), evNext := (o.evNext + 1) % 1024
           evN := satAdd max32 o.evN 1, evSeq := (o.evSeq + 1) % 2 ^ 32 }

/-- The records of a tick are written in ascending core number (R410). -/
def obsTick (s : State) : State :=
  if s.obs.fresh.isEmpty then s
  else s.onObs fun o => { (o.fresh.foldl (fun a x => insertRec x a) []).foldl ObsSt.write o with fresh := [] }

/-! ### FINE (R402–R406) -/

/-- The class of a tick of a unit: the count it adds to, 0 BUSY, 1–15 a reason, 16 IDLE (R405). -/
def tickBusy : Nat := 0
def tickIdle : Nat := 16

/-- Rows of a KSEND that lie in the send buffer. -/
def sendBuffer (c : Core) : Nat := c.ks.foldl (fun a x => a + x.readRows.length) 0

/-- The class of tick `t` of a station with an unfrozen, running core (R404, rules 4 to 6). -/
def stationClass (c : Core) (st : Station) (t : Nat) : Nat :=
  let acc := (c.stn.q st).acc
  match acc.findSome? fun a => match a.stage with | .stalled r | .issued r => some r | _ => none with
  | some r => r
  | none =>
    if acc.any fun a => match a.stage with
        | .running _ => decide (a.shiftAt ≤ t) && decide (t < a.shiftAt + a.shift)
        | _ => false then 4
    else if st = .knead && 16 ≤ sendBuffer c && c.ks.any (fun x => decide (x.asked < x.n)) then 15
    else if acc.any fun a => match a.stage with
        | .running r => decide (t < r)
        | .open => true
        | _ => false then tickBusy
    else if acc.any Acc.waiting then 15
    else tickIdle

/-- A message of the core waits for room at its receiver (R281). -/
def State.msgWaits (s : State) (k : Nat) : Bool :=
  s.sync.msgs.any fun m => m.src == k && m.wr.isNone && !s.msgRoom m && decide (m.atT + 7 + m.lat ≤ s.coreTick k)

/-- The class of tick `t` of the sequencer of an unfrozen core (R403, R404). -/
def seqClass (s : State) (k : Nat) : Nat :=
  let q := (s.core k).seq
  if q.st != .running then (if q.st == .done && s.coreTick k < q.ready then tickBusy else tickIdle)
  else
    match q.wait with
    | .sync .. | .recv .. => 1
    | .send _ .travelling => if s.msgWaits k then 10 else tickBusy
    | .send .. => tickBusy
    | .bundle _ | .drain _ | .flagclr | .proof _ => 15
    | .none =>
      if s.phase k < q.tickTo then tickIdle
      else if q.ready ≤ s.coreTick k then 15
      else tickBusy

/-- The class that holds for every unit of a core, if one does (R404, rules 1 to 3). -/
def coreClass (s : State) (k : Nat) : Option Nat :=
  match if s.coreFrozen k then episodeOf s (s.clusterOf k) else none with
  | some e => some (frozenReason s e k)
  | none =>
    if (s.core k).seq.st = .proofWait || s.curCtx.st = .held then some 7
    else if (s.core k).seq.st = .halted then some 14
    else none

/-- Count one tick of a unit (R405). -/
def CoreObs.count (u c : Nat) (o : CoreObs) : CoreObs :=
  { o with counts := mmod o.counts (17 * u + c) 0 (satAdd (2 ^ 48 - 1) · 1) }

/-- The entry of a layer, or the lowest free one (R406). -/
def layerIndex (o : CoreObs) (layer : BitVec 12) : Option Nat :=
  match o.layers.find? fun e => e.2.valid && e.2.layer == layer with
  | some e => some e.1
  | none => (List.range 32).find? fun n => !(mget o.layers n {}).valid

/-- Enter a busy or stalled tick in the layer table (R406). -/
def CoreObs.layer (layer : BitVec 12) (busy : Bool) (o : CoreObs) : CoreObs :=
  match layerIndex o layer with
  | some n => { o with layers := mmod o.layers n {} fun r =>
      { valid := true, layer := layer, busy := satAdd max32 r.busy (bnat busy),
        stalled := satAdd max32 r.stalled (bnat !busy) } }
  | none => { o with miss := satAdd max32 o.miss 1 }

/-- The layer a station works on: that of its oldest command that has not retired. -/
def stationLayer (c : Core) (st : Station) (t : Nat) : Option (BitVec 12) :=
  ((c.stn.q st).acc.find? fun a => !a.due t).map fun a => cmdLayer a.cmd

/-- The stations in order of their encoding. -/
def allStations : List Station := [.fetch, .matrix, .vector, .sparse, .store, .knead]

/-- `n` ticks of a unit that were counted under one reason count under another. -/
def CoreObs.recount (u r r' n : Nat) (o : CoreObs) : CoreObs :=
  { o with counts := mmod (mmod o.counts (17 * u + r) 0 (· - n)) (17 * u + r') 0 (satAdd (2 ^ 48 - 1) · n) }

/-- A frozen tick of an episode counts under one reason, which the causes of the whole episode choose: when a cause joins that R333 puts
first, the ticks counted so far follow it. The episode, the reason and the ticks counted under it are noted until the core thaws
(R333, R509). -/
def CoreObs.frozenTick (e : Option Episode) (reason : Nat) (o : CoreObs) : CoreObs :=
  match e with
  | none => { o with held := none }
  | some e =>
    match o.held with
    | some (u, r, n) =>
      if u != e.u0 then { o with held := some (e.u0, reason, 1) }
      else
        { if r = reason then o else (List.range 7).foldl (fun o u => o.recount u r reason n) o with
          held := some (u, reason, n + 1) }
    | none => { o with held := some (e.u0, reason, 1) }

/-- One tick of FINE of a core (R404–R406). -/
def fineCore (k : Nat) (s : State) : State :=
  match (s.core k).seq.st with
  | .idle | .faulted => s
  | _ =>
    let t := s.coreTick k
    let all := coreClass s k
    let c := s.core k
    let sc := all.getD (seqClass s k)
    let o1 := (c.obs.frozenTick (if s.coreFrozen k then episodeOf s (s.clusterOf k) else none) sc).count 0 sc
    let o2 := match c.seq.wait with
      | .bundle items =>
        if sc = tickBusy || sc = tickIdle then o1
        else
          match items.findSome? (·.cmd) with
          | some cmd => o1.layer (cmdLayer cmd) false
          | none => o1
      | _ => o1
    let o3 := allStations.foldl (fun o st =>
      let x := all.getD (stationClass c st t)
      let o' := o.count (stCode st).toNat x
      if x = tickIdle then o'
      else
        match stationLayer c st t with
        | some l => o'.layer l (x == tickBusy)
        | none => o') o2
    s.onCore k fun c => { c with obs := o3 }

/-- One tick of FINE (R405). -/
def fineTick (s : State) : State :=
  if s.obs.mode = 1 && s.cur.isSome then s.allCores.foldl (fun s k => fineCore k s) s else s

/-! ### CENSUS (R409) -/

/-- Add a sample to a histogram kept at keys 16·h + bin. -/
def histAdd (h bin n : Nat) (m : SMap Nat) : SMap Nat := if n = 0 then m else mmod m (16 * h + bin) 0 (satAdd max32 · n)

/-- Longest conflict queue of a core in tick `t`, while SPARSE adds are in flight (R188, R409). -/
def conflictQueue (c : Core) (t : Nat) : Option Nat :=
  ((c.sp.sets.filterMap fun e =>
    if e.2.issue.isNone then none
    else if e.2.adds ≤ t && t < e.2.done then some ((e.2.queue[t - e.2.adds]?).getD 0)
    else if e.2.pastAt ≤ t && t < e.2.pastEnd then some ((e.2.past[t - e.2.pastAt]?).getD 0) else none)).foldl
    (fun a q => some (max q (a.getD 0))) none

/-- One unfrozen tick of CENSUS of a cluster; in a Sealed job only PORT and SKEW count (R469). -/
def censusCluster (c : Nat) (s : State) : State :=
  if s.frozen c || s.sealedJob then s
  else
    let t := s.ticks c
    let cores := (s.coresOf c).map s.core
    let x := s.cluster c
    let h1 := cores.foldl (fun h k =>
      k.links.foldl (fun h l => if linkEnabled l.2.cfg then histAdd 0 (min 8 l.2.filled) 1 h else h) h) x.census
    let h2 := x.rings.foldl (fun h r =>
      if r.2.mode = 1 && r.2.size != 0 then histAdd 1 (min 15 (16 * r.2.reserved t / r.2.size)) 1 h else h) h1
    let h3 := cores.foldl (fun h k =>
      match conflictQueue k t with
      | some q => histAdd 2 (min q 15) 1 h
      | none => h) h2
    s.onCluster c fun y => { y with census := h3 }

/-- A packet that takes a credit of the landing buffer it goes to: a row, but not one of the side channel (R307, R408). -/
def LatOut.credited : LatOut → Bool
  | .row h _ => h.dcluster != 0x7F
  | _ => false

/-- Rows in the landing buffer of a Lattice port, those among them that go on by another port included. -/
def State.landUsed (s : State) (p : Nat) : Nat :=
  (s.fab.landed.filter fun l => l.place == .port p).length + ((s.port p).transit.filter fun e => e.pkt.credited).length

/-- One real tick of CENSUS of a Lattice port. -/
def censusPort (p : Nat) (s : State) : State :=
  match (s.port p).st with
  | .up | .replay => s.onPort p fun q => { q with census := histAdd 0 (min 15 (s.landUsed p / 8)) 1 q.census }
  | _ => s

/-- One tick of CENSUS (R409). -/
def censusTick (s : State) : State :=
  if s.obs.mode = 2 && s.cur.isSome then
    (List.range 20).foldl (fun s p => censusPort p s) (s.enabled.foldl (fun s c => censusCluster c s) s)
  else s

/-- A sample of SKEW (R409). -/
def skewSample (scope d : Nat) (s : State) : State :=
  if s.obs.mode = 2 then s.onObs fun o => { o with skew := histAdd scope (logBin 0 d) 1 o.skew } else s

/-! ### Snapshots (R407, R408) -/

/-- The count `c` of unit `u` since the last snapshot, over all cores. -/
def snapCount (s : State) (i : Nat) : Nat :=
  s.allCores.foldl (fun a k =>
    let o := (s.core k).obs
    min max32 (a + (mget o.counts i 0 - mget o.snap i 0))) 0

/-- The first 32 bytes of a snapshot record. -/
def snapHead (s : State) (tag : BitVec 16) (scope : BitVec 2) : Bytes :=
  leBytes 2 s.moduleIndex ++ leBytes 2 tag.toNat ++ leBytes 1 scope.toNat ++ leBytes 3 0 ++ leBytes 4 s.superstep ++
    leBytes 4 s.fab.epoch.toNat ++ leBytes 16 0

/-- Busy and stalled ticks by layer since the last release, summed over the cores, in ascending layer (R469). -/
def layerSums (s : State) : SMap (Nat × Nat) :=
  s.allCores.foldl (fun m k =>
    let o := (s.core k).obs
    o.layers.foldl (fun m e =>
      if e.2.valid then
        let p := mget o.laySnap e.1 {}
        let old := if p.valid && p.layer == e.2.layer then (p.busy, p.stalled) else (0, 0)
        let d := (e.2.busy - old.1, e.2.stalled - old.2)
        if d = (0, 0) then m else mmod m e.2.layer.toNat (0, 0) fun x => (min max32 (x.1 + d.1), min max32 (x.2 + d.2))
      else m) m) []

/-- An entry of a layer aggregate record. -/
def layerEntry (layer busy stalled : Nat) : Bytes := leBytes 2 layer ++ leBytes 2 0 ++ leBytes 4 busy ++ leBytes 4 stalled ++ leBytes 4 0

/-- The layer aggregate record of a Sealed job: at most thirty entries, the last for the remainder (R469). -/
def layerRecord (s : State) (tag : BitVec 16) (scope : BitVec 2) : Bytes :=
  let xs := layerSums s
  let one := fun (e : Nat × Nat × Nat) => layerEntry e.1 e.2.1 e.2.2
  let rest := (xs.drop 29).foldl (fun a e => (min max32 (a.1 + e.2.1), min max32 (a.2 + e.2.2))) (0, 0)
  padTo 512 (snapHead s tag scope ++
    (if xs.length ≤ 30 then xs.flatMap one else (xs.take 29).flatMap one ++ layerEntry 0xFFFF rest.1 rest.2))

/-- The snapshot record of a release (R407, R469). -/
def snapRecord (s : State) (tag : BitVec 16) (scope : BitVec 2) : Bytes :=
  if s.sealedJob then layerRecord s tag scope
  else
    snapHead s tag scope ++
      (List.range 7).flatMap (fun u => (List.range 17).flatMap fun c => leBytes 4 (snapCount s (17 * u + c))) ++ leBytes 4 0

/-- Write a record into the snapshot ring (R408). -/
def snapWrite (r : Bytes) (s : State) : State :=
  if s.obs.snapSlots = 0 then s
  else
    let s1 := { s with mem := memWrite s.mem (s.obs.snapBase + s.obs.snapN % s.obs.snapSlots * 512) (padTo 512 r) }
    s1.onObs fun o => { o with snapN := satAdd max32 o.snapN 1 }

/-- The counts of this release begin the next record. -/
def snapMark (s : State) : State :=
  s.allCores.foldl (fun s k => s.onCore k fun c => { c with obs := { c.obs with snap := c.obs.counts, laySnap := c.obs.layers } }) s

/-- A record of the side channel enters the 64-record buffer of its root (R408). -/
def snapTake (r : Bytes) (s : State) : State :=
  if s.obs.side.length < 64 then s.onObs fun o => { o with side := o.side ++ [padTo 512 r] } else s

/-- The oldest record of the side-channel buffer is written into the snapshot ring, one in a tick, in arrival order (R408, log entry
59). -/
def sideTick (s : State) : State :=
  match s.obs.side with
  | r :: rest => snapWrite r (s.onObs fun o => { o with side := rest })
  | [] => s

/-- SNAPSHOT_RECORD_ARRIVAL: a record of the side channel reaches this root (R408). -/
def execSnapshotRecordArrival (row : Bytes) (s : State) : Host.Outcome State Fault Refusal :=
  .next (if s.obs.mode = 1 && s.cur.isSome then snapTake row s else s)

/-! ### Rows of the trace (R411, R414, R415) -/

/-- DRAM address of the next row of a core's segment (R411). -/
def traceAddr (k : Nat) (s : State) : Nat :=
  s.obs.traceBase + (k * s.obs.traceRows + (s.core k).trc.next) * 512

/-- A row of a core as the crypto stage stores it: that of a Sealed job under the trace key, with a tweak of the address in rows and
the wrap count of the segment (R470). -/
def traceRow (k : Nat) (row : Bytes) (s : State) : Bytes :=
  match (if s.sealedJob then s.curCtx.sec.traceKey else none) with
  | some key => xtsEnc key (traceAddr k s / 512 + 2 ^ 40 * (s.core k).trc.wraps) row
  | none => row

/-- A row has left the buffer: a full one behind it is the next to be written (R411). -/
def Trace.pop (t : Trace) : Trace :=
  let rest := t.ready.drop 1
  if rest.isEmpty && t.row.length == 512 then { t with row := [], ready := [t.row] } else { t with ready := rest }

/-- Phase ticks from a planned row of a core to its next (R414); an unplanned row waits for none (R415). -/
def turnTicks (o : ObsSt) : Nat :=
  if o.trace = 1 && o.share != 0 then (4096 + o.share.toNat - 1) / o.share.toNat else 0

/-- Ticks for which the next row of a core has still to wait: those of the rate of its write-backs (R240) and those of its share
(R414). -/
def traceWait (k : Nat) (s : State) : Nat :=
  max ((s.core k).outAt - s.now) ((s.core k).trc.turnAt - s.coreTick k)

/-- The oldest complete row leaves for its segment as a row of a WBACK to DRAM does, `wait` ticks from now, and is charged as one; its
acceptance ends the core's TRACE_BACKPRESSURE, and what was lost is reported (R240, R357, R411, R414, R415). -/
def traceWrite (k wait : Nat) (s : State) : State :=
  match (s.core k).trc.ready with
  | [] => s
  | row :: _ =>
    let a := traceAddr k s
    let c := s.clusterOf k
    let (id, s1) := s.fresh
    let (pid, s1) := s1.sendNew
      { id := 0, src := c, dst := s.targetRouter c a, dstEnd := .stack, kind := .writeRow, plane := planeOf c 0, vc := 0
        core := some k, xfer := id, addr := a, data := traceRow k row s }
    let s2 := charge none 260 (some k) 0 (s.core k).seq.lastLayer (s.core k).seq.lastOp
      (s1.onPkt pid fun p => { p with ready := p.ready + wait })
    let s3 := s2.onCore k fun x =>
      let t := x.trc
      let wrap := s.obs.traceRows ≤ t.next + 1
      { x with
        outAt := s.now + wait + 8
        trc := { t.pop with
          next := if wrap then 0 else t.next + 1, wraps := if wrap then satAdd 0xFFFF t.wraps 1 else t.wraps
          turnAt := s.coreTick k + wait + turnTicks s.obs } }
    traceLost k (clearCause (fun r => r.cause == causeTrace && r.who == .island (s.clusterOf k)) s3)

/-- Every core closes its row, and what is complete goes out, each row as soon as the rate and the share let it: two rows, and the one
that a report of lost bytes begins (R411). -/
def traceFlush (s : State) : State :=
  if s.traced then
    s.allCores.foldl (fun s k => (List.range 3).foldl (fun s _ =>
      let s1 := traceClose k s
      traceWrite k (traceWait k s1) s1) s) s
  else s

/-! ### Monitors (R417, R418) -/

/-- Clear a monitor (R418). -/
def monClear' (m : Nat) (s : State) : State := { s with mon := { s.mon with mons := mdel s.mon.mons m } }

/-- Copy a monitor into the latch (R418). -/
def monLatch' (m : BitVec 6) (s : State) : State :=
  { s with mon := { s.mon with latchV := true, latchM := m, latch := mget s.mon.mons m.toNat {} } }

/-- MON.CTRL with `ACTION` LATCH. -/
def execMonLatch (m : BitVec 6) (s : State) : Host.Outcome State Fault Refusal := .next (monLatch' m s)
/-- MON.CTRL with `ACTION` CLEAR. -/
def execMonClear (m : BitVec 6) (s : State) : Host.Outcome State Fault Refusal := .next (monClear' m.toNat s)
/-- MON.CTRL with `ACTION` LATCH then CLEAR. -/
def execMonLatchClear (m : BitVec 6) (s : State) : Host.Outcome State Fault Refusal :=
  .next (monClear' m.toNat (monLatch' m s))

/-- The level monitors, in the order of the readings: 0 to 41, then 60 to 63. -/
def levelMonitors : List Nat := List.range 42 ++ [60, 61, 62, 63]

/-- A sample that is taken every `n` real ticks is due in tick `now`; `last` is the tick after the last one (R417, log entry 100). -/
def sampleDue (n now last : Nat) : Bool := now % n == 0 && decide (last ≤ now)

/-- MONITOR_LEVEL_SAMPLE: the sensors' readings, and the counts of the interval for monitors 56 to 58, every 1,048,576 real ticks
(R417). -/
def execMonitorLevelSample (readings : List Nat) (s : State) : Host.Outcome State Fault Refusal :=
  .next (if sampleDue 1048576 s.now s.mon.levelAt then
    let s1 := (levelMonitors.zip readings).foldl (fun s r => monSample r.1 r.2 s) s
    let s2 := monSample 58 s.mon.latSeen (monSample 57 s.mon.meshSeen (monSample 56 s.mon.eccSeen s1))
    { s2 with mon := { s2.mon with eccSeen := 0, meshSeen := 0, latSeen := 0, levelAt := s.now + 1 } }
  else s)

/-- TRACE_ROW_WRITE: the oldest complete row goes out, as the rate of the core's write-backs lets it; a planned trace keeps it for its
turn (R240, R411, R414, R415). -/
def execTraceRowWrite (k : Nat) (s : State) : Host.Outcome State Fault Refusal :=
  .next (if s.obs.trace = 2 && (s.core k).outAt ≤ s.now then traceWrite k 0 s else s)

/-- PLANNED_TRACE_TURN: a core's turn comes ⌈4,096 ÷ s⌉ phase ticks after its last row, whatever releases lie between (R414; DESIGN
CHOICE, log entry 113). The row of a halted core whose island is frozen, where no phase tick passes, waits only for the rate (R411,
R509, code l). -/
def execPlannedTraceTurn (k : Nat) (s : State) : Host.Outcome State Fault Refusal :=
  .next (if s.obs.trace = 1 && s.obs.share != 0 && (s.core k).outAt ≤ s.now &&
      ((s.core k).trc.turnAt ≤ s.coreTick k || (s.core k).seq.st = .halted && s.coreFrozen k) then
    traceWrite k 0 s
  else s)

end Sys2Proof.Machine
end

