-- ==== Sys2Proof/Machine/Knead.lean ====
section
/-! DEFINITION. Knead transfers: KSEND, KRECV, landing buffers and paths to other modules (R291–R297, R301–R304, R311,
R313), and Braid: BINJ, LOADB and forwards (R298–R300). -/

namespace Sys2Proof.Machine

/-! ### Fields of a KNEAD command (R302) -/

def ksSrc (c : Cmd) : Bool := c.getLsbD 50
def ksMcast (c : Cmd) : Bool := c.getLsbD 49
def ksDest (c : Cmd) : Nat := cmdBits c 39 10
def ksDcluster (c : Cmd) : Nat := cmdBits c 32 7
def ksTag (c : Cmd) : BitVec 12 := c.extractLsb' 20 12
def krSrcmod (c : Cmd) : Nat := cmdBits c 41 10
def krTag (c : Cmd) : BitVec 12 := c.extractLsb' 29 12
def krDq (c : Cmd) : Nat := cmdBits c 0 29
def bjFmt (c : Cmd) : Nat := cmdBits c 76 4

/-! ### Modules of the job and ways to them (R265, R311, R313) -/

/-- The module index is part of the job that runs. -/
def State.inJob (s : State) (m : Nat) : Bool := m == s.moduleIndex || s.curCtx.bin.members.contains m

/-- The header of a packet this module sends (R307). -/
def State.header (s : State) (dst : Nat) : LatHdr :=
  { epoch := s.fab.epoch, context := BitVec.ofNat 2 (s.cur.getD 0), src := BitVec.ofNat 10 s.moduleIndex,
    dst := BitVec.ofNat 10 dst, dcluster := 0, tag := 0, row := 0, rows := 0, mismatch := false }

/-! ### Checks (R303) -/

/-- Modules a KSEND sends to. -/
def ksTargets (s : State) (c : Cmd) : List Nat :=
  if ksMcast c then ((List.range 8).filter fun i => (ksDest c).testBit i).map (inTray s.moduleIndex) else [ksDest c]

/-- Input links of a KNEAD command. -/
def kneadIns (c : Cmd) : List Nat :=
  match cmdOpcode c with
  | 1 => if ksSrc c then [cmdIn c] else []
  | 3 => [cmdIn c]
  | _ => []

/-- The destination cluster is enabled on a target: of another module only its configuration knows (log entry 86). -/
def clusterAt (s : State) (m c : Nat) : Bool :=
  if m = s.moduleIndex then s.enabled.contains c else Config.farCluster m c

/-- The checks of R303; `true` lets the command pass. -/
def kneadChecks (s : State) (k : Nat) (cmd : Cmd) : Bool :=
  let c := s.core k
  let r := (s.cluster (s.clusterOf k)).ring (rgNo cmd)
  let rowsOk := decide (1 ≤ rgRows cmd) && decide (rgRows cmd ≤ 64)
  let slot := linkSize (c.link (cmdIn cmd)).cfg
  match cmdOpcode cmd with
  | 1 =>
    rowsOk && (if ksSrc cmd then rgRows cmd == slot / 512 else r.mode != 0) &&
      (!ksMcast cmd || decide (ksDest cmd < 256)) && (ksTargets s cmd).all s.inJob && decide (ksDcluster cmd < 96) &&
      (ksTargets s cmd).all fun m => clusterAt s m (ksDcluster cmd)
  | 2 => rowsOk && r.mode != 0 && !(rgForm cmd && r.mode == 1)
  | 3 => fmtOk (bjFmt cmd) && bjFmt cmd != 0 && slot == fmtTile (bjFmt cmd)
  | _ => false

/-! ### Landing buffers (R292, R295) -/

/-- The KRECV of a cluster that a row of a sender and a tag matches. -/
def Cluster.match' (x : Cluster) (src : Nat) (tag : BitVec 12) : Option KRecv :=
  x.krecvs.find? fun r => r.srcmod == src && r.tag == tag

/-- The fault of R295, with the tag as value. -/
def tagFault (core : Nat) (tag : BitVec 12) (cmd : Cmd) (pcw : Nat) (s : State) : State :=
  coreFault core { code := 0x01, station := stCode .knead, layer := cmdLayer cmd, op := cmdOp cmd,
                   pcWord := BitVec.ofNat 16 pcw, detail := illegal 0x03 tag.toNat, cmd := cmd } s

/-- A landed row's count differs from that of its KRECV. -/
def landDiffers (c : Nat) (s : State) (l : Landed) : Option KRecv :=
  if l.dcluster = c then
    match (s.cluster c).match' l.srcmod l.tag with
    | some r => if r.rowsNo.length = l.rows then none else some r
    | none => none
  else none

/-- Landed rows whose row count differs from that of their KRECV are discarded, and the receiving core faults (R295). -/
def landCheck (c : Nat) (s : State) : State :=
  let bad := s.fab.landed.filterMap fun l => (landDiffers c s l).map fun r => (l, r)
  bad.foldl (fun s e => tagFault e.2.core e.1.tag e.2.cmd e.2.pcw
    (leaveLanding (fun x => x.id == e.1.id) s)) s

/-- A row takes its place in a landing buffer. -/
def landRow (place : LandPlace) (src : Nat) (tag : BitVec 12) (row rows dcluster : Nat) (data : Bytes) (replayed : Bool)
    (s : State) : State :=
  let id := s.fab.nextId
  landCheck dcluster (s.onFab fun f =>
    { f with
      nextId := id + 1
      landed := f.landed ++
        [{ id := id, place := place, srcmod := src, tag := tag, row := row, rows := rows, dcluster := dcluster, data := data,
           atT := s.ticks dcluster, replayed := replayed }] })

/-- KNEAD_ROW_ARRIVAL: a row from a core of this module reaches the router of its destination cluster (R292). -/
def execKneadRowArrival (pid : Nat) (s : State) : Host.Outcome State Fault Refusal :=
  .next (match s.pkt pid with
    | some p =>
      if p.kind == .kneadRow && p.lat.isNone && s.delivered p then
        landRow (.router p.dst) s.moduleIndex p.tag p.row p.rows p.dst p.data false (s.dropPkt pid)
      else s
    | none => s)

/-- Mark a landed row as on its way to its bank, or waiting again. -/
def markMoving (lid : Nat) (b : Bool) (s : State) : State :=
  s.onFab fun f => { f with landed := f.landed.map fun x => if x.id = lid then { x with moving := b } else x }

/-- LANDING_ROW_WRITE: from D + 8k on, a row whose KRECV has been accepted goes to its bank; one in the landing buffer of a Lattice
port crosses the mesh to its cluster first, on the plane that R233 would give a transfer of that cluster (R292, R310, log entry
98). -/
def execLandingRowWrite (lid : Nat) (s : State) : Host.Outcome State Fault Refusal :=
  .next (match s.fab.landed.find? fun l => l.id == lid && !l.moving with
    | some l =>
      let c := l.dcluster
      match (s.cluster c).match' l.srcmod l.tag with
      | some r =>
        match r.rowsNo[l.row]? with
        | some row =>
          if r.due + 8 * l.row ≤ s.ticks c && !r.got.contains l.row then
            let s1 := markMoving lid true s
            match l.place with
            | .router _ => queueAccess c row (.landing lid) s1
            | .port p =>
              s1.sendPkt { id := 0, src := s.portRouter p, dst := c, srcEnd := .lattice, kind := .landRow
                           plane := planeOf c l.row, vc := 0, core := some r.core, xfer := lid, row := row
                           addr := rowAddr c row, data := l.data }
          else s
        | none => s
      | none => s
    | none => s)

/-- The mark of a raiser that awaits a whole KRECV (R294). -/
def recvItem (id : Nat) : Nat := 2 ^ 20 + id

/-- The causes of the late-data Hold that await an item of an island clear (R331). -/
def clearLate (c item : Nat) (s : State) : State :=
  clearCause (fun r => r.who == .island c && r.item == some item &&
    (r.cause == causeEcc || r.cause == causeRetry || r.cause == causeKnead || r.cause == causeMesh)) s

/-- A command of a station that another event retires has been completed. -/
def retireOpen (k : Nat) (st : Station) (cmd : Cmd) (pcw : Nat) (s : State) : State :=
  let t := s.coreTick k
  let mine := fun (a : Acc) => a.stage == .open && a.cmd == cmd && a.pcw == pcw
  s.onStq k st fun q => { q with acc := mapFirst mine (fun a => { a with stage := .running t }) q.acc }

/-- Rows no longer pending (R214). -/
def unpend (c row owner : Nat) (s : State) : State :=
  clearLate c row (s.onCluster c fun y => { y with pend := y.pend.filter fun p => !(p.row == row && p.owner == owner) })

/-- A landed row is written: it leaves the landing buffer, and the KRECV retires with its last row (R291, R292). -/
def landWritten (c lid : Nat) (s : State) : State :=
  match s.fab.landed.find? fun l => l.id == lid with
  | none => s
  | some l =>
    match (s.cluster c).match' l.srcmod l.tag with
    | none => markMoving lid false s
    | some r =>
      let row := (r.rowsNo[l.row]?).getD 0
      let s1 := leaveLanding (fun x => x.id == lid) (s.putRow c row l.data)
      let s2 := monSample 55 (r.due + 8 * l.row - l.atT) (unpend c row r.id s1)
      let got := r.got ++ [l.row]
      if got.length < r.rowsNo.length then
        s2.onCluster c fun y => { y with krecvs := y.krecvs.map fun x => if x.id = r.id then { x with got := got } else x }
      else
        clearLate c (recvItem r.id) (retireOpen r.core .knead r.cmd r.pcw
          (s2.onCluster c fun y => { y with krecvs := y.krecvs.filter fun x => x.id != r.id }))

/-! ### KRECV (R291, R304) -/

/-- A KRECV is accepted: it reserves its rows and marks them pending (R291, R295). -/
def krecvEnter (k : Nat) (a : Acc) (s : State) : State :=
  let c := s.clusterOf k
  let x := s.cluster c
  let src := krSrcmod a.cmd
  let tag := krTag a.cmd
  if (x.match' src tag).isSome then stationFault k .knead a 0x01 (illegal 0x03 tag.toNat) s
  else
    ringThen k .knead a ((x.ring (rgNo a.cmd)).append (s.coreTick k) (rgForm a.cmd) (rgOff a.cmd) (rgRows a.cmd))
      (fun first ring s =>
        let (id, s1) := s.fresh
        let rows := ring.rows first (rgRows a.cmd)
        let r : KRecv :=
          { id := id, core := k, srcmod := src, tag := tag, rowsNo := rows,
            due := (s.core k).seq.phase0 + 8 * krDq a.cmd, cmd := a.cmd, pcw := a.pcw }
        let s2 := s1.onCluster c fun y =>
          { y.onRing (rgNo a.cmd) (fun _ => ring) with
            krecvs := y.krecvs ++ [r], pend := y.pend ++ rows.map fun n => ⟨n, id, true⟩ }
        landCheck c (pendMet c rows s2)) s

/-- KNEAD comes to a KRECV: it stays open until its last row is written, or retires if that has happened (R292, R304). -/
def krecvDo (k : Nat) (a : Acc) (s : State) : State :=
  whenReady k .knead [] [] (s.stq k .knead).busy (fun s =>
    let t := s.coreTick k
    let mine := fun (r : KRecv) => r.core == k && r.cmd == a.cmd && r.pcw == a.pcw
    setBusy k .knead (t + 1)
      (if (s.cluster (s.clusterOf k)).krecvs.any mine then beginOpen k .knead s else begin' k .knead t s)) s

/-! ### KSEND (R296, R297) -/

/-- Rows of a KSEND that have left the send buffer: those every target has accepted. -/
def KSend.left (x : KSend) : Nat := x.dest.foldl (fun a m => min a (mget x.accepted m 0)) x.n

/-- Rows of the core that lie in its send buffer or have a read under way. -/
def sendUsed (c : Core) : Nat := c.ks.foldl (fun a x => a + (x.asked - x.left)) 0

/-- Rewrite a KSEND of a core. -/
def State.onKs (s : State) (k id : Nat) (f : KSend → KSend) : State :=
  s.onCore k fun c => { c with ks := c.ks.map fun x => if x.id = id then f x else x }

/-- A KSEND whose rows have all left the send buffer retires (R296). -/
def ksRetire (k id : Nat) (s : State) : State :=
  match (s.core k).ks.find? fun x => x.id == id with
  | some x =>
    if x.n ≤ x.left && x.asked == x.n && (!x.dest.isEmpty || x.readRows.length == x.n) then
      retireOpen k .knead x.cmd x.pcw (s.onCore k fun c => { c with ks := c.ks.filter fun z => z.id != id })
    else s
  | none => s

/-- The KSEND whose next row the KNEAD station reads: they read in order, and a row follows the one before it. -/
def ksNext (c : Core) : Option KSend :=
  match c.ks.find? fun x => decide (x.asked < x.n) with
  | some x => if c.ks.any fun y => decide ((y.readRows.filter fun e => decide (y.left ≤ e.1)).length < y.asked - y.left)
    then none else some x
  | none => none

/-- A slot that a KSEND reads is free a tick later than it was to be. -/
def frees1 (n t : Nat) (fs : List (Nat × Nat)) : List (Nat × Nat) :=
  mapFirst (fun e => e.1 == n && decide (t < e.2)) (fun e => (e.1, e.2 + 1)) fs

/-- The KNEAD station reads the next row of a KSEND while the send buffer has room: of a ring one row every 8 ticks, over the DMA
path; of a slot 256 B in a tick. A full buffer stops it (R296, R297). -/
def ksPump (k : Nat) (s : State) : State :=
  if !stationsOn k s then s
  else
    let t := s.coreTick k
    match ksNext (s.core k) with
    | none => s
    | some x =>
      if t < x.askAt then s
      else
        match x.link, decide (16 ≤ sendUsed (s.core k)) with
        | none, true => s
        | some n, true =>
          (s.onKs k x.id fun x => { x with askAt := t + 1 }).onStn k fun y => { y with frees := frees1 n t y.frees }
        | none, false =>
          queueAccess (s.clusterOf k) ((x.rowsNo[x.asked]?).getD 0) (.kneadRead k x.id x.asked)
            (s.onKs k x.id fun x => { x with asked := x.asked + 1, askAt := t + 8 })
        | some _, false =>
          ksRetire k x.id (s.onKs k x.id fun x =>
            { x with readRows := mset x.readRows x.asked (x.slot.headD []), slot := x.slot.tail, asked := x.asked + 1
                     askAt := t + 2 })

def ksendDo (k : Nat) (a : Acc) (s : State) : State :=
  whenReady k .knead (kneadIns a.cmd) [] (s.stq k .knead).busy (fun s =>
    let c := s.clusterOf k
    let t := s.coreTick k
    let n := rgRows a.cmd
    let (id, s0) := s.fresh
    let base : KSend :=
      { id := id, ring := none, rowsNo := [], start := t, dest := ksTargets s a.cmd,
        dcluster := ksDcluster a.cmd, tag := ksTag a.cmd, n := n, cmd := a.cmd, pcw := a.pcw }
    let enter := fun (x : KSend) (s : State) =>
      setBusy k .knead (t + 2) (beginOpen k .knead (s.onCore k fun c => { c with ks := c.ks ++ [x] }))
    if ksSrc a.cmd then
      let data := (s.core k).inSlot (cmdIn a.cmd)
      enter { base with slot := (List.range n).map fun i => (data.drop (512 * i)).take 512
                        link := some (cmdIn a.cmd), askAt := t + 4 }
        (s0.onCore k (takeSlot (cmdIn a.cmd) (t + 2 + data.length / 256)))
    else
      let j := s.clIndex k
      ringThen k .knead a (((s.cluster c).ring (rgNo a.cmd)).read j (rgForm a.cmd) (rgOff a.cmd) n)
        (fun first ring s =>
          let fifo := ring.mode = 1 && !rgForm a.cmd
          let ring' := if fifo then
              { ring with defer := ring.defer ++ (List.range n).map fun i => (id, j, first + i, 0) }
            else ring
          let rows := ring.rows first n
          let s1 := s.onCluster c fun y =>
            { y.onRing (rgNo a.cmd) (fun _ => ring') with pend := y.pend ++ rows.map fun r => ⟨r, id, true⟩ }
          ksPump k (pendMet c rows
            (enter { base with ring := some (rgNo a.cmd), rowsNo := rows, first := first, askAt := t } s1))) s0) s

/-- A row of a KSEND has been read: it lies in the send buffer; a row of a FIFO ring is free in the later of this tick and
the tick of R304 (R296). -/
def ksRead (k id i row : Nat) (data : Bytes) (s : State) : State :=
  let c := s.clusterOf k
  match (s.core k).ks.find? fun x => x.id == id with
  | some x =>
    let s1 := s.onKs k id fun x => { x with readRows := mset x.readRows i data }
    let free := max (s.ticks c) (x.start + 8 + 8 * i)
    let s2 := match x.ring with
      | some n => s1.onCluster c (Cluster.onRing n fun r =>
          { r with defer := r.defer.map fun e =>
              if e.1 = id && e.2.2.1 = x.first + i then (e.1, e.2.1, e.2.2.1, free) else e })
      | none => s1
    ksRetire k id (unpend c row id s2)
  | none => s

/-- Places taken in the landing buffer of a cluster's router: rows there and rows on the way. -/
def routerLand (s : State) (c : Nat) : Nat :=
  (s.fab.landed.filter fun l => l.place == .router c).length +
    (s.pkts.filter fun p => p.kind == .kneadRow && p.lat.isNone && p.dst == c).length

/-- A target has accepted row `i` of a KSEND: the row leaves the send buffer with its last target, and the KSEND retires
with its last row (R296). -/
def ksAccepted (k : Nat) (x : KSend) (m i : Nat) (s : State) : State :=
  let y := { x with accepted := mset x.accepted m (i + 1) }
  ksRetire k x.id (s.onKs k x.id fun _ => { y with readRows := y.readRows.filter fun e => decide (y.left ≤ e.1) })

/-- KSEND_ROW_ACCEPT: a row takes a credited place in the next buffer on its path to a target (R296, R297). -/
def ksAccept (k m : Nat) (s : State) : State :=
  let next := fun (x : KSend) => mget x.accepted m 0
  match (s.core k).ks.find? fun x => x.dest.contains m && decide (next x < x.n) && (mfind x.readRows (next x)).isSome with
  | none => s
  | some x =>
    let c := s.clusterOf k
    let i := next x
    let data := mget x.readRows i []
    let pkt : Pkt :=
      { id := 0, src := c, dst := x.dcluster, kind := .kneadRow, plane := planeOf c i, vc := 0, core := some k, xfer := x.id
        row := i, addr := ((x.rowsNo[i]?).map (rowAddr c)).getD 0, data := data, tag := x.tag, rows := x.n }
    match s.portTo m i with
    | none => if 128 ≤ routerLand s x.dcluster then s else ksAccepted k x m i (s.sendPkt pkt)
    | some p =>
      if (s.port p).credits = 0 then s
      else
        let h := { s.header m with
          dcluster := BitVec.ofNat 7 x.dcluster, tag := x.tag, row := BitVec.ofNat 7 i, rows := BitVec.ofNat 7 x.n }
        ksAccepted k x m i ((s.onPort p fun q => { q with credits := q.credits - 1 }).sendPkt
          { pkt with dst := s.portRouter p, dstEnd := .lattice, lat := some (p, h) })

def execKsend (k : Nat) (s : State) : Host.Outcome State Fault Refusal := .next (runHead k .knead 0x01 (ksendDo k) s)
def execKsendRowAccept (k target : Nat) (s : State) : Host.Outcome State Fault Refusal := .next (ksAccept k target s)
def execKrecv (k : Nat) (s : State) : Host.Outcome State Fault Refusal := .next (runHead k .knead 0x02 (krecvDo k) s)

/-! ### Braid (R298–R300) -/

/-- The next core in Braid order (R298). -/
def State.braidNext (s : State) (k : Nat) : Nat :=
  let cs := s.coresOf (s.clusterOf k)
  (cs[(cs.idxOf k + 1) % cs.length]?).getD k

/-- Free entries of a Braid buffer in island tick `t`. -/
def braidFree (b : Braid) (t : Nat) : Nat :=
  2 - (b.buf.length + b.inbound.length + (b.freeAt.filter fun f => decide (t < f)).length + b.forward.length)

/-- Rewrite the Braid state of a core. -/
def State.onBraid (s : State) (k : Nat) (f : Braid → Braid) : State := s.onCore k fun c => { c with braid := f c.braid }

/-- BINJ: the slot is copied into the core's own buffer (R298, R304). -/
def binjDo (k : Nat) (a : Acc) (s : State) : State :=
  whenReady k .knead [cmdIn a.cmd] [] (s.stq k .knead).busy (fun s =>
    let t := s.coreTick k
    if braidFree (s.core k).braid t = 0 then stall k .knead 15 s
    else
      let data := (s.core k).inSlot (cmdIn a.cmd)
      let due := t + 2 + data.length / 256
      let s1 := (s.onCore k (takeSlot (cmdIn a.cmd) due)).onBraid k fun b => { b with buf := b.buf ++ [⟨data, t + 2⟩] }
      setBusy k .knead (t + 2) (begin' k .knead due s1)) s

def execBinj (k : Nat) (s : State) : Host.Outcome State Fault Refusal := .next (runHead k .knead 0x03 (binjDo k) s)

/-- A tile goes to the next core's buffer; its first bytes arrive 3 ticks later (R298). -/
def braidSend (k : Nat) (data : Bytes) (s : State) : State :=
  let t := s.coreTick k
  s.onBraid (s.braidNext k) fun b => { b with inbound := b.inbound ++ [(t + 3, data, b.missed)], missed := false }

/-- A missing credit keeps the next tile back, or delayed it on its way (R299). -/
def Braid.held (b : Braid) : Bool :=
  match b.inbound with
  | (_, _, late) :: _ => late
  | [] => b.missed

/-- The Hold for the next tile has been raised. -/
def Braid.seen (b : Braid) : Braid :=
  match b.inbound with
  | (due, data, _) :: rest => { b with inbound := (due, data, false) :: rest }
  | [] => { b with missed := false }

/-- The entries of the buffer that are still being read. -/
def Braid.freeing (t ticks : Nat) (b : Braid) : Braid :=
  { b with freeAt := b.freeAt.filter (fun f => decide (t < f)) ++ [t + ticks] }

/-- The entry of a LOADB: the tile goes into the shadows and, with `FWD`, on to the next core, or waits for a credit behind those
that wait already (R298, R299). -/
def loadbTake (k : Nat) (a : Acc) (tile : BraidTile) (s : State) : State :=
  let t := s.coreTick k
  let f := mxFmt a.cmd
  let ticks := loadTicks f
  let s1 := s.onMx k (loadArrays (mxMask a.cmd) t ticks fun x =>
    { x with p1 := regsOf (tileElems f (padTo (fmtTile f) tile.data)), fmt1 := some (BitVec.ofNat 4 f) })
  let s2 := s1.onBraid k fun b => { b with buf := b.buf.tail }
  let next := s.braidNext k
  let s3 :=
    if mxGauss a.cmd then
      if braidFree (s2.core next).braid t = 0 || !(s2.core k).braid.forward.isEmpty then
        let waiting := s2.onBraid k fun b => { b with forward := b.forward ++ [(tile.data, cmdLayer a.cmd, cmdOp a.cmd)] }
        obsEvent 2 0 k next 0 0 (cmdLayer a.cmd) (cmdOp a.cmd) (waiting.onBraid next fun b => { b with missed := true })
      else braidSend k tile.data (s2.onBraid k (Braid.freeing t ticks))
    else s2.onBraid k (Braid.freeing t ticks)
  begin' k .matrix (t + ticks) s3

/-- LOADB: it takes the tile at the head of the Braid buffer, waits for one on its way, and raises a Hold for one that a
missing credit keeps back (R298, R299, R304). -/
def mxDoLoadb (k : Nat) (a : Acc) (s : State) : State :=
  let c := s.core k
  let t := s.coreTick k
  whenReady k .matrix [] [] (max (loadFrom c.mx (mxMask a.cmd) false) (s.stq k .matrix).busy) (fun s =>
    match c.braid.buf with
    | tile :: _ => if tile.arrived ≤ t then loadbTake k a tile s else stall k .matrix 15 s
    | [] =>
      if c.braid.held then
        let s1 := (stall k .matrix 15 s).onBraid k fun b =>
          { b.seen with owes := some (cmdLayer a.cmd, cmdOp a.cmd) }
        let s2 := if mxGauss a.cmd then s1.onBraid (s1.braidNext k) fun b => { b with missed := true } else s1
        raiseIsland (s.clusterOf k) causeBraid none none s2
      else stall k .matrix 15 s) s

def execLoadb (k : Nat) (s : State) : Host.Outcome State Fault Refusal := .next (runHead k .matrix 0x03 (mxDoLoadb k) s)

/-- A tile takes its place in a Braid buffer, behind those that arrive no later than it does: of two that arrive in one tick, the one of
BINJ goes first (R298; DESIGN CHOICE, log entry 114). -/
def braidInsert (x : BraidTile) : List BraidTile → List BraidTile
  | [] => [x]
  | y :: ys => if x.arrived < y.arrived then x :: y :: ys else y :: braidInsert x ys

/-- BRAID_TILE_ARRIVAL: a forwarded tile arrives at its tick (R298). -/
def execBraidTileArrival (k : Nat) (s : State) : Host.Outcome State Fault Refusal :=
  .next (match (s.core k).braid.inbound with
    | (due, data, _) :: rest =>
      if due ≤ s.coreTick k && !s.coreFrozen k then
        s.onBraid k fun b => { b with inbound := rest, buf := braidInsert ⟨data, due⟩ b.buf }
      else s
    | [] => s)

/-- BRAID_FORWARD: the forward that has waited longest finds a free entry in the next buffer (R299). -/
def execBraidForward (k : Nat) (s : State) : Host.Outcome State Fault Refusal :=
  .next (match (s.core k).braid.forward with
    | (data, _, _) :: rest =>
      let t := s.coreTick k
      let next := s.braidNext k
      if braidFree (s.core next).braid t != 0 && stationsOn k s then
        (braidSend k data (s.onBraid k fun b => { Braid.freeing t (data.length / 256) b with forward := rest })).onBraid next
          fun b => { b with missed := !rest.isEmpty }
      else s
    | [] => s)

/-- BRAID_CREDIT_CAUSE_CLEAR: the cause clears in the tick after it is raised, so that alone it gives D = 1 (R299). -/
def execBraidCreditCauseClear (c : Nat) (s : State) : Host.Outcome State Fault Refusal :=
  let f := fun (r : Raiser) =>
    if r.who == .island c && r.cause == causeBraid && r.clear.isNone && decide (r.s + 1 ≤ s.now) then
      { r with clear := some r.s }
    else r
  .next { s with hold := { s.hold with eps := s.hold.eps.map fun e => { e with raisers := e.raisers.map f } } }

end Sys2Proof.Machine
end

