-- ==== Sys2Proof/Machine/Dma.lean ====
section
/-! DEFINITION. The DMA path of a cluster: arrivals of row packets, bank cycles, acknowledgements, and DMA entries
(R207, R209, R214, R215, R221, R234, R244, R332). -/

namespace Sys2Proof.Machine

/-! ### Arrivals -/

/-- A row of a fill or a draw moves into its cluster at most every 8 ticks of its core (R240). -/
def paceIn (k : Nat) (s : State) : State := s.onCore k fun c => { c with inAt := s.now + 8 }

/-- DMA_ROW_ARRIVAL: a row packet, or a request for a row, reaches the cluster it is for (R234). -/
def rowArrival (pid : Nat) (s : State) : State :=
  match s.pkt pid with
  | none => s
  | some p =>
    if !s.delivered p || p.dstEnd != .cluster then s
    else
      match p.kind with
      | .readRsp =>
        match s.xfer p.xfer with
        | some x =>
          if s.now < (s.core x.core).inAt then s
          else
            queueAccess p.dst ((x.rowsNo[p.row]?).getD 0) (.fillRow p.xfer p.row p.data) (paceIn x.core (s.dropPkt pid))
        | none => s.dropPkt pid
      | .readReq =>
        match windowOf p.addr with
        | some (c, o) => queueAccess c (o / 512) (.drawRead pid) (s.onPkt pid fun p => { p with taken := true })
        | none => s
      | .writeRow =>
        match windowOf p.addr with
        | some (c, o) => queueAccess c (o / 512) (.windowWrite pid p.data) (s.onPkt pid fun p => { p with taken := true })
        | none => s
      | .landRow => queueAccess p.dst p.row (.landing p.xfer) (s.dropPkt pid)
      | _ => s

def execDmaRowArrival (pid : Nat) (s : State) : Host.Outcome State Fault Refusal := .next (rowArrival pid s)

/-! ### Completion (R215, R244, R417) -/

/-- Monitor of a transfer's time from issue to completion, if it has one. -/
def xferMonitor : XferKind → Option Nat
  | .fillDram => some 52
  | .fillWindow => some 53
  | .wbackDram => some 54
  | .wbackWindow => none

/-- One row of a transfer is done; with the last one the transfer is complete. -/
def rowDone (id i : Nat) (s : State) : State :=
  match s.xfer id with
  | none => s
  | some x =>
    let done := x.done ++ [i]
    if done.length < x.rowsNo.length then s.onXfer id fun x => { x with done := done }
    else
      let s1 : State := { s with xfers := s.xfers.filter fun y => y.id != id }
      let s2 := s1.onCore x.core fun c =>
        { c with dma := c.dma.map fun e => if e.id = id then { e with done := true } else e }
      match xferMonitor x.kind with
      | some m => monSample m (s.coreTick x.core - x.issue) s2
      | none => s2

/-- WBACK_ACK_ARRIVAL: the acknowledgement of a row reaches the issuing cluster; the last one completes the WBACK (R244). -/
def execWbackAckArrival (pid : Nat) (s : State) : Host.Outcome State Fault Refusal :=
  .next (match s.pkt pid with
    | some p =>
      if p.kind == .writeAck && p.dstEnd == .cluster && s.delivered p then rowDone p.xfer p.row (s.dropPkt pid) else s
    | none => s)

/-- A transfer's DMA entry is released, and the rows its sequential read took from a FIFO ring are free (R215). -/
def releaseEntry (k id : Nat) (s : State) : State :=
  (s.onCore k fun c => { c with dma := c.dma.filter fun e => e.id != id }).onCluster (s.clusterOf k) fun y =>
    { y with rings := y.rings.map fun r => (r.1, { r.2 with defer := r.2.defer.filter fun e => e.1 != id }) }

/-- DMA_ENTRY_RELEASE: in the later of completion and the tabled worst case (R215). -/
def execDmaEntryRelease (k id : Nat) (s : State) : Host.Outcome State Fault Refusal :=
  .next (match (s.core k).dma.find? fun e => e.id == id with
    | some e => if e.done && e.worst ≤ s.coreTick k then releaseEntry k id s else s
    | none => s)

/-! ### Bank cycles of the DMA path (R207, R209, R332) -/

/-- The tick in which a frozen island thaws, once every cause of its episode has cleared (R331). -/
def thawTick (s : State) (c : Nat) : Option Nat :=
  match (s.island c).since, episodeOf s c with
  | some t, some e => if e.live then none else some (t + e.dur + 32)
  | _, _ => none

/-- The engine leaves a bank to the DMA path in this tick: no reserved cycle now or in the next tick, and no lock of the
row. While the island is frozen only a lock that has begun counts, until the tick before the thaw (R207, R219, R332). -/
def engineYields (s : State) (c row : Nat) : Bool :=
  let t := s.ticks c
  let rs := (s.cluster c).resv
  let locked := rs.any fun x => x.row == row && x.lock != 0 && x.done && decide (t < x.start + x.lock)
  if s.frozen c then
    let near := match thawTick s c with
      | some h => decide (h ≤ s.now + 1)
      | none => false
    !locked && (!near || rs.all fun x => x.joined || bankOf x.row != bankOf row || decide (t < x.start) ||
      decide (x.start + 2 ≤ t))
  else !locked && cycleFree rs row t && rowUnlocked rs row t 2

/-- The access that a bank takes next: the oldest that has arrived; during a read, the oldest read of the same row, which joins
it (R207, R209). A row that an engine cycle is still writing is not yet free for another access (R208, R221). -/
def nextAccess (s : State) (c bank : Nat) : Option (BankAcc × Bool) :=
  let y := s.cluster c
  let mine := y.bankQ.filter fun a => bankOf a.row == bank && decide (a.atT ≤ s.now)
  match y.dmaBusy.find? fun d => bankOf d.row == bank && decide (s.now < d.until') with
  | some d =>
    if d.read then (mine.find? fun a => a.row == d.row && !workWrites a.work).map fun a => (a, true) else none
  | none =>
    match mine with
    | a :: _ =>
      if engineYields s c a.row && !y.resv.any (fun x => x.row == a.row && x.done && !x.moved && engWrites x) then some (a, false)
      else none
    | [] => none

/-- A row of a WBACK, once read, leaves for its destination (R233, R236). -/
def wbackSend (x : Xfer) (i : Nat) (data : Bytes) (s : State) : State :=
  let c := s.clusterOf x.core
  let ad := x.addr + 512 * i
  s.sendPkt { id := 0, src := c, dst := s.targetRouter c ad, dstEnd := memEnd ad, kind := .writeRow, plane := planeOf c i, vc := 0
              core := some x.core, xfer := x.id, row := i, addr := ad, data := data }

/-- What an access has done when it is over; `bad` says that its row could not be corrected. Such a read moves nothing and faults
the core that issued the access (R205). -/
def doAccess (c row : Nat) (w : BankWork) (bad : Bool) (s : State) : State :=
  let data := s.row c row
  match w with
  | .fillRow id i d => rowDone id i (unpend c row id (s.putRow c row d))
  | .windowWrite pid d =>
    match s.pkt pid with
    | some p => answer p .writeAck [] ((s.dropPkt pid).putRow c row d)
    | none => s
  | .landing lid => landWritten c lid s
  | .drawRead pid =>
    match s.pkt pid with
    | some p => answerRead p (stCode .fetch) data bad (s.dropPkt pid)
    | none => s
  | .wbackRead id i =>
    let s1 := unpend c row id s
    match s.xfer id with
    | some x => if bad then xferFault x.core id (stCode .store) (rowAddr c row) s1 else wbackSend x i data s1
    | none => s1
  | .kneadRead k id i =>
    if bad then xferFault k id (stCode .knead) (rowAddr c row) s else ksRead k id i row data s

/-- DMA_BANK_ACCESS_START: a bank begins the next cycle of its DMA path, or a read joins the one in progress: it reads what that
cycle reads, in the two ticks from now on (R207, R209). -/
def bankAccess (c bank : Nat) (ecc : Ecc) (s : State) : State :=
  match nextAccess s c bank with
  | none => s
  | some (a, joins) =>
    let w := (a.work, s.now + 2)
    s.onCluster c fun y =>
      { y with
        bankQ := dropFirst (fun b => decide (b = a)) y.bankQ
        dmaBusy := if joins then
            mapFirst (fun d => bankOf d.row == bank && decide (s.now < d.until')) (fun d => { d with works := d.works ++ [w] }) y.dmaBusy
          else
            let e := if workWrites a.work then .clean else ecc
            y.dmaBusy ++ [{ row := a.row, read := !workWrites a.work, until' := s.now + 2, ecc := e, works := [w] }] }

def execDmaBankAccessStart (c bank : Nat) (ecc : Ecc) (s : State) : Host.Outcome State Fault Refusal :=
  .next (bankAccess c bank ecc s)

/-- What the bank has done for a cycle by this tick: its corrector counts once, at its end, and what has been served is over. -/
def DmaCycle.after (now : Nat) (d : DmaCycle) : DmaCycle :=
  { d with counted := d.counted || decide (d.until' ≤ now), works := d.works.filter fun w => decide (now < w.2) }

/-- The DMA-path cycles of a cluster that are over, and the accesses that are over with them, have done their work (R205, R207,
R209, R214). -/
def dmaFinish (c : Nat) (s : State) : State :=
  let ds := (s.cluster c).dmaBusy.filter fun d => decide (d.until' ≤ s.now)
  if ds.isEmpty then s
  else
    let s1 := s.onCluster c fun y =>
      { y with dmaBusy := (y.dmaBusy.map (DmaCycle.after s.now)).filter fun d => decide (s.now < d.until') || !d.works.isEmpty }
    ds.foldl (fun s d =>
      let s2 := if d.counted then s else countEcc c d.ecc s
      (d.works.filter fun w => decide (w.2 ≤ s.now)).foldl (fun s w => doAccess c d.row w.1 (d.ecc == .uncorrectable) s) s2) s1

end Sys2Proof.Machine
end

