-- ==== Sys2Proof/Machine/Hold.lean ====
section
/-! DEFINITION. Episodes of Holds: freezing, thawing and the limit (R330–R335), the token meters (R356–R363), and the window
samples of the monitors (R417). -/

namespace Sys2Proof.Machine

/-! ### Episodes (R330, R331) -/

/-- The first episode that has not reached an island yet, and whose propagation has come. -/
def arriving (s : State) (c : Nat) : Option Episode :=
  s.hold.eps.find? fun e => (mfind e.froze c).isNone && !e.thawed.contains c && decide (e.u0 + 16 ≤ s.now)

/-- Rewrite one episode. -/
def onEpisode (u0 : Nat) (f : Episode → Episode) (s : State) : State :=
  { s with hold := { s.hold with eps := s.hold.eps.map fun e => if e.u0 = u0 then f e else e } }

/-- HOLD_FREEZE: the propagation reaches an island 16 ticks after the first raise (R330). -/
def holdFreeze (c : Nat) (s : State) : State :=
  match arriving s c with
  | some e =>
    if s.frozen c || nIslands ≤ c then s
    else
      let at' := e.u0 + 16
      let s1 := onEpisode e.u0 (fun e => { e with froze := mset e.froze c at' }) s
      { s1 with hold := { s1.hold with islands := mset s1.hold.islands c { s1.island c with since := some at' } } }
  | none => s

def execHoldFreeze (c : Nat) (s : State) : Host.Outcome State Fault Refusal := .next (holdFreeze c s)

/-- The raises of services that waited for the end of an episode are detected in this tick: they join an episode that an island has
begun meanwhile, begin one, or wait on for the end of one whose causes are over too (R330). -/
def raiseNext (s : State) : State :=
  let put := fun (u : Nat) => s.hold.next.map fun (r : Raiser) => { r with s := u + 16 }
  if s.hold.next.isEmpty then s
  else
    match s.hold.eps.getLast? with
    | some e =>
      if e.live then
        { s with hold := { s.hold with next := [], eps := s.hold.eps.dropLast ++ [{ e with raisers := e.raisers ++ put e.u0 }] } }
      else s
    | none => { s with hold := { s.hold with next := [], eps := [{ u0 := s.now, raisers := put s.now, timed := s.holdTimed }] } }

/-- What is recorded when an episode has ended: its length, the continuing faults its raisers owe, and the raises that
waited for the end (R299, R330, R333, R362, R417). -/
def episodeEnd (e : Episode) (s : State) : State :=
  let s1 : State := { s with hold := { s.hold with eps := s.hold.eps.filter (fun x => x.u0 != e.u0), lastEnd := s.now } }
  let s2 := monSample 42 (e.dur + 32) s1
  let s3 := (e.raisers.filterMap (·.owes)).foldl (fun s o => recordRecov o.1 0x0A o.2.1 o.2.2.1 o.2.2.2 s) s2
  raiseNext (s3.allCores.foldl (fun s k =>
    match (s.core k).braid.owes with
    | some (layer, op) =>
      contFault k 0x0E 2 layer op [] (s.onCore k fun c => { c with braid := { c.braid with owes := none } })
    | none => s) s3)

/-- HOLD_THAW: an island thaws D + 32 ticks after it froze; its engine cycles go on at the tick where it stood (R331,
R332). -/
def holdThaw (c : Nat) (s : State) : State :=
  match (s.island c).since, episodeOf s c with
  | some t, some e =>
    if e.live || s.now < t + e.dur + 32 then s
    else
      let isl : Island := { frozen := (s.island c).frozen + (e.dur + 32), since := none }
      let s1 : State := { s with hold := { s.hold with islands := mset s.hold.islands c isl } }
      let s2 := onEpisode e.u0 (fun e => { e with thawed := e.thawed ++ [c] }) s1
      let s3 := if nIslands ≤ e.thawed.length + 1 then episodeEnd e s2 else s2
      engineRun c s3
  | _, _ => s

def execHoldThaw (c : Nat) (s : State) : Host.Outcome State Fault Refusal := .next (holdThaw c s)

/-! ### The limit (R335) -/

/-- Ticks of the Hold limit: 1,024 units when the launch block gives 0. -/
def holdLimitTicks (s : State) : Nat :=
  let n := s.curCtx.launch.holdLimit.toNat
  (if n = 0 then 1024 else n) * 65536

/-- Ticks of an episode that count against the limit. -/
def Episode.counted (e : Episode) (now : Nat) : Nat := now - e.u0 - e.debugTicks

/-- The cause of the raiser with the largest c + 1 − s, or of one that has not cleared. -/
def worstCause (e : Episode) : BitVec 4 :=
  match e.raisers.find? fun r => r.clear.isNone with
  | some r => r.cause
  | none =>
    match e.raisers with
    | [] => 0
    | r :: rest =>
      (rest.foldl (fun a x => if a.clear.getD 0 + 1 - a.s < x.clear.getD 0 + 1 - x.s then x else a) r).cause

/-- HOLD_LIMIT: the cores that the episode froze fault, one record is written, and every cause counts as cleared. The
episode is timed to its end, the 32 ticks after its causes among them. -/
def holdLimit (s : State) : State :=
  match s.hold.eps.find? fun e => e.timed && !e.limited && decide (holdLimitTicks s ≤ e.counted s.now) with
  | some e =>
    let len := (s.now - e.u0) / 65536
    let cause := worstCause e
    let ks := s.allCores.filter fun k =>
      (mfind e.froze (s.clusterOf k)).isSome && decide ((s.core k).seq.st ≠ .idle)
    let s1 := ks.foldl (fun s k =>
      coreFault k { code := 0x11, detail := packWord [(frozenReason s e k, 0), (cause.toNat, 8), (len, 16)] } s) s
    let s2 := crumb { severity := 3, source := 0, code := 0x0204, ctx := s.cur,
                      detail := leBytes 4 cause.toNat ++ leBytes 4 len } s1
    onEpisode e.u0 (fun e =>
      { e with limited := true
               raisers := e.raisers.map fun r => if r.clear.isNone then { r with clear := some s.now } else r }) s2
  | none => s

def execHoldLimit (s : State) : Host.Outcome State Fault Refusal := .next (holdLimit s)

/-- One real tick of the episodes: ticks whose only cause is DEBUG do not count against the limit (R335). -/
def holdTick (s : State) : State :=
  { s with hold := { s.hold with eps := s.hold.eps.map fun e =>
      let open' := e.raisers.filter fun r => r.clear.isNone
      if !open'.isEmpty && open'.all (fun r => r.cause == causeDebug) then { e with debugTicks := e.debugTicks + 1 }
      else e } }

/-! ### THERMAL (R487) -/

/-- THERMAL_CAUSE_CLEAR: 49,151 ticks after the tick in which its island froze. -/
def execThermalCauseClear (s : State) : Host.Outcome State Fault Refusal :=
  let f := fun (r : Raiser) =>
    if r.who == .mgmt && r.cause == causeThermal && r.clear.isNone && decide (r.s + 49151 ≤ s.now) then
      { r with clear := some (r.s + 49151) }
    else r
  .next { s with hold := { s.hold with eps := s.hold.eps.map fun e => { e with raisers := e.raisers.map f } } }

/-! ### Meters (R359, R362, R363) -/

/-- Tokens per tick of a budget of the running context. -/
def budgetOf (s : State) (b : Option Nat) : Nat :=
  match b with
  | some c => mget s.curCtx.bin.budgets c 0
  | none => s.curCtx.bin.shared

/-- Ticks from a charge to its entry: 4 for a cluster budget, 12 for the shared one. -/
def entryDelay (b : Option Nat) : Nat :=
  match b with
  | some _ => 4
  | none => 12

/-- The sum of the charges entered in the last 256 real ticks. -/
def windowSum (s : State) (b : Option Nat) : Nat :=
  s.meter.charges.foldl (fun a x =>
    if x.budget = b && decide (x.atT + entryDelay b ≤ s.now) && decide (s.now < x.atT + entryDelay b + 256) then a + x.tokens
    else a) 0

/-- One real tick of the meters: the charges of runs of ticks and of open maintenance slots occur, and charges that have
left the window are forgotten (R357, R358). -/
def meterTick (s : State) : State :=
  let new := s.meter.spans.filterMap fun x =>
    let t := s.ticks x.cluster
    if !s.frozen x.cluster && decide (x.start ≤ t) && decide (t < x.start + x.ticks) then
      some ({ atT := s.now, budget := some x.cluster, tokens := x.tokens, core := some x.core, st := x.st, layer := x.layer,
              op := x.op } : Charge)
    else none
  let open' := (s.drams.filter fun e => !e.2.slots.isEmpty).length
  let scrub : List Charge :=
    if open' = 0 then [] else [{ atT := s.now, budget := none, tokens := 1450 * open', core := none, st := 0, layer := 0, op := 0 }]
  { s with meter := { s.meter with
      spans := s.meter.spans.filter fun x => decide (s.ticks x.cluster < x.start + x.ticks)
      charges := (s.meter.charges.filter fun x => decide (s.now < x.atT + 268)) ++ new ++ scrub } }

/-- The core whose charge, entered in this tick, is largest; ties go to the lower core (R362). -/
def largestCharge (s : State) (b : Option Nat) : Option (Nat × Charge) :=
  let xs := s.meter.charges.filterMap fun x =>
    if x.budget = b && x.atT + entryDelay b == s.now then x.core.map fun k => (k, x) else none
  match xs with
  | [] => none
  | y :: ys => some (ys.foldl (fun a x =>
      if a.2.tokens < x.2.tokens || (a.2.tokens == x.2.tokens && decide (x.1 < a.1)) then x else a) y)

/-- Number of a budget in a record: its cluster, or 96 for the shared one. -/
def budgetNo : Option Nat → Nat
  | some c => c
  | none => 96

/-- POWER_OVERDRAW: a window sum exceeds 256 times its budget (R362). The record holds the budget and the sum ÷ 256. -/
def overdraw (b : Option Nat) (s : State) : State :=
  let sum := windowSum s b
  if s.cur.isNone || s.meter.drawn.contains b || sum ≤ 256 * budgetOf s b then s
  else
    let owes := (largestCharge s b).map fun p => (p.1, p.2.st, p.2.layer, p.2.op)
    let s1 := raiseService (.budget b) causePower owes s
    let s2 : State := { s1 with meter := { s1.meter with drawn := s1.meter.drawn ++ [b] } }
    crumb { severity := 2, source := 0, code := 0x0203, ctx := s.cur,
            detail := leBytes 4 0x0A ++ leBytes 1 (budgetNo b) ++ leBytes 3 (sum / 256) } s2

def execPowerOverdraw (budget : Option Nat) (s : State) : Host.Outcome State Fault Refusal := .next (overdraw budget s)

/-- OVERDRAW_CAUSE_CLEAR: the sum is at most 128 times the budget (R362). -/
def execOverdrawCauseClear (budget : Option Nat) (s : State) : Host.Outcome State Fault Refusal :=
  .next (if s.meter.drawn.contains budget && decide (windowSum s budget ≤ 128 * budgetOf s budget) then
    clearCause (fun r => r.who == .budget budget)
      { s with meter := { s.meter with drawn := s.meter.drawn.filter (· != budget) } }
  else s)

/-- Die of a cluster (R24). -/
def dieOf (c : Nat) : Nat := bnat (decide (6 ≤ rtX c)) + 2 * bnat (decide (4 ≤ rtY c))

/-- MONITOR_WINDOW_SAMPLE: the metered window sums ÷ 256, every 256 real ticks (R417). -/
def execMonitorWindowSample (s : State) : Host.Outcome State Fault Refusal :=
  .next (if sampleDue 256 s.now s.mon.windowAt then
    let s1 := monSample 47 (windowSum s none / 256) s
    (List.range 4).foldl (fun t d =>
      let best := (List.range nIslands).foldl (fun a c => if dieOf c = d then max a (windowSum s (some c)) else a) 0
      monSample (48 + d) (best / 256) t) { s1 with mon := { s1.mon with windowAt := s.now + 1 } }
  else s)

end Sys2Proof.Machine
end

