-- ==== Sys2Proof/Machine/Reply.lean ====
section
/-! DEFINITION. Replies, events on their way out, tags, and long-running operations (R427–R429, R432, R442, R535). -/

namespace Sys2Proof.Machine

/-- The command packet is protected under a session (R427). -/
def Pending.enc (p : Pending) : Bool := (hFlags p.hdr) % 2 == 1

/-- The first reply to a command: monitor 59 takes the ticks since its packet arrived (R443). The last reply ends the
tag. -/
def replyAs (enc : Bool) (p : Pending) (status : Nat) (params payload : Bytes) (final : Bool) (s : State) : State :=
  let pl := blockPad payload
  let s1 := sendReply p.iface enc (replyHdr p.hdr status pl.length params) pl s
  let s2 := monSample 59 (s.now - p.atT) s1
  if final then dropTag p.iface (hTag p.hdr) s2 else s2

/-- A reply, protected if its command was. -/
def reply (p : Pending) (status : Nat) (params payload : Bytes) (final : Bool) (s : State) : State :=
  replyAs p.enc p status params payload final s

/-- A reply with a status alone. -/
def replySt (p : Pending) (status : Nat) (s : State) : State := reply p status [] [] true s

/-- A refusal at checks 1 to 4: in plaintext, with no payload (R466). -/
def refuse (p : Pending) (status : Nat) (s : State) : State := replyAs false p status [] [] true s

/-! ### Long-running operations (R396, R432, R434) -/

/-- Kind of an operation: bits [31:24] of its ID. -/
def opKind (o : Op) : Nat := bits o.id.toNat 24 8

/-- Kind 0x80: the long-running commands that the arbiter never compares (R432). -/
def kindOther : Nat := 0x80

/-- Admit an operation: its ID counts the admissions since power-up (R396, R432). -/
def enterOp (p : Pending) (kind : Nat) (s : State) : BitVec 32 × State :=
  let n := s.host.opSeq + 1
  let id := BitVec.ofNat 32 (kind * 2 ^ 24 + n % 2 ^ 24)
  let o : Op :=
    { id := id, iface := p.iface, tag := hTag p.hdr, ctx := BitVec.ofNat 2 (hCtx p.hdr), opcode := BitVec.ofNat 16 (hOp p.hdr)
      num := p.num, enc := p.enc }
  (id, s.onHost fun h => { h with opSeq := n, ops := h.ops ++ [o] })

/-- ACCEPTED with an operation ID in bytes 12 to 15 (R428, R432). -/
def accept (p : Pending) (kind : Nat) (s : State) : BitVec 32 × State :=
  let (id, s1) := enterOp p kind s
  (id, reply p stAccepted (leBytes 4 id.toNat) [] false s1)

end Sys2Proof.Machine
end

