-- ==== Sys2Proof/Machine/Context.lean ====
section
/-! DEFINITION. What a context keeps when it is switched out, and what it finds when it starts again (R86, R88, R171, R217,
R218, R286, R405, R409, R531); the start of execution of a context (R437–R439). -/

namespace Sys2Proof.Machine

/-! ### The keys of DRAM (R463, R473) -/

/-- The rows of DRAM that an open sweep has rewritten: those of the journaled chunks and those below the watermark (R399). -/
def rekeyMark (s : State) : Nat := s.sec.rekeyJournal * 2097152 + s.sec.rekeyRow

/-- The key under which the row at an address is stored: that of the context whose sealed range holds it, and in an open sweep the old
one from the watermark on; outside every sealed range none (R463, R473). -/
def rowKey (s : State) (a : Nat) : Option Bytes :=
  (List.range 4).findSome? fun i =>
    let x := (s.ctx i).sec
    if x.key.isEmpty || !(x.ranges.any fun r => decide (r.1 ≤ a) && decide (a < r.1 + r.2)) then none
    else some (if s.sec.rekeyOpen && decide (rekeyMark s ≤ a / 512) then x.oldKey else x.key)

/-- What the DRAM array holds of a row. `mem` holds what an access to it gives, through the crypto engine of its stack: the tweak is
the address in rows (R463). -/
def storedRow (s : State) (a : Nat) : Bytes :=
  match rowKey s a with
  | some k => xtsEnc k (a / 512) (memBytes s.mem a 512)
  | none => memBytes s.mem a 512

/-- What an access gives of a row that the array holds. -/
def seenRow (s : State) (a : Nat) (stored : Bytes) : Bytes :=
  match rowKey s a with
  | some k => xtsDec k (a / 512) stored
  | none => stored

/-- The rows of the sealed ranges of every context. -/
def sealedRows (s : State) : List Nat :=
  (List.range 4).flatMap fun i => (s.ctx i).sec.ranges.flatMap fun r => (List.range (r.2 / 512)).map fun j => r.1 + 512 * j

/-- The keys or the sealed ranges of a context change, and the array does not: an access to a row of the old or the new ranges gives
what the new key makes of it (R463, R471, R473). -/
def changeKeys (i : Nat) (f : SecCtx → SecCtx) (s : State) : State :=
  let s1 := s.onCtx i fun c => { c with sec := f c.sec }
  { s1 with mem := (sealedRows s ++ sealedRows s1).foldl (fun m a =>
      if rowKey s a = rowKey s1 a then m else memWrite m a (seenRow s1 a (storedRow s a))) s.mem }

/-- A context has no key and no sealed range any more. -/
def SecCtx.noKey (x : SecCtx) : SecCtx := { x with keyId := 0, key := [], oldKey := [], ranges := [] }

/-! ### The save (R86, R217) -/

/-- A row of a ring that a save takes: the reserved rows of a FIFO ring, every row of a RESIDENT or ACCUMULATE ring. -/
def Ring.saves (r : Ring) (t row : Nat) : Bool :=
  r.mode != 0 && decide (r.base ≤ row) && decide (row < r.base + r.size) &&
    (r.mode != 1 || decide ((row - r.base + r.size - r.slowest t % r.size) % r.size < r.tail - r.slowest t))

/-- A byte of cluster memory that a save takes. -/
def State.savesByte (s : State) (a : Nat) : Bool :=
  match windowOf a with
  | some (c, o) => (s.cluster c).rings.any fun e => e.2.saves (s.ticks c) (o / 512)
  | none => false

/-- Cells of the local store in the code and data regions. -/
def Core.regionCells (c : Core) : List Host.Cell := c.ls.filter fun e => c.inData e.1 1 || c.inCode e.1 1

/-- What is saved of one core (R86, R171, R286, R405). `CORE.LAST_PROOF_TAG` is not in the list of R86, and the manual does not say what it
reads after a context comes in: 0, as at a load (R91; DESIGN CHOICE, log entry 101). -/
def saveCore (c : Core) : Core :=
  { seq := { regs := c.seq.regs, preds := c.seq.preds, pc := c.seq.pc, stack := c.seq.stack }
    ls := c.regionCells, lsBad := c.lsBad, codeBase := c.codeBase, codeLimit := c.codeLimit
    dataBase := c.dataBase, dataLimit := c.dataLimit
    links := c.links.map fun e => (e.1, { cfg := e.2.cfg })
    nf := c.nf, recov := c.recov, lateCount := c.lateCount, lateFirst := c.lateFirst
    lv := { slots := c.lv.slots, taps := c.lv.taps }
    tx := c.tx.map fun e => (e.1, { e.2 with busy := false, full := 0 })
    rx := c.rx.map fun e => (e.1, { e.2 with freed := [] })
    obs := c.obs
    trc := { next := c.trc.next, wraps := c.trc.wraps, lost := c.trc.lost } }

/-- What is saved of one cluster: its rings and its histograms (R217, R409). -/
def saveCluster (x : Cluster) : Cluster :=
  { rings := x.rings.map fun e => (e.1, { e.2 with defer := [] }), census := x.census }

/-- The save of a context that the cores carry (R86). -/
def saveImage (i : Nat) (s : State) : SaveImage :=
  { cores := s.cores.map fun e => (e.1, saveCore e.2)
    clusters := s.clusters.map fun e => (e.1, saveCluster e.2)
    rows := s.mem.filter fun c => s.savesByte c.1
    census := (List.range 20).map fun p => (p, (s.port p).census)
    skew := s.obs.skew
    w := (s.ctx i).w, fab := (s.ctx i).fabN }

/-- The first granule of the save area of a Sealed context: the header in plaintext, and zeros (R471). -/
def saveGranule (x : SecCtx) : Bytes := padTo 8192 (padTo 512 (Config.saveHeader x.sealed x.keyId))

/-- Keep a saved context in its save area, where CTX_RESTORE finds it (R86, R391); that of a Sealed context begins with its plaintext
granule (R471). -/
def keepImage (i : Nat) (img : SaveImage) (s : State) : State :=
  let c := s.ctx i
  let x : SavedCtx :=
    { img := img, bin := c.bin, launch := c.launch, xlat := mget s.sync.xlat i [], keyId := c.sec.keyId
      isSealed := c.sec.sealed }
  { s with
    images := mset s.images c.bin.saveAddr x
    mem := if c.sec.sealed then memWrite s.mem c.bin.saveAddr (saveGranule c.sec) else s.mem }

/-! ### The install (R86, R88, R217) -/

/-- The contents that a context brings to a core. The registers that only the host clears keep their values. -/
def installCore (old new : Core) : Core :=
  { new with
    links := new.links.map fun e => (e.1, Link.reset e.2)
    lv := { new.lv with drop := old.lv.drop, miss := old.lv.miss }
    tx := new.tx.map fun e => (e.1, { e.2 with full := (mget old.tx e.1 {}).full }) }

/-- The contents that a context brings to a cluster; its counters keep their values. -/
def installCluster (old new : Cluster) : Cluster :=
  { old with
    rings := new.rings, census := new.census, pend := [], resv := [], krecvs := [], cells := [] }

/-- Every cell of the module is cleared (R272). -/
def clearCells (s : State) : State :=
  { s with
    clusters := s.clusters.map fun e => (e.1, { e.2 with cells := [] })
    sync := { s.sync with mcells := [], tcells := [], fcells := [] } }

/-- A context's image goes to the cores, the cluster memories and the cells; every row it does not hold becomes 0. Bulk transfers of
the host go on, and rows on their way to a Lattice port or to DRAM. -/
def install (i : Nat) (img : SaveImage) (s : State) : State :=
  let s1 : State :=
    { s with
      cores := s.allCores.map fun k => (k, installCore (s.core k) (mget img.cores k {}))
      clusters := (List.range nIslands).map fun c =>
        (c, { installCluster (s.cluster c) (mget img.clusters c {}) with bankQ := (s.cluster c).bankQ.filter s.hostAcc })
      mem := (s.mem.filter fun c => decide (c.1 < windowBase)) ++ img.rows
      xfers := []
      sync := { s.sync with sigs := [], msgs := [] }
      obs := { s.obs with skew := img.skew }
      onCores := some i }
  let s2 := (List.range 20).foldl (fun s p => s.onPort p fun q => { q with census := mget img.census p [] })
    (s1.keepPkts fun p => p.bulk.isSome || p.kind == .kneadRow && p.lat.isSome || p.kind == .writeRow && p.dstEnd == .stack)
  clearCells (s2.onCtx i fun c => { c with w := img.w, fabN := img.fab })

/-- Before another context takes the cores, what the one there leaves is kept, in its save area too, unless its save is already made
(R86). -/
def displace (i : Nat) (s : State) : State :=
  match s.onCores with
  | some j =>
    if j = i || (s.ctx j).st = .switched then s
    else
      let img := saveImage j s
      keepImage j img (s.onCtx j fun c => { c with save := some img })
  | none => s

/-- The context's image is on the cores, or goes there. -/
def bringIn (i : Nat) (s : State) : State :=
  if s.onCores = some i && (s.ctx i).st ≠ .switched then s
  else
    match (s.ctx i).save with
    | some img => install i img (displace i s)
    | none => s

/-! ### Memory that a test leaves -/

/-- The cells of the given ranges become free values (log entry 2). -/
def scrambleCells (rs : List (Nat × Nat)) : List Host.Cell → State → List Host.Cell × State
  | [], s => ([], s)
  | (a, b) :: rest, s =>
    let (rest', s1) := scrambleCells rs rest s
    if rs.any fun r => decide (r.1 ≤ a) && decide (a < r.1 + r.2) then
      let (w, s2) := s1.drawFree
      let v : Byte := w.setWidth 8
      (if v = memDefault then rest' else (a, v) :: rest', s2)
    else ((a, b) :: rest', s1)

/-! ### Start of execution (R402, R411, R414, R437, R438) -/

/-- The operands of an entry Proof: it carries no words and no tag; its scope depends on the job (R438). -/
def entryArg (c : Ctx) : ProofArg :=
  { scope := if c.bin.members.length ≤ 1 then 1 else 3, tag := 0, orSrc := 0, andSrc := 0, orDst := 0, andDst := 0 }

/-- The trace of a job: the planned one of its launch, or the unplanned one that TRACE_CTL has enabled, on `n` cores.
Address-compatibility mode is on when the launch or the TRACE_CTL sets it (R411, R414, R415, R507, R512). -/
def setTrace (l : Launch) (u : Option UTrace) (n : Nat) (o : ObsSt) : ObsSt :=
  let compat := l.flags.getLsbD 10
  if l.flags.getLsbD 5 then
    { o with trace := 1, share := BitVec.ofNat 4 (bits l.flags.toNat 6 4), compat := compat, traceBase := l.traceBase
             traceRows := l.traceSize / 512 / n }
  else
    match u with
    | some u => { o with trace := 2, share := 0, compat := compat || u.compat, traceBase := u.base, traceRows := u.size / 512 / n }
    | none => { o with trace := 0, share := 0, compat := compat }

/-- The launch block sets the collision check, the observation mode and the trace; an unplanned trace of a context that comes in again
goes on (R437, R512). -/
def applyLaunch (i : Nat) (s : State) : State :=
  let l := (s.ctx i).launch
  let s1 : State := { s with
    clusters := s.clusters.map fun e => (e.1, { e.2 with collCheck := l.flags.getLsbD 0 }) }
  s1.onObs fun o =>
    { setTrace l (s.ctx i).utrace s.allCores.length { o with traceBase := 0, traceRows := 0 } with
      mode := BitVec.ofNat 2 (bits l.flags.toNat 3 2), snapBase := l.snapBase, snapSlots := l.snapSlots, pendTrace := [] }

/-- A launch clears the counters, the layer tables, the histograms and the counts of the module's rings (R405, R406, R409, R410,
R421). -/
def launchClear (s : State) : State :=
  let s1 : State := { s with
    cores := s.cores.map fun e => (e.1, { e.2 with obs := {}, trc := {} })
    clusters := s.clusters.map fun e => (e.1, { e.2 with census := [] })
    ports := s.ports.map fun e => (e.1, { e.2 with census := [] }) }
  s1.onObs fun o => { o with skew := [], snapN := 0, evN := 0 }

/-- A context becomes RUNNING: every core runs toward the entry Proof, where it arrives 4,096 ticks later (R438); sealed
residency begins or ends (R468). -/
def startCtx (i : Nat) (op : BitVec 32) (s : State) : State :=
  let s0 := clearCells (bringIn i s)
  let s1 := applyLaunch i (if (s.ctx i).launched then s0
    else launchClear (s0.onCtx i fun c => { c with utrace := none, traced := [] }))
  let arg := entryArg (s1.ctx i)
  let s2 : State := { s1 with
    cores := s1.cores.map fun e => (e.1, { e.2 with seq := { e.2.seq with st := .running, wait := .proof arg, proof := arg } })
    proof := { entry := some i, entryAt := some (s.now + 4096), phaseStart := s.now, trayIn := s1.proof.trayIn
               fabIn := s1.proof.fabIn } }
  let s3 := s2.onSec fun x => { x with resident := if (s.ctx i).launch.flags.getLsbD 2 then some i else none }
  setCtxSt i .running (s3.onCtx i fun c => { c with launched := true, launchOp := some op })

end Sys2Proof.Machine
end

