-- ==== Sys2Proof/Machine/Seq.lean ====
section
/-! DEFINITION. The sequencer's arithmetic, local-store, predicate and flow instructions, debug halt, and the writes of
`CORE.CTRL` (R60–R66, R72, R73, R77, R83–R85, R90). -/

namespace Sys2Proof.Machine

/-! ### One instruction -/

/-- The sequencer of a core can execute its next instruction: the core is RUNNING, its island is not frozen, no wait is
in progress, and the island tick and the phase tick it was given have come (R66, R71, R77, R332). -/
def seqFree (k : Nat) (s : State) : Bool :=
  let q := (s.core k).seq
  decide (q.st = .running) && !s.coreFrozen k && decide (q.wait = .none) && decide (q.ready ≤ s.coreTick k) &&
    decide (q.tickTo ≤ s.phase k)

/-- The instruction word at an address of the local store (R14, R62). -/
def Core.word (c : Core) (a : Nat) : BitVec 32 := BitVec.ofNat 32 (memNat c.ls a 4)

/-- The word at the PC and, where the code region holds one with good parity, the word after it (R62, R73). -/
def State.fetched (s : State) (k : Nat) : BitVec 32 × BitVec 32 :=
  let c := s.core k
  let a := c.seq.pc.toNat
  (c.word a, if c.inCode (a + 4) 4 && !c.parityBad (a + 4) 4 then c.word (a + 4) else 0)

/-- The word at the core's PC names this instruction (R62–R65). -/
def State.names (s : State) (k : Nat) (i : Instr) : Bool :=
  decide (seqDecode k (s.fetched k).1 (s.fetched k).2 = some i)

/-- Move past an instruction that occupies `occ` ticks (R65, R66). -/
def seqNext (k occ : Nat) (s : State) : State :=
  s.onSeq k fun q => { q with pc := q.pc + 4, ready := s.coreTick k + occ, tickAt := none }

/-- A fault of the sequencer: station, layer, operator and command read 0 (R82, R94). -/
def seqFault (k : Nat) (code : BitVec 8) (detail : Word) (s : State) : State :=
  coreFault k { code := code, pcWord := BitVec.ofNat 16 ((s.core k).seq.pc.toNat / 4), detail := detail } s

/-- ILLEGAL_OP of the sequencer (R80). -/
def seqIllegal (k sub value : Nat) (s : State) : State := seqFault k 0x01 (illegal sub value) s

/-- LS_BOUNDS with its access kind and address (R79). -/
def lsBounds (k kind a : Nat) (s : State) : State :=
  seqFault k 0x02 (packWord [(kind, 60), (a % 2 ^ 18, 0)]) s

/-- ECC_UNCORRECTABLE of the local store (R73, R79). -/
def lsParity (k a : Nat) (s : State) : State := seqFault k 0x0C (packWord [(5, 60), (a % 2 ^ 18, 0)]) s

/-- The first instruction of the bundle being read (R80). -/
def bundleFirst (q : Seq) : Nat :=
  match q.bundle with
  | b :: _ => b.pcw
  | [] => q.pc.toNat / 4

/-- An instruction that is neither ISSUE nor ISSUER breaks the bundle being read: BUNDLE, with the PC at the bundle's first
instruction (R68, R80). -/
def bundleBroken (k : Nat) (s : State) : State :=
  let w := bundleFirst (s.core k).seq
  seqIllegal k 0x0B w (s.onSeq k fun q => { q with pc := BitVec.ofNat 18 (4 * w), bundle := [] })

/-- The fetch: outside the code region, or with bad parity, it faults; a core whose word is not the one that `named` asks
for executes nothing (R62, R73). -/
def seqAt (k : Nat) (named : Bool) (go : State → State) (s : State) : State :=
  let c := s.core k
  if seqFree k s then
    if !c.inCode c.seq.pc.toNat 4 then lsBounds k 0 c.seq.pc.toNat s
    else if c.parityBad c.seq.pc.toNat 4 then lsParity k c.seq.pc.toNat s
    else if named then go s
    else s
  else s

/-- An instruction other than ISSUE and ISSUER: the rule that a bundle holds only those (R68); then the guard; then the
operands; then the body. A guarded instruction adds an outcome to the trace (R413): `own` says that the body adds its own,
as a conditional branch does. -/
def seqBody (k : Nat) (g : Guard) (srcs : List (BitVec 5)) (own : Bool) (body : State → State) (s : State) : State :=
  let c := s.core k
  if !c.seq.bundle.isEmpty then bundleBroken k s
  else if !c.seq.guard g then seqNext k 1 (traceOutcome k false s)
  else if !c.seq.usable srcs (s.coreTick k) then s
  else if guardAlways g || own then body s
  else body (traceOutcome k true s)

/-- One instruction: the core fetches it, and executes it if its word names it. -/
def seqInstr (k : Nat) (i : Instr) (g : Guard) (srcs : List (BitVec 5)) (own : Bool) (body : State → State) (s : State) :
    State :=
  seqAt k (s.names k i) (seqBody k g srcs own body) s

/-- The value of a register of a core. -/
def rg (k : Nat) (r : BitVec 5) (s : State) : Word := (s.core k).seq.reg r

/-- Write the result of an arithmetic instruction, usable after `lat` ticks, and move on (R65, R66). -/
def seqWrite (k : Nat) (rd : BitVec 5) (v : Word) (lat : Nat) (s : State) : State :=
  seqNext k 1 (s.onSeq k (Seq.setReg rd v (s.coreTick k + lat)))

/-- An arithmetic instruction of format R. -/
def aluR (k : Nat) (i : Instr) (g : Guard) (rd ra rb : BitVec 5) (f : Word → Word → Word) (s : State) : State :=
  seqInstr k i g [ra, rb] false (fun s => seqWrite k rd (f (rg k ra s) (rg k rb s)) 1 s) s

/-- A multiply: its result is usable after 3 ticks, 4 on A1 (R66). -/
def aluMul (k : Nat) (i : Instr) (g : Guard) (rd ra rb : BitVec 5) (f : Word → Word → Word) (s : State) : State :=
  seqInstr k i g [ra, rb] false (fun s => seqWrite k rd (f (rg k ra s) (rg k rb s)) (s.table 3 4) s) s

/-- An arithmetic instruction of format I. -/
def aluI (k : Nat) (i : Instr) (g : Guard) (rd ra : BitVec 5) (f : Word → Word) (s : State) : State :=
  seqInstr k i g [ra] false (fun s => seqWrite k rd (f (rg k ra s)) 1 s) s

/-! ### ALU operations (R65) -/

/-- Signed minimum. -/
def sminW (a b : Word) : Word := if BitVec.slt a b then a else b
/-- Signed maximum. -/
def smaxW (a b : Word) : Word := if BitVec.slt a b then b else a
/-- Unsigned minimum. -/
def uminW (a b : Word) : Word := if BitVec.ult a b then a else b
/-- Unsigned maximum. -/
def umaxW (a b : Word) : Word := if BitVec.ult a b then b else a
/-- The shift count in bits [5:0] of a register. -/
def shamt (b : Word) : Nat := (b.extractLsb' 0 6).toNat
/-- High 64 bits of the signed 128-bit product. -/
def mulHigh (a b : Word) : Word := (a.signExtend 128 * b.signExtend 128).extractLsb' 64 64
/-- High 64 bits of the unsigned 128-bit product. -/
def mulHighU (a b : Word) : Word := (a.zeroExtend 128 * b.zeroExtend 128).extractLsb' 64 64

def execAdd (k : Nat) (g : Guard) (rd ra rb : BitVec 5) (s : State) : Host.Outcome State Fault Refusal :=
  .next (aluR k (.add k g rd ra rb) g rd ra rb (· + ·) s)
def execSub (k : Nat) (g : Guard) (rd ra rb : BitVec 5) (s : State) : Host.Outcome State Fault Refusal :=
  .next (aluR k (.sub k g rd ra rb) g rd ra rb (· - ·) s)
def execAnd (k : Nat) (g : Guard) (rd ra rb : BitVec 5) (s : State) : Host.Outcome State Fault Refusal :=
  .next (aluR k (.and k g rd ra rb) g rd ra rb (· &&& ·) s)
def execOr (k : Nat) (g : Guard) (rd ra rb : BitVec 5) (s : State) : Host.Outcome State Fault Refusal :=
  .next (aluR k (.or k g rd ra rb) g rd ra rb (· ||| ·) s)
def execXor (k : Nat) (g : Guard) (rd ra rb : BitVec 5) (s : State) : Host.Outcome State Fault Refusal :=
  .next (aluR k (.xor k g rd ra rb) g rd ra rb (· ^^^ ·) s)
def execSll (k : Nat) (g : Guard) (rd ra rb : BitVec 5) (s : State) : Host.Outcome State Fault Refusal :=
  .next (aluR k (.sll k g rd ra rb) g rd ra rb (fun a b => a <<< shamt b) s)
def execSrl (k : Nat) (g : Guard) (rd ra rb : BitVec 5) (s : State) : Host.Outcome State Fault Refusal :=
  .next (aluR k (.srl k g rd ra rb) g rd ra rb (fun a b => a >>> shamt b) s)
def execSra (k : Nat) (g : Guard) (rd ra rb : BitVec 5) (s : State) : Host.Outcome State Fault Refusal :=
  .next (aluR k (.sra k g rd ra rb) g rd ra rb (fun a b => a.sshiftRight (shamt b)) s)
def execMin (k : Nat) (g : Guard) (rd ra rb : BitVec 5) (s : State) : Host.Outcome State Fault Refusal :=
  .next (aluR k (.min k g rd ra rb) g rd ra rb sminW s)
def execMax (k : Nat) (g : Guard) (rd ra rb : BitVec 5) (s : State) : Host.Outcome State Fault Refusal :=
  .next (aluR k (.max k g rd ra rb) g rd ra rb smaxW s)
def execMinu (k : Nat) (g : Guard) (rd ra rb : BitVec 5) (s : State) : Host.Outcome State Fault Refusal :=
  .next (aluR k (.minu k g rd ra rb) g rd ra rb uminW s)
def execMaxu (k : Nat) (g : Guard) (rd ra rb : BitVec 5) (s : State) : Host.Outcome State Fault Refusal :=
  .next (aluR k (.maxu k g rd ra rb) g rd ra rb umaxW s)
def execMul (k : Nat) (g : Guard) (rd ra rb : BitVec 5) (s : State) : Host.Outcome State Fault Refusal :=
  .next (aluMul k (.mul k g rd ra rb) g rd ra rb (· * ·) s)
def execMulh (k : Nat) (g : Guard) (rd ra rb : BitVec 5) (s : State) : Host.Outcome State Fault Refusal :=
  .next (aluMul k (.mulh k g rd ra rb) g rd ra rb mulHigh s)
def execMulhu (k : Nat) (g : Guard) (rd ra rb : BitVec 5) (s : State) : Host.Outcome State Fault Refusal :=
  .next (aluMul k (.mulhu k g rd ra rb) g rd ra rb mulHighU s)
def execAddi (k : Nat) (g : Guard) (rd ra : BitVec 5) (imm : BitVec 12) (s : State) :
    Host.Outcome State Fault Refusal := .next (aluI k (.addi k g rd ra imm) g rd ra (· + immS imm) s)
def execAndi (k : Nat) (g : Guard) (rd ra : BitVec 5) (imm : BitVec 12) (s : State) :
    Host.Outcome State Fault Refusal := .next (aluI k (.andi k g rd ra imm) g rd ra (· &&& immS imm) s)
def execOri (k : Nat) (g : Guard) (rd ra : BitVec 5) (imm : BitVec 12) (s : State) :
    Host.Outcome State Fault Refusal := .next (aluI k (.ori k g rd ra imm) g rd ra (· ||| immZ imm) s)
def execXori (k : Nat) (g : Guard) (rd ra : BitVec 5) (imm : BitVec 12) (s : State) :
    Host.Outcome State Fault Refusal := .next (aluI k (.xori k g rd ra imm) g rd ra (· ^^^ immS imm) s)
def execSlli (k : Nat) (g : Guard) (rd ra : BitVec 5) (sh : BitVec 6) (s : State) :
    Host.Outcome State Fault Refusal := .next (aluI k (.slli k g rd ra sh) g rd ra (· <<< sh.toNat) s)
def execSrli (k : Nat) (g : Guard) (rd ra : BitVec 5) (sh : BitVec 6) (s : State) :
    Host.Outcome State Fault Refusal := .next (aluI k (.srli k g rd ra sh) g rd ra (· >>> sh.toNat) s)
def execSrai (k : Nat) (g : Guard) (rd ra : BitVec 5) (sh : BitVec 6) (s : State) :
    Host.Outcome State Fault Refusal := .next (aluI k (.srai k g rd ra sh) g rd ra (·.sshiftRight sh.toNat) s)
/-- LDIMM builds a constant twelve bits at a time (R65). -/
def execLdimm (k : Nat) (g : Guard) (rd ra : BitVec 5) (imm : BitVec 12) (s : State) :
    Host.Outcome State Fault Refusal := .next (aluI k (.ldimm k g rd ra imm) g rd ra (fun a => a <<< 12 ||| immZ imm) s)

/-! ### Local store (R72, R73) -/

/-- The checks of a load or store, then the access: natural alignment, the data region, parity of what is read. -/
def lsAccess (k a n kind : Nat) (reads : Bool) (body : State → State) (s : State) : State :=
  let c := s.core k
  if a % n ≠ 0 then seqIllegal k 0x06 a s
  else if !c.inData a n then lsBounds k kind a s
  else if reads && c.parityBad a n then lsParity k a s
  else body s

/-- A load: the value is usable after 3 ticks, 4 on A1 (R66). -/
def seqLoad (k : Nat) (i : Instr) (g : Guard) (rd ra : BitVec 5) (width : BitVec 2) (off : BitVec 10)
    (ext : Nat → Nat → Word) (s : State) : State :=
  seqInstr k i g [ra] false (fun s =>
    let a := lsAddr (rg k ra s) width off
    let n := widthBytes width
    lsAccess k a n 1 true (fun s => seqWrite k rd (ext n (memNat (s.core k).ls a n)) (s.table 3 4) s) s) s

/-- Zero-extension of a loaded value. -/
def extZ (_n v : Nat) : Word := BitVec.ofNat 64 v
/-- Sign-extension of a loaded value of `n` bytes. -/
def extS (n v : Nat) : Word := (BitVec.ofNat (8 * n) v).signExtend 64

/-- Write bytes into the local store; the parity of what is written is good. -/
def lsPut (a : Nat) (bs : Bytes) (c : Core) : Core :=
  { c with ls := memWrite c.ls a bs, lsBad := c.lsBad.filter fun x => decide (x < a) || decide (a + bs.length ≤ x) }

def execLd (k : Nat) (g : Guard) (rd ra : BitVec 5) (width : BitVec 2) (off : BitVec 10) (s : State) :
    Host.Outcome State Fault Refusal := .next (seqLoad k (.ld k g rd ra width off) g rd ra width off extZ s)
def execLds (k : Nat) (g : Guard) (rd ra : BitVec 5) (width : BitVec 2) (off : BitVec 10) (s : State) :
    Host.Outcome State Fault Refusal := .next (seqLoad k (.lds k g rd ra width off) g rd ra width off extS s)
def execSt (k : Nat) (g : Guard) (rs ra : BitVec 5) (width : BitVec 2) (off : BitVec 10) (s : State) :
    Host.Outcome State Fault Refusal :=
  .next (seqInstr k (.st k g rs ra width off) g [rs, ra] false (fun s =>
    let a := lsAddr (rg k ra s) width off
    let n := widthBytes width
    lsAccess k a n 2 false (fun s =>
      seqNext k 1 (s.onCore k (lsPut a (leBytes n (rg k rs s).toNat)))) s) s)

/-! ### Predicates (R65) -/

/-- A comparison of PCMP. -/
def cmpHolds : Cmp → Word → Word → Bool
  | .eq, a, b => a == b
  | .ne, a, b => a != b
  | .lt, a, b => BitVec.slt a b
  | .ge, a, b => !BitVec.slt a b
  | .ltu, a, b => BitVec.ult a b
  | .geu, a, b => !BitVec.ult a b

/-- An operation of PLOGIC. -/
def logicOf : PLogic → Bool → Bool → Bool
  | .and, a, b => a && b
  | .or, a, b => a || b
  | .xor, a, b => a != b
  | .andNot, a, b => a && !b
  | .not, a, _ => !a
  | .copy, a, _ => a

def execPcmp (k : Nat) (g : Guard) (pd : BitVec 3) (ra rb : BitVec 5) (fn : Cmp) (s : State) :
    Host.Outcome State Fault Refusal :=
  .next (seqInstr k (.pcmp k g pd ra rb fn) g [ra, rb] false (fun s =>
    seqNext k 1 (s.onSeq k (Seq.setPred pd (cmpHolds fn (rg k ra s) (rg k rb s))))) s)
def execPlogic (k : Nat) (g : Guard) (pd pa pb : BitVec 3) (fn : PLogic) (s : State) :
    Host.Outcome State Fault Refusal :=
  .next (seqInstr k (.plogic k g pd pa pb fn) g [] false (fun s =>
    seqNext k 1 (s.onSeq k fun q => q.setPred pd (logicOf fn (q.pred pa) (q.pred pb)))) s)
def execPget (k : Nat) (g : Guard) (rd : BitVec 5) (pa : BitVec 3) (s : State) :
    Host.Outcome State Fault Refusal :=
  .next (seqInstr k (.pget k g rd pa) g [] false (fun s =>
    seqWrite k rd (if (s.core k).seq.pred pa then 1 else 0) 1 s) s)

/-! ### Flow (R65, R66) -/

/-- Go to an address; a taken branch occupies 2 ticks, 3 on A1. -/
def seqJump (k : Nat) (target : BitVec 18) (s : State) : State :=
  s.onSeq k fun q => { q with pc := target, ready := s.coreTick k + s.table 2 3, tickAt := none }

/-- A conditional branch: its outcome enters the trace (R413). -/
def seqBranch (k : Nat) (i : Instr) (g : Guard) (srcs : List (BitVec 5)) (off : BitVec 17) (taken : State → Bool) (s : State) :
    State :=
  seqInstr k i g srcs true (fun s =>
    if taken s then seqJump k (branchTarget (s.core k).seq.pc off) (traceOutcome k true s)
    else seqNext k 1 (traceOutcome k false s)) s

def execBr (k : Nat) (g : Guard) (off : BitVec 17) (s : State) : Host.Outcome State Fault Refusal :=
  .next (seqInstr k (.br k g off) g [] false (fun s => seqJump k (branchTarget (s.core k).seq.pc off) s) s)
def execBeqz (k : Nat) (g : Guard) (ra : BitVec 5) (off : BitVec 17) (s : State) :
    Host.Outcome State Fault Refusal := .next (seqBranch k (.beqz k g ra off) g [ra] off (fun s => rg k ra s == 0) s)
def execBnez (k : Nat) (g : Guard) (ra : BitVec 5) (off : BitVec 17) (s : State) :
    Host.Outcome State Fault Refusal := .next (seqBranch k (.bnez k g ra off) g [ra] off (fun s => rg k ra s != 0) s)
def execBpt (k : Nat) (g : Guard) (p : BitVec 3) (off : BitVec 17) (s : State) :
    Host.Outcome State Fault Refusal := .next (seqBranch k (.bpt k g p off) g [] off (fun s => (s.core k).seq.pred p) s)
def execBpf (k : Nat) (g : Guard) (p : BitVec 3) (off : BitVec 17) (s : State) :
    Host.Outcome State Fault Refusal := .next (seqBranch k (.bpf k g p off) g [] off (fun s => !(s.core k).seq.pred p) s)

/-- CALL pushes the address of the next instruction; a seventeenth entry faults (R65). -/
def execCall (k : Nat) (g : Guard) (off : BitVec 17) (s : State) : Host.Outcome State Fault Refusal :=
  .next (seqInstr k (.call k g off) g [] false (fun s =>
    let q := (s.core k).seq
    if 16 ≤ q.stack.length then seqIllegal k 0x0A (q.pc.toNat / 4) s
    else seqJump k (branchTarget q.pc off) (s.onSeq k fun q => { q with stack := (q.pc + 4) :: q.stack })) s)
/-- RET pops the return stack; an empty stack faults (R65). -/
def execRet (k : Nat) (g : Guard) (s : State) : Host.Outcome State Fault Refusal :=
  .next (seqInstr k (.ret k g) g [] false (fun s =>
    let q := (s.core k).seq
    match q.stack with
    | [] => seqIllegal k 0x0A (q.pc.toNat / 4) s
    | t :: rest => traceRet k t.toNat (seqJump k t (s.onSeq k fun q => { q with stack := rest }))) s)

/-- A guarded PROOF or END faults, with its word, before its guard is looked at (R62, R80). -/
def neverGuarded (k : Nat) (g : Guard) (go : State → State) (s : State) : State :=
  if (s.core k).seq.bundle.isEmpty && !guardAlways g then seqIllegal k 0x09 (s.fetched k).1.toNat s else go s

/-- END enters DONE and closes the trace; a guarded END faults (R62, R77, R80, R411). The manual does not say what `CORE.PC`
holds in DONE: here it stays at the END (DESIGN CHOICE, log entry 89). -/
def execEndProg (k : Nat) (g : Guard) (s : State) : Host.Outcome State Fault Refusal :=
  .next (seqAt k (s.names k (.endProg k g))
    (neverGuarded k g (seqBody k g [] false fun s =>
      traceClose k (s.onSeq k fun q => { q with st := .done, ready := s.coreTick k + 1, tickAt := none }))) s)

/-! ### Undefined opcodes and debug halt (R64, R80, R83, R84, R90) -/

/-- An undefined or reserved opcode or function, or a field that must be 0 and is not: the word fetched is `w`, and it names
no instruction (R64, R65, R276). The word is checked before the guard. -/
def execUndefinedOpcode (k : Nat) (w : BitVec 32) (s : State) : Host.Outcome State Fault Refusal :=
  .next (seqAt k (decide ((s.fetched k).1 = w) && (seqDecode k w (s.fetched k).2).isNone)
    (seqBody k ⟨0, false⟩ [] false fun s => seqIllegal k 0x01 w.toNat s) s)

/-- A WAIT_TICK of the core waits for its phase tick: its address (R71, R84). -/
def State.tickWait (s : State) (k : Nat) : Option (BitVec 18) :=
  if s.phase k < (s.core k).seq.tickTo then (s.core k).seq.tickAt else none

/-- A core enters HALTED; its trace closes, and its DEBUG cause begins (R84, R411). In a WAIT_TICK whose tick has not come,
`CORE.PC` holds the WAIT_TICK's own address. -/
def haltCore (k : Nat) (s : State) : State :=
  raiseService (.core k) causeDebug none (traceClose k (s.onSeq k fun q =>
    match s.tickWait k with
    | some a => { q with st := .halted, pc := a }
    | none => { q with st := .halted, tickAt := none }))

/-- HALT: a no-op unless the job was launched with debug enabled (R84). -/
def execHalt (k : Nat) (g : Guard) (s : State) : Host.Outcome State Fault Refusal :=
  .next (seqInstr k (.halt k g) g [] false (fun s =>
    if s.debugJob then haltCore k (seqNext k 1 s) else seqNext k 1 s) s)

/-- The sequencer executes a PROOF: it has not reached it yet, or waits at it. PROOF is none of the instructions that a halt leaves
uncompleted (R84). -/
def Seq.atProof (q : Seq) : Bool :=
  match q.st, q.wait with
  | .proofWait, _ => true
  | .running, .proof _ => true
  | _, _ => false

/-- `CORE.CTRL.HALT_REQ` of a core: it acts on a core that runs, or that waits at a Proof, of a job launched with debug
enabled. A core that executes a PROOF halts in the tick of its release (R84; log entry 124). -/
def haltRequest (k : Nat) (s : State) : State :=
  let q := (s.core k).seq
  if !s.debugJob then s
  else if q.atProof then
    if q.haltAt then s else raiseService (.core k) causeDebug none (s.onSeq k fun q => { q with haltAt := true })
  else if q.st = .running then haltCore k s
  else s

/-- `CORE.CTRL.RESUME`: a HALTED core runs again and its DEBUG cause clears; ignored in every other state. A WAIT_TICK that the
halt met goes on with its wait (R84). -/
def resumeCore (k : Nat) (s : State) : State :=
  if (s.core k).seq.st = .halted then
    clearCause (fun r => r.who == .core k) (s.onSeq k fun q =>
      { q with st := .running, pc := if q.tickAt.isSome then q.pc + 4 else q.pc })
  else s

/-- `CORE.CTRL.FAULT_CLEAR`: it clears the record in IDLE, HALTED and FAULTED (R83). -/
def clearFault (k : Nat) (s : State) : State :=
  match (s.core k).seq.st with
  | .idle | .halted | .faulted => s.onCore k fun c => { c with fault := {} }
  | _ => s

/-- An operation on the core at a physical site; a spare or disabled site has no core (R8, R93). -/
def atSite (c slot : Nat) (f : Nat → State → State) (s : State) : State :=
  match s.coreAt c slot with
  | some k => f k s
  | none => s

/-- A write of `CORE.CTRL`, which sealed residency denies (R468, R510). -/
def ctrlWrite (c slot : Nat) (f : Nat → State → State) (s : State) : State :=
  if s.sec.resident.isSome then s else atSite c slot f s

def execFaultClear (c slot : Nat) (s : State) : Host.Outcome State Fault Refusal := .next (ctrlWrite c slot clearFault s)
def execResume (c slot : Nat) (s : State) : Host.Outcome State Fault Refusal := .next (ctrlWrite c slot resumeCore s)
def execHaltReq (c slot : Nat) (s : State) : Host.Outcome State Fault Refusal := .next (ctrlWrite c slot haltRequest s)

end Sys2Proof.Machine
end

