-- ==== Sys2Proof/Machine/Vector.lean ====
section
/-! DEFINITION. The VECTOR station (R156–R164, R166, R174, R175): its checks, latencies, arithmetic, and one meaning per
command; and the record forms of R153 and R181 that it packs. -/

namespace Sys2Proof.Machine

/-! ### Fields (R160) -/

def vFmtIn (c : Cmd) : Nat := cmdBits c 76 4
def vFmtOut (c : Cmd) : Nat := cmdBits c 72 4
def vBcast (c : Cmd) : Nat := cmdBits c 66 2
def vRnd (c : Cmd) : Nat := cmdBits c 64 2
def vStream (c : Cmd) : Nat := cmdBits c 48 16
def vTap (c : Cmd) : Nat := cmdBits c 14 2
def vSet (c : Cmd) : Nat := cmdBits c 11 3
def vZ (c : Cmd) : Nat := cmdBits c 8 3
def vParam (c : Cmd) : Nat := cmdBits c 0 8
/-- `STREAM_ID` of LVBASE. -/
def lvStream (c : Cmd) : Nat := cmdBits c 64 16
/-- `BASE` of LVBASE. -/
def lvBaseField (c : Cmd) : Word := c.extractLsb' 0 64

/-! ### Opcodes, links and checks (R161, R162) -/

/-- The opcodes of R161. -/
def vOpcodes : List Nat :=
  [0x01, 0x02, 0x03, 0x04, 0x05, 0x06, 0x07, 0x08, 0x09, 0x0A, 0x0B, 0x0C, 0x0D, 0x0E, 0x0F, 0x10, 0x11,
   0x18, 0x19, 0x1A, 0x1B, 0x20, 0x21, 0x22, 0x23, 0x24, 0x25, 0x26, 0x27, 0x28, 0x29, 0x2A, 0x2B,
   0x30, 0x31, 0x32, 0x33, 0x34, 0x38, 0x39, 0x3A]

/-- Opcodes that read no tile from `IN_LINK`. -/
def vNoIn : List Nat := [0x25, 0x27, 0x28, 0x2A, 0x2B, 0x38, 0x39, 0x3A]

/-- Opcodes that read B. -/
def vReadsB : List Nat := [0x01, 0x02, 0x03, 0x04, 0x05, 0x06, 0x09, 0x18, 0x21, 0x24]

/-- Opcodes that write no tile. -/
def vNoOut : List Nat := [0x18, 0x1A, 0x26, 0x27, 0x28, 0x39, 0x3A]

/-- The input links a command reads, in the order of R69. -/
def vIns (c : Cmd) : List Nat :=
  (if vNoIn.contains (cmdOpcode c) then [] else [cmdIn c]) ++
    (if vReadsB.contains (cmdOpcode c) && vBcast c != 3 then [cmdIn2 c] else [])

/-- The output link a command writes. -/
def vOuts (c : Cmd) : List Nat := if vNoOut.contains (cmdOpcode c) then [] else [cmdOut c]

/-- The kind of draw a command makes, if it draws (R168). -/
def vDraws (c : Cmd) : Option Nat :=
  match cmdOpcode c with
  | 0x29 => some 1
  | 0x2A => some 2
  | 0x2B => some 3
  | 0x30 => if vRnd c = 1 || vRnd c = 2 then some 0 else none
  | _ => none

/-- Budget of a COMPACT: 4, 8 or 16 (R166). -/
def compactB (param : Nat) : Nat := 4 * 2 ^ (param % 4)

/-- Value width in bits of a sparse format (R181). -/
def valWidth (f : Nat) : Nat := if f = 7 then 4 else if f = 1 || f = 2 then 16 else 8

/-- Record size for a value width and a budget (R181). -/
def recSize (w b : Nat) : Nat :=
  match w, b with
  | 16, 4 => 16 | 16, 8 => 32 | 16, _ => 64
  | 8, 4 => 16 | 8, 8 => 16 | 8, _ => 32
  | _, 4 => 8 | _, 8 => 16 | _, _ => 32

/-- Slot size of a block of 32 records (R182). -/
def blockSlot (w b : Nat) : Nat := max 512 (32 * recSize w b)

/-- The formats of sparse weights and activations (R186). -/
def sparseFmt (f : Nat) : Bool := decide (1 ≤ f) && decide (f ≤ 7)

/-- The formats of PACKZ and UNPACKZ (R162). -/
def zFmt (f : Nat) : Bool := decide (3 ≤ f) && decide (f ≤ 6)

/-- The checks of R162, after those of R69; `true` lets the command pass. -/
def vChecks (c : Core) (cmd : Cmd) : Bool :=
  let o := cmdOpcode cmd
  let fi := vFmtIn cmd
  let fo := vFmtOut cmd
  let size := fun n => linkSize (c.link n).cfg
  if o = 0x3A then true
  else if o = 0x28 then (c.lv.slot (lvStream cmd)).isSome
  else
    let inSize := if o = 0x32 then 512 else fmtTile fi
    let outSize := if o = 0x31 then 512 else if o = 0x33 then blockSlot (valWidth fi) (compactB (vParam cmd))
      else fmtTile fo
    fmtOk fi && fmtOk fo &&
      (vIns cmd).all (fun n => size n == inSize) && (vOuts cmd).all (fun n => size n == outSize) &&
      (o == 0x30 || fi == fo) &&
      !(o == 0x1B && decide (126 < vParam cmd)) &&
      !(o == 0x33 && (vParam cmd % 4 == 3 || vParam cmd / 4 != 0 || !sparseFmt fi)) &&
      !(o == 0x30 && (vRnd cmd == 1 || vRnd cmd == 2) && fo == 0) &&
      !((o == 0x31 || o == 0x32) && (!zFmt fi || vZ cmd == 0)) &&
      !([0x2A, 0x2B, 0x25, 0x26, 0x38].contains o && fi != 0) &&
      ((vDraws cmd).isNone || (c.lv.slot (vStream cmd)).isSome)

/-! ### Latencies (R156, R175) -/

/-- Element ticks of a command. -/
def elemTicks (c : Cmd) : Nat := if vFmtIn c = 0 || vFmtOut c = 0 then 16 else 8

/-- Busy ticks of a command that draws nothing, and the ticks from its start to FILLED or to its retirement. -/
def vLatency (s : State) (c : Cmd) : Nat × Nat :=
  let e := elemTicks c
  match cmdOpcode c with
  | 0x0A | 0x0B | 0x0C | 0x0D | 0x0E => (64, s.table 76 78)
  | 0x0F | 0x10 | 0x11 => (128, s.table 140 142)
  | 0x18 | 0x1A => (e, e + 12)
  | 0x20 => (64, s.table 78 80)
  | 0x22 => (e + 2, e + 8)
  | 0x23 => (66, s.table 78 80)
  | 0x25 | 0x26 | 0x38 => (16, 22)
  | 0x27 | 0x28 | 0x39 | 0x3A => (1, 2)
  | 0x31 | 0x32 => (32, 38)
  | 0x33 => (e, e + 10)
  | _ => (e, e + 6)

/-- First tick after the busy ticks of a command that starts in island tick `t` (R175). -/
def vBusyEnd (s : State) (a : Acc) (t : Nat) : Nat :=
  match vDraws a.cmd, a.draw with
  | some _, some d => max (d.first + max (elemTicks a.cmd) (d.last + 1 - d.first)) (t + elemTicks a.cmd)
  | _, _ => t + (vLatency s a.cmd).1

/-- The tick in which the output shows, or in which the command retires. -/
def vDone (s : State) (a : Acc) (t : Nat) : Nat :=
  match vDraws a.cmd with
  | some _ => vBusyEnd s a t + 6
  | none => t + (vLatency s a.cmd).2

/-- A statistics set is used by the command (R163). -/
def vUsesSet (o : Nat) : Bool :=
  [0x18, 0x1A, 0x1B, 0x20, 0x21, 0x22, 0x23, 0x24, 0x25, 0x26, 0x27].contains o

/-- A statistics set is updated by the command. -/
def vUpdatesSet (o : Nat) : Bool := [0x18, 0x1A, 0x20, 0x26, 0x27].contains o

/-- Rewrite VECTOR of a core. -/
def State.onVec (s : State) (k : Nat) (f : VectorSt → VectorSt) : State := s.onCore k fun c => { c with vec := f c.vec }

/-- What a command computes: its output tiles with the ticks after `vDone` at which each shows, each with its
status, the encodings that a tile of records carries, and the state of VECTOR and LEAVEN after it. -/
structure VResult where
  tiles : List (Nat × Bytes × TileStatus) := []
  kept  : Option (List Nat) := none
  vec   : VectorSt
  lv    : Leaven

/-- Start a VECTOR command in the later of its issue and the end of the previous command's busy ticks, its links and its
statistics set permitting (R163, R175). The tick of the last update of a set by SMAX_FWD is nowhere stated: here it is the tick
in which its tile shows (DESIGN CHOICE, log entry 92). -/
def vRun (k : Nat) (f : Core → VResult) (a : Acc) (s : State) : State :=
  let t := s.coreTick k
  let c := s.core k
  let o := cmdOpcode a.cmd
  let setFrom := if vUsesSet o then mget c.vec.setDone (vSet a.cmd) 0 else 0
  let free := (s.stq k .vector).busy
  whenReady k .vector (vIns a.cmd) (vOuts a.cmd) (max free setFrom) (fun s =>
    let r := f c
    let done := vDone s a t
    let busy := vBusyEnd s a t
    let tile := fun (x : Nat × Bytes × TileStatus) =>
      ({ st := .vector, link := cmdOut a.cmd, slot := 0, due := done + x.1, data := x.2.1, status := x.2.2,
         layer := cmdLayer a.cmd, op := cmdOp a.cmd, fmt := BitVec.ofNat 4 (vFmtOut a.cmd),
         tap := if o = 0x25 || o = 0x38 then 0 else BitVec.ofNat 2 (vTap a.cmd), kept := r.kept } : OutTile)
    let s1 := takeAll k (vIns a.cmd) busy s
    let s2 := s1.onCore k fun c =>
      r.tiles.foldl (fun c x => putTile (tile x) c)
        { c with vec := if vUpdatesSet o then { r.vec with setDone := mset r.vec.setDone (vSet a.cmd) done } else r.vec
                 lv := r.lv }
    let s3 := s2.onStq k .vector fun q => { q with busy := busy }
    begin' k .vector done (chargeSpan k t (busy - t) 8 3 (cmdLayer a.cmd) (cmdOp a.cmd) s3)) s

/-! ### Element values (R157, R161) -/

/-- The FP32 values of a tile. -/
def f32Tile (f : Nat) (bs : Bytes) : List F32 := (tileElems f bs).map (toF32 f)

/-- The values of A. -/
def vA (c : Core) (cmd : Cmd) : List F32 := f32Tile (vFmtIn cmd) (c.inSlot (cmdIn cmd))

/-- The values of B as `BCAST` reads them (R160). -/
def vB (c : Core) (cmd : Cmd) : List F32 :=
  match vBcast cmd with
  | 3 => List.replicate 1024 (cmdScale cmd)
  | b =>
    let xs := f32Tile (vFmtIn cmd) (c.inSlot2 (vIns cmd))
    match b with
    | 1 => (List.replicate 32 (xs.take 32)).flatten
    | 2 => (rowsOf 32 32 xs).flatMap fun r => List.replicate 32 (r.headD 0)
    | _ => xs

/-- A tile of FP32 values, each rounded to nearest even into a format, with its status (R148, R149, R157). -/
def outTile (f : Nat) (ys : List F32) : Bytes × TileStatus :=
  let el := ys.map (convertOut f .rne)
  (tileBytes f (el.map (·.1)), tileStatus (el.map (·.2)))

/-- The result of an elementwise operation. -/
def vTile (c : Core) (cmd : Cmd) (ys : List F32) : VResult :=
  { tiles := [(0, outTile (vFmtOut cmd) ys)], vec := c.vec, lv := c.lv }

/-- An operation on the elements of A. -/
def vMap (k : Nat) (f : Cmd → F32 → F32) (a : Acc) (s : State) : State :=
  vRun k (fun c => vTile c a.cmd ((vA c a.cmd).map (f a.cmd))) a s

/-- An operation on the elements of A and B. -/
def vZip (k : Nat) (f : Cmd → F32 → F32 → F32) (a : Acc) (s : State) : State :=
  vRun k (fun c => vTile c a.cmd (List.zipWith (f a.cmd) (vA c a.cmd) (vB c a.cmd))) a s

/-- An operation on the elements of A, with the row's statistics. -/
def statRow (v : VectorSt) (set r : Nat) : StatRow := mget v.sets (32 * set + r) {}

def vMapStat (k : Nat) (f : Cmd → StatRow → F32 → F32) (a : Acc) (s : State) : State :=
  vRun k (fun c => vTile c a.cmd
    ((vA c a.cmd).mapIdx fun i x => f a.cmd (statRow c.vec (vSet a.cmd) (i / 32)) x)) a s

/-- An operation on the elements of A and B, with the row's statistics. -/
def vZipStat (k : Nat) (f : StatRow → F32 → F32 → F32) (a : Acc) (s : State) : State :=
  vRun k (fun c => vTile c a.cmd
    ((List.zip (vA c a.cmd) (vB c a.cmd)).mapIdx fun i x => f (statRow c.vec (vSet a.cmd) (i / 32)) x.1 x.2)) a s

/-- Rewrite the 32 rows of a statistics set. -/
def setRows (v : VectorSt) (set : Nat) (f : Nat → StatRow → StatRow) : VectorSt :=
  { v with sets := (List.range 32).foldl (fun m r => mset m (32 * set + r) (f r (statRow v set r))) v.sets }

/-- A command that only updates statistics. -/
def vStats (k : Nat) (f : Core → Cmd → Nat → StatRow → StatRow) (a : Acc) (s : State) : State :=
  vRun k (fun c => { vec := setRows c.vec (vSet a.cmd) (f c a.cmd), lv := c.lv }) a s

/-- A row of 32 values of a list. -/
def rowOf (xs : List F32) (r : Nat) : List F32 := (xs.drop (32 * r)).take 32

/-! ### Softmax (R163, R164) -/

/-- An encoding is masked: the most negative finite value of its format (R164). -/
def masked (f enc : Nat) : Bool :=
  if f = 8 then enc % 256 == 128
  else enc % 2 ^ (fmtSign f + 1) == withSign f true (fmtMax f)

/-- The maximum of a non-empty list, as MAX takes it. -/
def maxOf : List F32 → Option F32
  | [] => none
  | x :: xs => some (xs.foldl fmax x)

/-- One row of SMAX_FWD: the new statistics and the FP32 outputs (R164). -/
def smaxRow (f : Nat) (st : StatRow) (encs : List Nat) : StatRow × List F32 :=
  let live := encs.filter fun e => !masked f e
  let m' := match maxOf (live.map (toF32 f)) with
    | some t => fmax st.m t
    | none => st.m
  let alpha := if m' = f32NegInf then f32One else if st.m = f32NegInf then 0 else fexp2 (fsub st.m m')
  let p := encs.map fun e =>
    if masked f e || decide (m' = f32NegInf) then (0 : F32) else fexp2 (fsub (toF32 f e) m')
  ({ st with alpha := alpha, l := fadd (fmul st.l alpha) (tree32 p), m := m' }, p)

/-- One element of SMAX_RECOMP (R164). -/
def smaxRecompElem (f : Nat) (st : StatRow) (enc : Nat) : F32 :=
  if masked f enc || st.l == 0 then 0 else fmul (fexp2 (fsub (toF32 f enc) st.m)) (frcp st.l)

/-! ### Packing (R153–R155, R166, R181) -/

/-- Bits other than the sign bit and the pad bits of a 1-byte element are not all 0. -/
def zNonzero (f : Nat) (b : Byte) : Bool := b.toNat % 2 ^ fmtSign f != 0

/-- Eight bits of a bitmap as a byte. -/
def bitByte (bs : List Bool) : Byte := BitVec.ofNat 8 (bs.foldr (fun b a => bnat b + 2 * a) 0)

/-- The bitmap of a list of flags. -/
def bitmap : Nat → List Bool → Bytes
  | 0, _ => []
  | n + 1, bs => bitByte (bs.take 8) :: bitmap n (bs.drop 8)

/-- The flags of a row with all but the first `n` set ones cleared. -/
def keepFirst : Nat → List Bool → List Bool
  | _, [] => []
  | 0, _ :: bs => false :: keepFirst 0 bs
  | n + 1, b :: bs => if b then true :: keepFirst n bs else false :: keepFirst (n + 1) bs

/-- A 1-byte element with its pad bits 0 (R134). -/
def unpad (f : Nat) (b : Byte) : Byte := b &&& BitVec.ofNat 8 (2 ^ (fmtSign f + 1) - 1)

/-- The flags of the elements of a row that its record keeps (R153, R154). -/
def zKept (f z : Nat) (row : Bytes) : List Bool := keepFirst (64 * (z - 1)) (row.map (zNonzero f))

/-- A row of 512 elements as a zero-bitmap record of budget `z`, and the number of elements it drops (R153, R154). -/
def zRecord (f z : Nat) (row : Bytes) : Bytes × Nat :=
  let kept := zKept f z row
  let vals := (List.zip kept row).filterMap fun x => if x.1 then some (unpad f x.2) else none
  (bitmap 64 kept ++ padTo (64 * (z - 1)) vals, (row.map (zNonzero f)).count true - kept.count true)

/-- The elements that the records of eight rows carry, row by row: the byte of the packed stream in which each lies, its position
in the plain slot it comes from, and its encoding. -/
def zElems (f z : Nat) (rows : List Bytes) : List (Nat × Nat × Nat) :=
  (rows.mapIdx fun r row =>
    (((List.zip (zKept f z row) row).mapIdx fun n x => (n, x)).filter (·.2.1)).mapIdx fun i x =>
      (64 * z * r + 64 + i, 512 * (r % 2) + x.1, (unpad f x.2.2).toNat)).flatten

/-- The status of a tile of records: its first non-finite element in row-major order of the plain tiles (R148, R149; DEDUCED, log
entry 20). -/
def recordStatus (f : Nat) (els : List (Nat × Nat)) : TileStatus :=
  match (els.filter fun e => encNonFinite f e.2).foldl (fun a e => some (min e.1 (a.getD e.1))) none with
  | some p => { nf := true, row := p / 32, col := p % 32 }
  | none => {}

/-- The flags of a bitmap. -/
def unbitmap (bs : Bytes) : List Bool := bs.flatMap fun b => (List.range 8).map fun i => b.getLsbD i

/-- Place the values of a record at the positions of its flags; pad bits are written as 0 (R134, R155). A flag beyond the values
that the record holds names no stored byte: its element is a free value, of which `n` counts (log entry 93). -/
def place (f : Nat) : List Bool → Bytes → Nat → Bytes
  | [], _, _ => []
  | false :: fs, vs, n => 0 :: place f fs vs n
  | true :: fs, v :: vs, n => unpad f v :: place f fs vs n
  | true :: fs, [], n => unpad f ((Config.freeWord n).setWidth 8) :: place f fs [] (n + 1)

/-- Flags of a record beyond the values it holds. -/
def placeFree (rec' : Bytes) : Nat := (unbitmap (rec'.take 64)).count true - (rec'.length - 64)

/-- A zero-bitmap record unpacked to its row of 512 bytes, its free values counted from `n` (R155). -/
def unzRecord (f : Nat) (rec' : Bytes) (n : Nat) : Bytes := place f (unbitmap (rec'.take 64)) (rec'.drop 64) n

/-- Records unpacked one after the other, and the count of free values after them. -/
def unzRecords (f : Nat) : List Bytes → Nat → Bytes × Nat
  | [], n => ([], n)
  | r :: rs, n =>
    let x := unzRecords f rs (n + placeFree r)
    (unzRecord f r n ++ x.1, x.2)

/-- Positions and encodings of the elements of a row that COMPACT keeps: the `b` of largest magnitude, lower positions
first among equals, in ascending position (R166). -/
def compactKeep (f b : Nat) (row : List Nat) : List (Nat × Nat) :=
  let nz := (row.mapIdx fun i e => (i, e)).filter fun x => x.2 % 2 ^ fmtSign f != 0
  let mag := fun (x : Nat × Nat) => x.2 % 2 ^ fmtSign f
  nz.filter fun x => decide ((nz.filter fun y =>
    decide (mag x < mag y) || (mag x == mag y && decide (y.1 < x.1))).length < b)

/-- A number whose 5-bit digits are the positions (R181). -/
def positionsNat : List Nat → Nat
  | [] => 0
  | p :: ps => p + 32 * positionsNat ps

/-- The value bytes of a record (R181). -/
def valueBytes (f : Nat) (vs : List Nat) : Bytes :=
  if f = 7 then bytes4 vs
  else if f = 1 || f = 2 then vs.flatMap fun v => leBytes 2 v
  else vs.map fun v => BitVec.ofNat 8 (v % 2 ^ (fmtSign f + 1))

/-- The record of a group (R181). -/
def groupRecord (f b : Nat) (kept : List (Nat × Nat)) : Bytes :=
  padTo (recSize (valWidth f) b)
    ([0#8, BitVec.ofNat 8 kept.length] ++ leBytes ((5 * b + 7) / 8) (positionsNat (kept.map (·.1))) ++
      valueBytes f (kept.map (·.2)))

/-- Take what stands in `IN_LINK` until `n` slots are taken, each read in `per` ticks, one after another; a slot is free when it has
been read (PACKZ, UNPACKZ and SXLOAD read several slots, R161, R185). `f` is what else the reading of a slot does, by its first
tick and its place. -/
def gather (k : Nat) (st : Station) (link n per : Nat) (f : Nat → Nat → State → State) (t : Nat) : Nat → State → State
  | 0, s => s
  | fuel + 1, s =>
    match (s.stq k st).head with
    | none => s
    | some a =>
      if n ≤ a.part.length || ((s.core k).link link).filled = 0 then s
      else
        let slot := (s.core k).inSlot link
        let readEnd := max t a.readTo + per
        gather k st link n per f t fuel
          (f (max t a.readTo) a.part.length
            (onHead k st (fun a => { a with part := a.part ++ [slot], readTo := readEnd })
              (s.onCore k (takeSlot link readEnd))))

/-- Write as many of the command's remaining output slots as have room (PACKZ and UNPACKZ). -/
def emitRest (k : Nat) (st : Station) (tile : Nat → PackSlot → OutTile) : Nat → State → State
  | 0, s => s
  | fuel + 1, s =>
    match (s.stq k st).head with
    | none => s
    | some a =>
      match a.rest with
      | [] => s
      | (due, bs) :: rest =>
        if ((s.core k).link (cmdOut a.cmd)).free = 0 then s
        else emitRest k st tile fuel
          (onHead k st (fun a => { a with rest := rest })
            (s.onCore k (putTile (tile (max due (s.coreTick k + 1)) bs))))

/-- What PACKZ or UNPACKZ computes from its slots: its output slots, each with its status and, for records, the encodings it
carries; the elements dropped; and the count of free values after it. -/
structure PackOut where
  slots : List PackSlot
  drops : Nat := 0
  free  : Nat

/-- The busy ticks of a PACKZ or UNPACKZ that reads slot `i` of `n` from tick `start` on, charged (R175, R357): the ticks that it
takes to read the slot, and for the last slot what is left of 32. -/
def packCharge (k n : Nat) (a : Acc) (start i : Nat) (s : State) : State :=
  chargeSpan k start (if i + 1 = n then 32 - i * (32 / n) else 32 / n) 8 3 (cmdLayer a.cmd) (cmdOp a.cmd) s

/-- PACKZ or UNPACKZ: take `n` slots, compute its output slots, of which the `i`-th shows `off i` ticks after the start,
write them as FREE permits, then retire; the station is busy for 32 ticks from the start (R153–R155, R175).

DESIGN CHOICE (log entry 104): R175 gives the ticks of a command that waits for nothing. Where an input slot comes late, the offsets
count from the end of the last reading less the ticks of all readings; an output slot that waits for FREE shows one tick after it. -/
def vPackRun (k n : Nat) (off : Nat → Nat) (f : Nat → List Bytes → PackOut) (a : Acc) (s : State) : State :=
  let t := s.coreTick k
  if a.rest.isEmpty && t < (s.stq k .vector).busy then stall k .vector 15 s
  else
    let s1 := gather k .vector (cmdIn a.cmd) n (32 / n) (packCharge k n a) t n s
    match (s1.stq k .vector).head with
    | none => s1
    | some a1 =>
      if a1.part.length < n then stall k .vector 2 s1
      else
        let out := f s1.free a1.part
        let t0 := a1.readTo - n * (32 / n)
        let s2 := if a1.rest.isEmpty then
            ({ s1 with free := out.free }.onCore k fun c =>
                { c with lv := { c.lv with drop := satAdd max32 c.lv.drop out.drops } }).onStq k .vector
              fun q => { q with
                busy := t0 + 32
                acc := mapFirst Acc.waiting (fun x => { x with rest := out.slots.mapIdx fun i b => (t0 + off i, b) }) q.acc }
          else s1
        let tile := fun due (b : PackSlot) =>
          ({ st := .vector, link := cmdOut a.cmd, slot := 0, due := due, data := b.data, status := b.status,
             layer := cmdLayer a.cmd, op := cmdOp a.cmd, fmt := BitVec.ofNat 4 (vFmtOut a.cmd),
             tap := BitVec.ofNat 2 (vTap a.cmd), kept := b.kept } : OutTile)
        let s3 := emitRest k .vector tile 8 s2
        match (s3.stq k .vector).head with
        | none => s3
        | some a3 =>
          if a3.rest.isEmpty then
            let last := (s3.core k).stn.outs.foldl (fun d x =>
              if x.st == .vector && x.link == cmdOut a.cmd then max d x.due else d) (t + 1)
            begin' k .vector last s3
          else stall k .vector 3 s3

/-! ### One operation per command -/

def vDoAdd (k : Nat) (a : Acc) (s : State) : State := vZip k (fun _ x y => fadd x y) a s
def vDoSub (k : Nat) (a : Acc) (s : State) : State := vZip k (fun _ x y => fsub x y) a s
def vDoMul (k : Nat) (a : Acc) (s : State) : State := vZip k (fun _ x y => fmul x y) a s
def vDoAxpy (k : Nat) (a : Acc) (s : State) : State := vZip k (fun c x y => fadd (fmul (cmdScale c) x) y) a s
def vDoMax (k : Nat) (a : Acc) (s : State) : State := vZip k (fun _ x y => fmax x y) a s
def vDoMin (k : Nat) (a : Acc) (s : State) : State := vZip k (fun _ x y => fmin x y) a s
def vDoAbs (k : Nat) (a : Acc) (s : State) : State := vMap k (fun _ x => fabs x) a s
def vDoNeg (k : Nat) (a : Acc) (s : State) : State := vMap k (fun _ x => fneg x) a s
def vDoCmpgt (k : Nat) (a : Acc) (s : State) : State := vZip k (fun _ x y => if fgt x y then f32One else 0) a s
def vDoRcp (k : Nat) (a : Acc) (s : State) : State := vMap k (fun _ x => frcp x) a s
def vDoRsqrt (k : Nat) (a : Acc) (s : State) : State := vMap k (fun _ x => frsqrt x) a s
def vDoSqrt (k : Nat) (a : Acc) (s : State) : State := vMap k (fun _ x => fsqrt x) a s
def vDoExp2 (k : Nat) (a : Acc) (s : State) : State := vMap k (fun _ x => fexp2 x) a s
def vDoLog2 (k : Nat) (a : Acc) (s : State) : State := vMap k (fun _ x => flog2 x) a s
def vDoSigmoid (k : Nat) (a : Acc) (s : State) : State := vMap k (fun _ x => fsigmoid x) a s
def vDoSilu (k : Nat) (a : Acc) (s : State) : State := vMap k (fun _ x => fsilu x) a s
def vDoTanh (k : Nat) (a : Acc) (s : State) : State := vMap k (fun _ x => ftanh x) a s
def vDoCopy (k : Nat) (a : Acc) (s : State) : State := vMap k (fun _ x => x) a s

/-- ROWDOT: D_r ← D_r + row tree of a × b. -/
def vDoRowdot (k : Nat) (a : Acc) (s : State) : State :=
  vStats k (fun c cmd r st =>
    { st with d := fadd st.d (tree32 (List.zipWith fmul (rowOf (vA c cmd) r) (rowOf (vB c cmd) r))) }) a s

/-- COLSUM: row 0 is the column tree of A. -/
def vDoColsum (k : Nat) (a : Acc) (s : State) : State :=
  vRun k (fun c => vTile c a.cmd
    ((transposeR 32 (rowsOf 32 32 (vA c a.cmd))).map tree32 ++ List.replicate 992 0)) a s

/-- ROWMAX: M_r ← max of M_r and the row. -/
def vDoRowmax (k : Nat) (a : Acc) (s : State) : State :=
  vStats k (fun c cmd r st => { st with m := (rowOf (vA c cmd) r).foldl fmax st.m }) a s

/-- ε of ROWNORM. -/
def rownormEps (param : Nat) : F32 := if param = 0 then 0 else enc32 (.fin false 1 (-(param : Int)))

def vDoRownorm (k : Nat) (a : Acc) (s : State) : State :=
  vMapStat k (fun c st x =>
    fmul x (frsqrt (fadd (fmul st.d (cmdScale c)) (rownormEps (vParam c))))) a s

def vDoSmaxFwd (k : Nat) (a : Acc) (s : State) : State :=
  vRun k (fun c =>
    let f := vFmtIn a.cmd
    let set := vSet a.cmd
    let rows := (rowsOf 32 32 (tileElems f (c.inSlot (cmdIn a.cmd)))).mapIdx fun r e =>
      smaxRow f (statRow c.vec set r) e
    let vec := setRows c.vec set fun r st => ((rows[r]?).map (·.1)).getD st
    { tiles := [(0, outTile f (rows.flatMap (·.2)))], vec := vec, lv := c.lv }) a s

def vDoSmaxRescale (k : Nat) (a : Acc) (s : State) : State :=
  vZipStat k (fun st x y => fadd (fmul x st.alpha) y) a s
def vDoSmaxNorm (k : Nat) (a : Acc) (s : State) : State :=
  vMapStat k (fun _ st x => if st.l = 0 then 0 else fmul x (frcp st.l)) a s
def vDoSmaxRecomp (k : Nat) (a : Acc) (s : State) : State :=
  vRun k (fun c => vTile c a.cmd ((tileElems (vFmtIn a.cmd) (c.inSlot (cmdIn a.cmd))).mapIdx fun i e =>
    smaxRecompElem (vFmtIn a.cmd) (statRow c.vec (vSet a.cmd) (i / 32)) e)) a s
def vDoSmaxDs (k : Nat) (a : Acc) (s : State) : State := vZipStat k (fun st x y => fmul x (fsub y st.d)) a s

/-- STATOUT: M, L and D in columns 0–2 of an FP32 tile that never sets NF (R147). -/
def vDoStatout (k : Nat) (a : Acc) (s : State) : State :=
  vRun k (fun c =>
    let rows := (List.range 32).flatMap fun r =>
      let st := statRow c.vec (vSet a.cmd) r
      [st.m.toNat, st.l.toNat, st.d.toNat] ++ List.replicate 29 0
    { tiles := [(0, tileBytes 0 rows, {})], vec := c.vec, lv := c.lv }) a s

/-- STATIN: M, L and D from columns 0–2, ALPHA 1.0. -/
def vDoStatin (k : Nat) (a : Acc) (s : State) : State :=
  vStats k (fun c cmd r _ =>
    let row := rowOf (vA c cmd) r
    { m := (row[0]?).getD 0, l := (row[1]?).getD 0, d := (row[2]?).getD 0, alpha := f32One }) a s

/-- STATCLR. -/
def vDoStatclr (k : Nat) (a : Acc) (s : State) : State := vStats k (fun _ _ _ _ => {}) a s

/-- LVBASE: the base was set at acceptance (R169); the command takes its busy tick. -/
def vDoLvbase (k : Nat) (a : Acc) (s : State) : State := vRun k (fun c => { vec := c.vec, lv := c.lv }) a s

/-- The random field of element `i` for the command's draw kind. -/
def vField (c : Core) (a : Acc) (kind i : Nat) : Nat :=
  match a.draw, c.lv.slot (vStream a.cmd) with
  | some p, some slot => drawField slot p.base kind (logical c.vec.origin c.vec.pitch (i / 32) (i % 32))
  | _, _ => 0

def vDoDropout (k : Nat) (a : Acc) (s : State) : State :=
  vRun k (fun c => vTile c a.cmd ((vA c a.cmd).mapIdx fun i x =>
    if vParam a.cmd ≤ vField c a 1 i then fmul x (cmdScale a.cmd) else 0)) a s
def vDoRandU (k : Nat) (a : Acc) (s : State) : State :=
  vRun k (fun c => vTile c a.cmd ((List.range 1024).map fun i => unifValue (vField c a 2 i))) a s
def vDoRandN (k : Nat) (a : Acc) (s : State) : State :=
  vRun k (fun c => vTile c a.cmd ((List.range 1024).map fun i => normValue (vField c a 3 i))) a s

/-- CONVERT (R139–R145). -/
def vDoConvert (k : Nat) (a : Acc) (s : State) : State :=
  vRun k (fun c =>
    let f := vFmtOut a.cmd
    let el := (vA c a.cmd).mapIdx fun i x => convert f (rndOf (vRnd a.cmd) (vField c a 0 i)) (cmdScale a.cmd) x
    { tiles := [(0, tileBytes f (el.map (·.1)), tileStatus (el.map (·.2)))], vec := c.vec, lv := c.lv }) a s

/-- PACKZ (R153, R154). -/
def vDoPackz (k : Nat) (a : Acc) (s : State) : State :=
  let z := vZ a.cmd + 1
  let f := vFmtIn a.cmd
  vPackRun k 4 (fun i => 38 + i) (fun free part =>
    let rows := rowsOf 512 8 part.flatten
    let recs := rows.map (zRecord f z)
    let els := zElems f z rows
    { slots := (rowsOf 512 z (recs.flatMap (·.1))).mapIdx fun i bs =>
        let mine := (els.filter fun e => e.1 / 512 == i).map (·.2)
        { data := bs, status := recordStatus f mine, kept := some (mine.map (·.2)) }
      drops := recs.foldl (fun n r => n + r.2) 0, free := free }) a s

/-- UNPACKZ (R155). -/
def vDoUnpackz (k : Nat) (a : Acc) (s : State) : State :=
  let z := vZ a.cmd + 1
  let f := vFmtOut a.cmd
  vPackRun k z (fun i => 8 * (i + 1) + 6) (fun free part =>
    let x := unzRecords f (rowsOf (64 * z) 8 part.flatten) free
    { slots := (rowsOf 1024 4 x.1).map fun bs =>
        { data := bs, status := tileStatus ((tileElems f bs).map (encNonFinite f)), kept := none }
      free := x.2 }) a s

/-- COMPACT (R166). -/
def vDoCompact (k : Nat) (a : Acc) (s : State) : State :=
  vRun k (fun c =>
    let f := vFmtIn a.cmd
    let b := compactB (vParam a.cmd)
    let rows := rowsOf 32 32 (tileElems f (c.inSlot (cmdIn a.cmd)))
    let kept := rows.map (compactKeep f b)
    let dropped := (List.zip rows kept).foldl (fun n x =>
      n + (x.1.countP fun e => e % 2 ^ fmtSign f != 0) - x.2.length) 0
    let els := (kept.mapIdx fun r xs => xs.map fun x => (32 * r + x.1, x.2)).flatten
    { tiles := [(0, padTo (blockSlot (valWidth f) b) (kept.flatMap (groupRecord f b)), recordStatus f els)]
      kept := some (els.map (·.2)), vec := c.vec
      lv := { c.lv with drop := satAdd max32 c.lv.drop dropped } }) a s

/-- One row of TAPOUT (R174). -/
def tapRow (t : TapEntry) : List Nat :=
  if t.valid then
    let hi := enc32 (tapValue t)
    let lo := enc32 (addV (tapValue t) (negV (dec32 hi)))
    [hi.toNat, lo.toNat, (enc32 (.fin false (4 * t.layer.toNat + t.cls.toNat) 0)).toNat,
      if t.nf then f32One.toNat else 0] ++ List.replicate 28 0
  else List.replicate 32 0

/-- TAPOUT; the tile never sets NF (R147, R174). -/
def vDoTapout (k : Nat) (a : Acc) (s : State) : State :=
  vRun k (fun c =>
    { tiles := [(0, tileBytes 0 ((List.range 32).flatMap fun n => tapRow (mget c.lv.taps n {})), {})]
      vec := c.vec, lv := c.lv }) a s

/-- TAPCLR. -/
def vDoTapclr (k : Nat) (a : Acc) (s : State) : State :=
  vRun k (fun c => { vec := c.vec, lv := { c.lv with taps := [] } }) a s

/-- SETIDX of VECTOR. -/
def vDoSetidx (k : Nat) (a : Acc) (s : State) : State :=
  vRun k (fun c =>
    { vec := { c.vec with origin := idxOrigin a.cmd, pitch := idxPitch a.cmd }, lv := c.lv }) a s

/-! ### Meanings -/

/-- A meaning of a VECTOR command: its station's oldest command, if it has this opcode. -/
def vExec (k o : Nat) (f : Nat → Acc → State → State) (s : State) : Host.Outcome State Fault Refusal :=
  .next (runHead k .vector o (f k) s)

def execVectorAdd (k : Nat) (s : State) : Host.Outcome State Fault Refusal := vExec k 0x01 vDoAdd s
def execVectorSub (k : Nat) (s : State) : Host.Outcome State Fault Refusal := vExec k 0x02 vDoSub s
def execVectorMul (k : Nat) (s : State) : Host.Outcome State Fault Refusal := vExec k 0x03 vDoMul s
def execAxpy (k : Nat) (s : State) : Host.Outcome State Fault Refusal := vExec k 0x04 vDoAxpy s
def execVectorMax (k : Nat) (s : State) : Host.Outcome State Fault Refusal := vExec k 0x05 vDoMax s
def execVectorMin (k : Nat) (s : State) : Host.Outcome State Fault Refusal := vExec k 0x06 vDoMin s
def execAbs (k : Nat) (s : State) : Host.Outcome State Fault Refusal := vExec k 0x07 vDoAbs s
def execNeg (k : Nat) (s : State) : Host.Outcome State Fault Refusal := vExec k 0x08 vDoNeg s
def execCmpgt (k : Nat) (s : State) : Host.Outcome State Fault Refusal := vExec k 0x09 vDoCmpgt s
def execRcp (k : Nat) (s : State) : Host.Outcome State Fault Refusal := vExec k 0x0A vDoRcp s
def execRsqrt (k : Nat) (s : State) : Host.Outcome State Fault Refusal := vExec k 0x0B vDoRsqrt s
def execSqrt (k : Nat) (s : State) : Host.Outcome State Fault Refusal := vExec k 0x0C vDoSqrt s
def execExp2 (k : Nat) (s : State) : Host.Outcome State Fault Refusal := vExec k 0x0D vDoExp2 s
def execLog2 (k : Nat) (s : State) : Host.Outcome State Fault Refusal := vExec k 0x0E vDoLog2 s
def execSigmoid (k : Nat) (s : State) : Host.Outcome State Fault Refusal := vExec k 0x0F vDoSigmoid s
def execSilu (k : Nat) (s : State) : Host.Outcome State Fault Refusal := vExec k 0x10 vDoSilu s
def execTanh (k : Nat) (s : State) : Host.Outcome State Fault Refusal := vExec k 0x11 vDoTanh s
def execRowdot (k : Nat) (s : State) : Host.Outcome State Fault Refusal := vExec k 0x18 vDoRowdot s
def execColsum (k : Nat) (s : State) : Host.Outcome State Fault Refusal := vExec k 0x19 vDoColsum s
def execRowmax (k : Nat) (s : State) : Host.Outcome State Fault Refusal := vExec k 0x1A vDoRowmax s
def execRownorm (k : Nat) (s : State) : Host.Outcome State Fault Refusal := vExec k 0x1B vDoRownorm s
def execSmaxFwd (k : Nat) (s : State) : Host.Outcome State Fault Refusal := vExec k 0x20 vDoSmaxFwd s
def execSmaxRescale (k : Nat) (s : State) : Host.Outcome State Fault Refusal := vExec k 0x21 vDoSmaxRescale s
def execSmaxNorm (k : Nat) (s : State) : Host.Outcome State Fault Refusal := vExec k 0x22 vDoSmaxNorm s
def execSmaxRecomp (k : Nat) (s : State) : Host.Outcome State Fault Refusal := vExec k 0x23 vDoSmaxRecomp s
def execSmaxDs (k : Nat) (s : State) : Host.Outcome State Fault Refusal := vExec k 0x24 vDoSmaxDs s
def execStatout (k : Nat) (s : State) : Host.Outcome State Fault Refusal := vExec k 0x25 vDoStatout s
def execStatin (k : Nat) (s : State) : Host.Outcome State Fault Refusal := vExec k 0x26 vDoStatin s
def execStatclr (k : Nat) (s : State) : Host.Outcome State Fault Refusal := vExec k 0x27 vDoStatclr s
def execLvbase (k : Nat) (s : State) : Host.Outcome State Fault Refusal := vExec k 0x28 vDoLvbase s
def execDropout (k : Nat) (s : State) : Host.Outcome State Fault Refusal := vExec k 0x29 vDoDropout s
def execRandU (k : Nat) (s : State) : Host.Outcome State Fault Refusal := vExec k 0x2A vDoRandU s
def execRandN (k : Nat) (s : State) : Host.Outcome State Fault Refusal := vExec k 0x2B vDoRandN s
def execConvert (k : Nat) (s : State) : Host.Outcome State Fault Refusal := vExec k 0x30 vDoConvert s
def execPackz (k : Nat) (s : State) : Host.Outcome State Fault Refusal := vExec k 0x31 vDoPackz s
def execUnpackz (k : Nat) (s : State) : Host.Outcome State Fault Refusal := vExec k 0x32 vDoUnpackz s
def execCompact (k : Nat) (s : State) : Host.Outcome State Fault Refusal := vExec k 0x33 vDoCompact s
def execCopy (k : Nat) (s : State) : Host.Outcome State Fault Refusal := vExec k 0x34 vDoCopy s
def execTapout (k : Nat) (s : State) : Host.Outcome State Fault Refusal := vExec k 0x38 vDoTapout s
def execTapclr (k : Nat) (s : State) : Host.Outcome State Fault Refusal := vExec k 0x39 vDoTapclr s
def execVectorSetidx (k : Nat) (s : State) : Host.Outcome State Fault Refusal := vExec k 0x3A vDoSetidx s

end Sys2Proof.Machine
end

