-- ==== Sys2Proof/Machine/Sparse.lean ====
section
/-! DEFINITION. The SPARSE station (R180–R202): its checks, the metadata of its records, its interlocks, and one meaning
per command. -/

namespace Sys2Proof.Machine

/-! ### Fields and budget (R184, R185, R200) -/

def spFmt (c : Cmd) : Nat := cmdBits c 76 4
def spChunk (c : Cmd) : Nat := cmdBits c 70 6
def spSetNo (c : Cmd) : Nat := cmdBits c 68 2
def spInit (c : Cmd) : Bool := c.getLsbD 67
def spPair (c : Cmd) : Nat := cmdBits c 66 1
def spTile (c : Cmd) : Nat := cmdBits c 64 2
def spBud (c : Cmd) : Nat := cmdBits c 62 2

/-- The budget of a `BUD` value. -/
def budOf (v : Nat) : Nat := 4 * 2 ^ v

/-- Token width (R184). -/
def tokenWidth (b : Nat) : Nat := 512 / b

/-- Number of chunk slots (R185). -/
def chunkSlots (w b : Nat) : Nat := 16 * b / w

/-- The opcodes of R199. -/
def spOpcodes : List Nat := [0x01, 0x02, 0x03, 0x04, 0x05]

def spIns (c : Cmd) : List Nat := if cmdOpcode c = 0x02 || cmdOpcode c = 0x03 then [cmdIn c] else []
def spOuts (c : Cmd) : List Nat := if cmdOpcode c = 0x05 then [cmdOut c] else []

/-- The budget as it stands after the waiting commands. -/
def budgetView (c : Core) : Nat :=
  ((c.stn.sparse.acc.filter Acc.waiting).map (·.cmd)).foldl
    (fun b x => if cmdOpcode x = 0x01 then budOf (spBud x) else b) c.sp.budget

/-- The checks of R201, after those of R69; `true` lets the command pass. -/
def spChecks (c : Core) (cmd : Cmd) : Bool :=
  let b := budgetView c
  let f := spFmt cmd
  let size := fun n => linkSize (c.link n).cfg
  match cmdOpcode cmd with
  | 0x01 => spBud cmd != 3
  | 0x02 => sparseFmt f && size (cmdIn cmd) == fmtTile f && decide (spChunk cmd < chunkSlots (valWidth f) b)
  | 0x03 => sparseFmt f && size (cmdIn cmd) == blockSlot (valWidth f) b && decide (spChunk cmd < chunkSlots 4 b)
  | 0x04 => true
  | 0x05 =>
    fmtOk f && size (cmdOut cmd) == fmtTile f && decide (spTile cmd < tokenWidth b / 32) && mxSr cmd != 3 &&
      !(mxSr cmd != 0 && f == 0) && (mxSr cmd == 0 || (c.lv.slot (mxStream cmd)).isSome)
  | _ => false

/-- Rewrite SPARSE of a core. -/
def State.onSp (s : State) (k : Nat) (f : SparseSt → SparseSt) : State := s.onCore k fun c => { c with sp := f c.sp }

/-- A set. -/
def SparseSt.set (x : SparseSt) (n : Nat) : SpSet := mget x.sets n {}

/-! ### Records (R181, R183, R192) -/

/-- The first byte of the values. -/
def recV0 (b : Nat) : Nat := 2 + (5 * b + 7) / 8

/-- The positions of a record's first `n` non-zeros. -/
def recPositions (b : Nat) (r : Bytes) (n : Nat) : List Nat :=
  (List.range n).map fun j => bits (field r 2 ((5 * b + 7) / 8)) (5 * j) 5

/-- The value encodings of a record's first `n` non-zeros. -/
def recValues (f b : Nat) (r : Bytes) (n : Nat) : List Nat :=
  let w := valWidth f
  (List.range n).map fun j => bits (leNat (r.drop (recV0 b))) (w * j) w

/-- A list rises strictly. -/
def rising : List Nat → Bool
  | a :: b :: rest => decide (a < b) && rising (b :: rest)
  | _ => true

/-- The checks of a record (R192, 1 to 4).

DESIGN CHOICE (log entry 108): bits [23:20] of the positions at B = 4 belong to no position, R181 and R192 name no check of them,
and any value passes. -/
def recOk (f b : Nat) (r : Bytes) : Bool :=
  let hdr := field r 0 1
  let count := field r 1 1
  let w := valWidth f
  hdr / 2 == 0 && decide (count ≤ b) && !(hdr % 2 == 1 && count != 0) &&
    rising (recPositions b r count) &&
    bits (field r 2 ((5 * b + 7) / 8)) (5 * count) (5 * (b - count)) == 0 &&
    leNat (r.drop (recV0 b)) / 2 ^ (w * count) == 0

/-- The records of a block. -/
def blockRecords (f b : Nat) (slot : Bytes) : List Bytes := rowsOf (recSize (valWidth f) b) 32 slot

/-- The number of records before the first bad one; check 5 of R192 belongs to record 0. -/
def goodRecords (f b : Nat) (slot : Bytes) : Nat :=
  if (slot.drop (32 * recSize (valWidth f) b)).any (· != 0) then 0
  else ((blockRecords f b slot).takeWhile (recOk f b)).length

/-! ### Adds (R186–R189) -/

/-- The banks of a set, each with its `t` values. -/
def SpSet.all (x : SpSet) (t : Nat) : List (List F32) :=
  if x.banks.isEmpty then List.replicate 32 (List.replicate t 0) else x.banks

/-- One add: the products of a column of activations with one value, into bank `p` (R187, R188). -/
def spAdd (xs : List Fv) (banks : List (List F32)) (p : Nat) (v : Fv) : List (List F32) :=
  banks.mapIdx fun i b => if i = p then List.zipWith (fun y x => fadd y (enc32 (mulV x v))) b xs else b

/-- The adds of one record. -/
def spRecord (f b : Nat) (xs : List Fv) (banks : List (List F32)) (r : Bytes) : List (List F32) :=
  let n := field r 1 1
  (List.zip (recPositions b r n) (recValues f b r n)).foldl (fun bs x => spAdd xs bs x.1 (decode f x.2)) banks

/-- The activations of a chunk slot by K-column: column r holds x(m, r) for rising m; a slot that is not loaded holds +0
(R185). -/
def chunkCols (c : Option Chunk) (t : Nat) : List (List Fv) :=
  match c with
  | some x => (transposeR 32 (rowsOf 32 t x.data)).map fun col => col.map (decode x.fmt.toNat)
  | none => List.replicate 32 (List.replicate t (.fin false 0 0))

/-- Adds that reach a bank in each of the eight ticks (R189). -/
def bankArrivals (b : Nat) (recs : List Bytes) (p : Nat) : List Nat :=
  (rowsOf 4 8 recs).map fun four => four.countP fun r => (recPositions b r (field r 1 1)).contains p

/-- Queue lengths after each tick (R189), for `ticks` ticks. -/
def queueAfter : Nat → Nat → List Nat → List Nat
  | 0, _, _ => []
  | n + 1, q, arr => (q + arr.headD 0 - 2) :: queueAfter n (q + arr.headD 0 - 2) arr.tail

/-- The longest conflict queue of a set in each tick from its first add on. -/
def longestQueues (b : Nat) (recs : List Bytes) : List Nat :=
  ((List.range 32).map fun p => queueAfter 16 0 (bankArrivals b recs p)).foldl
    (fun a q => List.zipWith max a q) (List.replicate 16 0)

/-! ### Commands -/

/-- The tick from which every accumulation is complete and every drain written.

DESIGN CHOICE (log entry 105): a SETB waits for an SXLOAD that still reads its tiles, too; R202 names accumulations and DRAINs
only. -/
def spQuiet (x : SparseSt) : Nat :=
  (List.range 4).foldl (fun t n => max t (x.set n).done) (max x.drainFree (max x.issueFree x.loadFree))

/-- SETB (R184, R199, R202). -/
def spDoSetb (k : Nat) (a : Acc) (s : State) : State :=
  let t := s.coreTick k
  whenReady k .sparse [] [] (max (spQuiet (s.core k).sp) (s.stq k .sparse).busy) (fun s =>
    if (s.stq k .sparse).acc.any Acc.issued then stall k .sparse 15 s else
    begin' k .sparse (t + 2)
      ((s.onSp k fun x => { x with budget := budOf (spBud a.cmd), sets := [], chunks := [] }).onStq k .sparse
        fun q => { q with busy := t + 2 })) s

/-- The chunk slots of another width that overlap slot `n` of width `w`: their contents are gone (R185, R201).

DESIGN CHOICE (log entry 107): R185 gives the number of slots of each width and not their places in the store: slot `n` lies at
`n` times its size, and an SXLOAD drops every slot of another width that it overlaps. -/
def chunkClash (b w n : Nat) (e : Nat × Chunk) : Bool :=
  let w' := valWidth e.2.fmt.toNat
  let size := 4 * w * tokenWidth b
  let size' := 4 * w' * tokenWidth b
  w' != w && decide (e.1 * size' < (n + 1) * size) && decide (n * size < (e.1 + 1) * size')

/-- SXLOAD (R185).

DESIGN CHOICE (log entry 106): R185 gives no interlock against an SPMM that issues while the tiles of its chunk slot are still read,
and no value: it takes the whole new chunk. -/
def spDoSxload (k : Nat) (a : Acc) (s : State) : State :=
  let t := s.coreTick k
  let x := (s.core k).sp
  let f := spFmt a.cmd
  let n := tokenWidth x.budget / 32
  let per := fmtTile f / 256
  let from' := max (max x.loadFree (mget x.chunkRead (spChunk a.cmd) 0)) (s.stq k .sparse).busy
  if t < from' then stall k .sparse 15 s
  else
    let s1 := gather k .sparse (cmdIn a.cmd) n per (fun _ _ s => s) t n s
    match (s1.stq k .sparse).head with
    | none => s1
    | some a1 =>
      if a1.part.length < n then stall k .sparse 2 s1
      else
        let data := a1.part.flatMap (tileElems f)
        begin' k .sparse a1.readTo (s1.onSp k fun x =>
          { x with
            chunks := mset (x.chunks.filter fun e => !chunkClash x.budget (valWidth f) (spChunk a.cmd) e)
              (spChunk a.cmd) { fmt := BitVec.ofNat 4 f, data := data }
            loadFree := a1.readTo })

/-- Tokens of an SPMM tick (R357). -/
def spTokens (b : Nat) : Nat := if b = 16 then 30 else if b = 8 then 32 else 34

/-- A DRAIN of a pair waits (R195). -/
def pairAhead (q : StationQ) (pair : Nat) : Bool := q.acc.any fun a => a.issued && spPair a.cmd == pair

/-- SPMM (R187–R193). -/
def spDoSpmm (k : Nat) (a : Acc) (s : State) : State :=
  let t := s.coreTick k
  let c := s.core k
  let x := c.sp
  let f := spFmt a.cmd
  let b := x.budget
  let w := tokenWidth b
  let st := x.set (spSetNo a.cmd)
  let spacing := match st.issue with
    | some i => i + 16
    | none => 0
  match linkWait c [cmdIn a.cmd] [] with
  | some r => stall k .sparse r s
  | none =>
    if t < spacing then stall k .sparse 11 s
    else if t < max (max x.issueFree (mget x.pairDrain (spSetNo a.cmd / 2) 0)) (s.stq k .sparse).busy ||
        pairAhead (s.stq k .sparse) (spSetNo a.cmd / 2) then
      stall k .sparse 15 s
    else
      let slot := c.inSlot (cmdIn a.cmd)
      let src := (mget (c.link (cmdIn a.cmd)).status (c.link (cmdIn a.cmd)).cons {}).src
      let n := goodRecords f b slot
      let recs := (blockRecords f b slot).take n
      let cols := chunkCols (mfind x.chunks (spChunk a.cmd)) w
      let start := if spInit a.cmd then List.replicate 32 (List.replicate w 0) else st.all w
      let banks := (List.zip cols recs).foldl (fun bs e => spRecord f b e.1 bs e.2) start
      let s1 := s.onSp k fun x =>
        { x with
          sets := mset x.sets (spSetNo a.cmd)
            { banks := banks, issue := some t, done := t + s.table 20 21, adds := t + s.table 4 5
              queue := longestQueues b recs, pastAt := st.adds, pastEnd := st.done, past := st.queue }
          chunkRead := mset x.chunkRead (spChunk a.cmd) (t + 8)
          issueFree := t + 8 }
      let s2 := chargeSpan k t 8 (spTokens b) 4 (cmdLayer a.cmd) (cmdOp a.cmd) (takeAll k [cmdIn a.cmd] (t + 8) s1)
      if n < 32 then
        let off := n * recSize (valWidth f) b
        let detail := match src with
          | some base => packWord [((base + off) % 2 ^ 42, 0)]
          | none => packWord [(1, 60), (off, 0)]
        let arg : FaultArg :=
          { code := 0x06, station := 4, layer := cmdLayer a.cmd, op := cmdOp a.cmd, pcWord := BitVec.ofNat 16 a.pcw
            detail := detail, cmd := a.cmd }
        let s3 := begin' k .sparse (t + 8) s2
        if n / 4 = 0 then coreFault k arg s3 else s3.onCore k fun c => { c with dueFault := some (t + n / 4, arg) }
      else begin' k .sparse (t + 8) s2

/-- SETIDX of SPARSE. -/
def spDoSetidx (k : Nat) (a : Acc) (s : State) : State :=
  let t := s.coreTick k
  whenReady k .sparse [] [] (s.stq k .sparse).busy (fun s =>
    begin' k .sparse (t + 1)
      (s.onSp k fun x => { x with origin := idxOrigin a.cmd, pitch := idxPitch a.cmd })) s

/-- The sums of a tile of a pair, in row-major order (R194). -/
def pairTile (x : SparseSt) (pair tile : Nat) : List F32 :=
  let w := tokenWidth x.budget
  let lo := (x.set (2 * pair)).all w
  let hi := (x.set (2 * pair + 1)).all w
  let cut := fun (b : List F32) => (b.drop (32 * tile)).take 32
  let cols := List.zipWith (fun a b => List.zipWith fadd (cut a) (cut b)) lo hi
  (transposeR 32 cols).flatten

/-- DRAIN of SPARSE (R194, R195, R202). -/
def spDoDrain (k : Nat) (a : Acc) (s : State) : State :=
  let t := s.coreTick k
  let c := s.core k
  let x := c.sp
  let q := spPair a.cmd
  let f := spFmt a.cmd
  drainWhen k .sparse (cmdOut a.cmd)
    (max (max (max (x.set (2 * q)).done (x.set (2 * q + 1)).done) x.drainFree) (lastDraw a))
    (fun s =>
      let rand := srField c.lv (mxStream a.cmd) a.draw
      let el := (pairTile x q (spTile a.cmd)).mapIdx fun i v =>
        drainElem false (cmdScale a.cmd) f (rndOf (mxSr a.cmd) (rand i)) false v
      let due := t + s.table 0 2 + fmtTile f / 256
      let tile : OutTile :=
        { st := .sparse, link := cmdOut a.cmd, slot := 0, due := due, data := tileBytes f (el.map (·.1)),
          status := tileStatus (el.map (·.2)), layer := cmdLayer a.cmd, op := cmdOp a.cmd,
          fmt := BitVec.ofNat 4 f, tap := BitVec.ofNat 2 (mxTap a.cmd) }
      let s1 := s.onSp k fun x => { x with drainFree := due, pairDrain := mset x.pairDrain q due }
      beginDrain k .sparse due (s1.onCore k (putTile tile))) s

def execSetb (k : Nat) (s : State) : Host.Outcome State Fault Refusal := .next (runHead k .sparse 0x01 (spDoSetb k) s)
def execSxload (k : Nat) (s : State) : Host.Outcome State Fault Refusal :=
  .next (runHead k .sparse 0x02 (spDoSxload k) s)
def execSpmm (k : Nat) (s : State) : Host.Outcome State Fault Refusal := .next (runHead k .sparse 0x03 (spDoSpmm k) s)
def execSparseSetidx (k : Nat) (s : State) : Host.Outcome State Fault Refusal :=
  .next (runHead k .sparse 0x04 (spDoSetidx k) s)
def execSparseDrain (k : Nat) (s : State) : Host.Outcome State Fault Refusal :=
  .next (runDrain k .sparse 0x05 (spDoDrain k) s)

/-- Every accumulation that a core issued is complete (R197). -/
def spComplete (c : Core) (t : Nat) : Bool := (List.range 4).all fun n => decide ((c.sp.set n).done ≤ t)

end Sys2Proof.Machine
end

