-- ==== Sys2Proof/Machine/Issue.lean ====
section
/-! DEFINITION. Issue of station commands: the checks of R69, bundles (R68), acceptance (R70, R169, R357), and the
sequencer's waits: WAIT_TICK (R71), DRAIN (R65), FLAGCLR (R78); and LINKCFG (R74). -/

namespace Sys2Proof.Machine

/-! ### What each station defines -/

/-- The opcodes of a station (R126, R161, R199, R223, R301). -/
def stOpcodes : Station → List Nat
  | .fetch | .store | .knead => [1, 2, 3]
  | .matrix => mxOpcodes
  | .vector => vOpcodes
  | .sparse => spOpcodes

/-- The input links that a command reads, in the order of R69. -/
def stIns (mode : MMode) (st : Station) (cmd : Cmd) : List Nat :=
  match st with
  | .fetch | .store => ringIns st cmd
  | .matrix => mxIns mode cmd
  | .vector => vIns cmd
  | .sparse => spIns cmd
  | .knead => kneadIns cmd

/-- The output links that a command writes. -/
def stOuts (st : Station) (cmd : Cmd) : List Nat :=
  match st with
  | .fetch | .store => ringOuts st cmd
  | .matrix => mxOuts cmd
  | .vector => vOuts cmd
  | .sparse => spOuts cmd
  | .knead => []

/-- The module is an A1 (R3). -/
def State.isA1 (s : State) : Bool := s.mgmt.stepping == 0xA1#8

/-- The checks that a station's own chapter adds; `true` lets the command pass (R69, check 4). -/
def stChecks (s : State) (k : Nat) (st : Station) (cmd : Cmd) : Bool :=
  let c := s.core k
  match st with
  | .fetch | .store => ringChecks st c (s.cluster (s.clusterOf k)) cmd
  | .matrix => mxChecks c s.isA1 cmd
  | .vector => vChecks c cmd
  | .sparse => spChecks c cmd
  | .knead => kneadChecks s k cmd

/-- A link is not enabled, or the station is not its consumer (R69). -/
def badIn (c : Core) (st : Station) (n : Nat) : Bool :=
  let w := (c.link n).cfg
  !linkEnabled w || linkConsumer w != (stCode st).toNat

/-- A link is not enabled, or the station is not its producer (R69). -/
def badOut (c : Core) (st : Station) (n : Nat) : Bool :=
  let w := (c.link n).cfg
  !linkEnabled w || linkProducer w != (stCode st).toNat

/-- The first check of R69 that a command fails: sub-reason and value (R80). -/
def cmdError (s : State) (k : Nat) (cmd : Cmd) : Option (Nat × Nat) :=
  let c := s.core k
  match stationOf (cmdStation cmd) with
  | none => some (0x02, cmdStation cmd)
  | some st =>
    if !(stOpcodes st).contains (cmdOpcode cmd) then some (0x03, cmdOpcode cmd)
    else
      match (stIns (mxView c).mode st cmd).find? (badIn c st) with
      | some n => some (0x04, n)
      | none =>
        match (stOuts st cmd).find? (badOut c st) with
        | some n => some (0x04, n)
        | none => if stChecks s k st cmd then none else some (0x03, cmdOpcode cmd)

/-! ### Acceptance -/

/-- The stream, the kind, and the index a command draws with, if it draws (R119, R120, R144, R168, R195). -/
def drawOf (c : Core) (st : Station) (cmd : Cmd) : Option (Nat × Nat × BitVec 48 × BitVec 24) :=
  match st with
  | .matrix =>
    if cmdOpcode cmd = 0x11 && mxSr cmd != 0 then
      let v := idxView c.stn.matrix 0x10 c.mx.origin c.mx.pitch
      some (mxStream cmd, 0, v.1, v.2)
    else none
  | .vector =>
    (vDraws cmd).map fun kind =>
      let v := idxView c.stn.vector 0x3A c.vec.origin c.vec.pitch
      (vStream cmd, kind, v.1, v.2)
  | .sparse =>
    if cmdOpcode cmd = 0x05 && mxSr cmd != 0 then
      let v := idxView c.stn.sparse 0x04 c.sp.origin c.sp.pitch
      some (mxStream cmd, 0, v.1, v.2)
    else none
  | _ => none

/-- The charge that falls in the tick of acceptance (R357). -/
def acceptTokens (s : State) (st : Station) (cmd : Cmd) : Nat :=
  match st, cmdOpcode cmd with
  | .fetch, 2 | .store, 3 => rgRows cmd * (if isDram (rgAddr cmd) then 260 else 73)
  | .knead, 1 =>
    rgRows cmd * ((if ksSrc cmd then 0 else 11) +
      (ksTargets s cmd).foldl (fun a m => a + (if m = s.moduleIndex then 62 else 51)) 0)
  | .knead, 2 => if krSrcmod cmd = s.moduleIndex then 0 else rgRows cmd * 62
  | _, _ => 0

/-- What the acceptance of a command makes of it, with its draw phase, and of its core's streams, whose draw base it may move
(R169). -/
def accOf (k : Nat) (st : Station) (pcw : Nat) (cmd : Cmd) (s : State) : Acc × Leaven :=
  let t := s.coreTick k
  let c := s.core k
  let d := match drawOf c st cmd with
    | some (id, kind, origin, pitch) => c.lv.phase id t kind origin pitch
    | none => (none, c.lv)
  ({ cmd := cmd, pcw := pcw, atT := t, draw := d.1 },
    if st = .vector && cmdOpcode cmd = 0x28 then d.2.setBase (lvStream cmd) (lvBaseField cmd) else d.2)

/-- The charge of an acceptance, if it has one (R357). -/
def acceptCharge (k : Nat) (st : Station) (cmd : Cmd) (n : Nat) (s : State) : State :=
  if n = 0 then s else charge none n (some k) (stCode st) (cmdLayer cmd) (cmdOp cmd) s

/-- One command is accepted: its draw phase, its stream's draw base, its charge and its trace packet, and its place among
the outstanding transfers of its station; a KRECV reserves its rows (R50, R70, R169, R291, R357, R413). -/
def acceptCmd (k : Nat) (st : Station) (pcw : Nat) (cmd : Cmd) (s : State) : State :=
  let x := accOf k st pcw cmd s
  let s1 := s.onCore k fun c =>
    { c with lv := x.2, stn := c.stn.setQ st { c.stn.q st with acc := (c.stn.q st).acc ++ [x.1] },
             seq := { c.seq with lastLayer := cmdLayer cmd, lastOp := cmdOp cmd } }
  let s2 := traceTag k pcw (cmdLayer cmd) (cmdOp cmd) (acceptCharge k st cmd (acceptTokens s st cmd) s1)
  if st = .knead && cmdOpcode cmd = 2 then krecvEnter k x.1 s2 else s2

/-- The commands of a bundle whose guards are true, in station order. -/
def bundleCmds (items : List BundleItem) : List (Nat × Cmd × Nat) :=
  let all := items.filterMap fun b => b.cmd.map fun c => (cmdStation c, c, b.pcw)
  (List.range 256).flatMap fun n => all.filter fun x => x.1 == n

/-- Two commands of a bundle name one station (R68). Two that name one invalid code break this limit, before the check of
the code (R69) is made: the manual does not order the two (DESIGN CHOICE, log entry 89). -/
def sameStation : List (Nat × Cmd × Nat) → Bool
  | [] => false
  | x :: xs => xs.any (fun y => y.1 == x.1) || sameStation xs

/-- A station that a bundle names holds 4 outstanding transfers (R70). -/
def bundleFull (s : State) (k : Nat) (cs : List (Nat × Cmd × Nat)) : Bool :=
  cs.any fun x => match stationOf x.1 with
    | some st => decide (4 ≤ ((s.stq k st).outstanding (s.coreTick k)).length)
    | none => false

/-- The fault of a command that fails a check of R69; an invalid station counts as the sequencer's (R82, R94). -/
def cmdFault (k pcw sub value : Nat) (cmd : Cmd) (s : State) : State :=
  let st := match stationOf (cmdStation cmd) with
    | some st => stCode st
    | none => 0
  coreFault k { code := 0x01, station := st, layer := cmdLayer cmd, op := cmdOp cmd, pcWord := BitVec.ofNat 16 pcw,
                detail := illegal sub value, cmd := cmd } s

/-- Go back to the first instruction of a bundle: the sequencer stops, or waits, before it. -/
def bundleRewind (k : Nat) (items : List BundleItem) (s : State) : State :=
  match items with
  | b :: _ => s.onSeq k fun q => { q with pc := BitVec.ofNat 18 (4 * b.pcw), bundle := [] }
  | [] => s

/-- BUNDLE (R68, R80). -/
def bundleFault (k : Nat) (items : List BundleItem) (s : State) : State :=
  match items with
  | b :: _ =>
    coreFault k { code := 0x01, pcWord := BitVec.ofNat 16 b.pcw, detail := illegal 0x0B b.pcw } (bundleRewind k items s)
  | [] => s

/-- A whole bundle meets its limits, its places and its checks, in this order; then all its commands are accepted, in
station order, in one tick (R68–R70). -/
def bundleGo (k : Nat) (items : List BundleItem) (s : State) : State :=
  let cs := bundleCmds items
  if sameStation cs then bundleFault k items s
  else if bundleFull s k cs then
    (bundleRewind k items s).onSeq k fun q => { q with wait := .bundle items }
  else
    let bad := cs.filterMap fun x => (cmdError s k x.2.1).map fun e => (x, e)
    if !bad.isEmpty then
      bad.foldl (fun s b => cmdFault k b.1.2.2 b.2.1 b.2.2 b.1.2.1 s) (bundleRewind k items s)
    else
      let s1 := cs.foldl (fun s x => match stationOf x.1 with
        | some st => acceptCmd k st x.2.2 x.2.1 s
        | none => s) s
      match items with
      | b :: _ => s1.onSeq k fun q =>
          { q with pc := BitVec.ofNat 18 (4 * (b.pcw + items.length)), ready := s.coreTick k + 1, wait := .none
                   bundle := [], tickAt := none }
      | [] => s1

/-- One ISSUE or ISSUER is read: it ends its bundle when `B` is 0 (R68). -/
def issueItem (k : Nat) (b : Bool) (guard : Bool) (cmd : Option Cmd) (s : State) : State :=
  let q := (s.core k).seq
  let items := q.bundle ++ [⟨q.pc.toNat / 4, guard, cmd⟩]
  if b then
    if 6 ≤ items.length then bundleFault k items s
    else s.onSeq k fun q => { q with pc := q.pc + 4, bundle := items, tickAt := none }
  else bundleGo k items s

/-- Fetch and guard of an ISSUE or ISSUER; `cmd` reads the command, or faults (R62, R68, R73). -/
def issueInstr (k : Nat) (i : Instr) (g : Guard) (b : Bool) (srcs : List (BitVec 5))
    (cmd : State → Option Cmd × Option (State → State)) (s : State) : State :=
  seqAt k (s.names k i) (fun s =>
    let c := s.core k
    if !c.seq.guard g then issueItem k b false none (traceOutcome k false s)
    else if !c.seq.usable srcs (s.coreTick k) then s
    else
      let s1 := if guardAlways g then s else traceOutcome k true s
      match cmd s1 with
      | (_, some f) => bundleRewind k c.seq.bundle (f s1)
      | (x, none) => issueItem k b true x s1) s

/-- The template that ISSUE reads: aligned to 16 B, in the code or data region, its parity good (R68, R73). -/
def template (k : Nat) (ra : BitVec 5) (off : BitVec 16) (s : State) : Option Cmd × Option (State → State) :=
  let c := s.core k
  let a := (c.seq.reg ra + off.zeroExtend 64 * 16#64).toNat
  if a % 16 ≠ 0 then (none, some (seqIllegal k 0x06 a))
  else if !c.inData a 16 && !c.inCode a 16 then (none, some (lsBounds k 3 a))
  else if c.parityBad a 16 then (none, some (lsParity k a))
  else (some (BitVec.ofNat 128 (memNat c.ls a 16)), none)

/-- ISSUE (R68). -/
def execIssue (k : Nat) (g : Guard) (b : Bool) (ra : BitVec 5) (off : BitVec 16) (s : State) :
    Host.Outcome State Fault Refusal := .next (issueInstr k (.issue k g b ra off) g b [ra] (template k ra off) s)

/-- ISSUER (R68). -/
def execIssuer (k : Nat) (g : Guard) (b : Bool) (ra rb : BitVec 5) (s : State) : Host.Outcome State Fault Refusal :=
  .next (issueInstr k (.issuer k g b ra rb) g b [ra, rb] (fun s => (some (rg k ra s ++ rg k rb s), none)) s)

/-- The core's sequencer can go on with a wait: it is RUNNING and its island is not frozen. -/
def seqOn (k : Nat) (s : State) : Bool := decide ((s.core k).seq.st = .running) && !s.coreFrozen k

/-- BUNDLE_ISSUE_AFTER_WAIT: a bundle that waited for a place is tried again (R70). -/
def execBundleIssueAfterWait (k : Nat) (s : State) : Host.Outcome State Fault Refusal :=
  .next (match (s.core k).seq.wait with
    | .bundle items => if seqOn k s then bundleGo k items s else s
    | _ => s)

/-! ### WAIT_TICK (R71) -/

/-- The tick a WAIT_TICK names. -/
def tickOf (k : Nat) (t : TickArg) (s : State) : Nat :=
  match t with
  | .imm v => v.toNat
  | .reg r => (rg k r s).toNat

/-- A WAIT_TICK takes no tick, whatever its guard. The next instruction waits until the phase tick counter, which stops at
0xFFFF_FFFF, reaches the tick named. -/
def waitTick (k : Nat) (g : Guard) (t : TickArg) (s : State) : State :=
  let srcs := match t with
    | .imm _ => []
    | .reg r => [r]
  seqAt k (s.names k (.waitTick k g t)) (fun s =>
    let c := s.core k
    if !c.seq.bundle.isEmpty then bundleBroken k s
    else if !c.seq.guard g then (traceOutcome k false s).onSeq k fun q => { q with pc := q.pc + 4 }
    else if !c.seq.usable srcs (s.coreTick k) then s
    else
      let s1 := if guardAlways g then s else traceOutcome k true s
      let tk := tickOf k t s1
      let r := s.phase k
      let s2 := if tk < r then
          s1.onCore k fun c =>
            { c with lateFirst := if c.lateCount = 0 then BitVec.ofNat 16 (c.seq.pc.toNat / 4) else c.lateFirst
                     lateCount := satAdd max32 c.lateCount 1 }
        else s1
      s2.onSeq k fun q =>
        { q with pc := q.pc + 4, ready := s.coreTick k, tickTo := tk
                 tickAt := if r < tk then some q.pc else none }) s

def execWaitTick (k : Nat) (g : Guard) (t : TickArg) (s : State) : Host.Outcome State Fault Refusal :=
  .next (waitTick k g t s)

/-! ### DRAIN and FLAGCLR (R65, R78) -/

/-- Every station of a mask holds no outstanding transfer in island tick `t`. -/
def stationsIdle (s : State) (k : Nat) (sts : List Station) (t : Nat) : Bool :=
  sts.all fun st => ((s.stq k st).outstanding t).isEmpty

/-- The stations of a DRAIN mask. -/
def maskStations (m : BitVec 6) : List Station := allStations.filter fun st => m.getLsbD ((stCode st).toNat - 1)

def execDrain (k : Nat) (g : Guard) (mask : BitVec 6) (s : State) : Host.Outcome State Fault Refusal :=
  .next (seqInstr k (.drain k g mask) g [] false (fun s =>
    if stationsIdle s k (maskStations mask) (s.coreTick k) then seqNext k 1 s
    else s.onSeq k fun q => { q with wait := .drain mask, tickAt := none }) s)

/-- DRAIN_COMPLETE: the masked stations have become idle, and the sequencer goes on. -/
def execDrainComplete (k : Nat) (s : State) : Host.Outcome State Fault Refusal :=
  .next (match (s.core k).seq.wait with
    | .drain mask =>
      if seqOn k s && stationsIdle s k (maskStations mask) (s.coreTick k) then
        seqNext k 1 (s.onSeq k fun q => { q with wait := .none })
      else s
    | _ => s)

/-- The stations that compute tiles. -/
def computing : List Station := [.matrix, .vector, .sparse]

/-- FLAGCLR clears `CORE.NF` and occupies one tick. Tiles that become visible in the same tick are entered after the clear,
whatever came first in the model (R78). -/
def flagClear (k : Nat) (s : State) : State :=
  seqNext k 1 (s.onCore k fun c =>
    { c with nf := if c.nfNow.1 = s.coreTick k then c.nfNow.2 else {}, seq := { c.seq with wait := .none } })

/-- Every command issued earlier to MATRIX, VECTOR and SPARSE retired before this tick (R78). -/
def allRetired (k : Nat) (s : State) : Bool :=
  let t := s.coreTick k
  stationsIdle s k computing (t - 1) && computing.all fun st => decide ((s.stq k st).last < t) || (s.stq k st).last == 0

def execFlagclr (k : Nat) (g : Guard) (s : State) : Host.Outcome State Fault Refusal :=
  .next (seqInstr k (.flagclr k g) g [] false (fun s =>
    if allRetired k s then flagClear k s
    else s.onSeq k fun q => { q with wait := .flagclr, tickAt := none }) s)

/-- FLAGCLR_EXECUTE: in the tick after the last of the awaited retirements (R78). -/
def execFlagclrExecute (k : Nat) (s : State) : Host.Outcome State Fault Refusal :=
  .next (match (s.core k).seq.wait with
    | .flagclr => if seqOn k s && allRetired k s then flagClear k s else s
    | _ => s)

/-! ### LINKCFG (R74) -/

/-- The outstanding commands of a station, each with the MATRIX mode in which it runs: the mode set by the last SETMODE
before it that has not begun, or the mode as it stands (R101). -/
def withModes : MMode → List Acc → List (MMode × Acc)
  | _, [] => []
  | m, a :: as => (m, a) :: withModes (if a.waiting then (mxViewStep ⟨m, []⟩ a.cmd).mode else m) as

/-- A command of the station uses the link. -/
def usesLink (n : Nat) (st : Station) (x : MMode × Acc) : Bool :=
  (stIns x.1 st x.2.cmd).contains n || (stOuts st x.2.cmd).contains n

/-- A link is at rest: nothing filled, everything free, and no outstanding command uses it. -/
def linkAtRest (s : State) (k n : Nat) : Bool :=
  let c := s.core k
  let l := c.link n
  l.filled == 0 && l.free == linkDepth l.cfg &&
    allStations.all fun st =>
      let m := if st = .matrix then withModes c.mx.mode else List.map (Prod.mk c.mx.mode)
      !(m ((s.stq k st).outstanding (s.coreTick k))).any (usesLink n st)

def execLinkcfg (k : Nat) (g : Guard) (ra : BitVec 5) (n : BitVec 4) (s : State) : Host.Outcome State Fault Refusal :=
  .next (seqInstr k (.linkcfg k g ra n) g [ra] false (fun s =>
    let v := rg k ra s &&& linkMask
    if linkAtRest s k n.toNat && linkFits (s.core k) n.toNat v then
      seqNext k 2 (s.onCore k (Core.onLink n.toNat fun l => Link.reset { l with cfg := v }))
    else seqIllegal k 0x08 n.toNat s) s)

end Sys2Proof.Machine
end

