-- ==== Sys2Proof/Machine/Keccak.lean ====
section
/-! DEFINITION. SHAKE256 of FIPS 202, which R165, R343, R388 and the security chapter call for. -/

namespace Sys2Proof.Machine

/-- Rotation offsets of the lanes, lane x + 5·y in place x + 5·y. -/
def keccakRot : List Nat :=
  [0, 1, 62, 28, 27, 36, 44, 6, 55, 20, 3, 10, 43, 25, 39, 41, 45, 15, 21, 8, 18, 2, 61, 56, 14]

/-- Round constants. -/
def keccakRc : List Word :=
  [0x0000000000000001, 0x0000000000008082, 0x800000000000808A, 0x8000000080008000, 0x000000000000808B,
   0x0000000080000001, 0x8000000080008081, 0x8000000000008009, 0x000000000000008A, 0x0000000000000088,
   0x0000000080008009, 0x000000008000000A] ++
  [0x000000008000808B, 0x800000000000008B, 0x8000000000008089, 0x8000000000008003, 0x8000000000008002,
   0x8000000000000080, 0x000000000000800A, 0x800000008000000A, 0x8000000080008081, 0x8000000000008080,
   0x0000000080000001, 0x8000000080008008]

/-- A lane. -/
def lane (a : List Word) (x y : Nat) : Word := (a[x % 5 + 5 * (y % 5)]?).getD 0

/-- The table of 25 lanes of a function. -/
def lanes (f : Nat → Nat → Word) : List Word := (List.range 25).map fun i => f (i % 5) (i / 5)

/-- One round. -/
def keccakRound (a : List Word) (rc : Word) : List Word :=
  let c := (List.range 5).map fun x => lane a x 0 ^^^ lane a x 1 ^^^ lane a x 2 ^^^ lane a x 3 ^^^ lane a x 4
  let col := fun (x : Nat) => c.getD (x % 5) 0
  let t := lanes fun x y => lane a x y ^^^ col (x + 4) ^^^ (col (x + 1)).rotateLeft 1
  let b := lanes fun x y =>
    let i := (x + 3 * y) % 5 + 5 * x
    ((t[i]?).getD 0).rotateLeft ((keccakRot[i]?).getD 0)
  let n := lanes fun x y => lane b x y ^^^ (~~~(lane b (x + 1) y) &&& lane b (x + 2) y)
  match n with
  | h :: rest => (h ^^^ rc) :: rest
  | [] => []

/-- The permutation. -/
def keccakF (a : List Word) : List Word := keccakRc.foldl keccakRound a

/-- Rate of SHAKE256 in bytes. -/
def shakeRate : Nat := 136

/-- A message padded for SHAKE256. -/
def shakePad (m : Bytes) : Bytes :=
  let z := shakeRate - 1 - m.length % shakeRate
  if z = 0 then m ++ [0x9F#8] else m ++ [0x1F#8] ++ List.replicate (z - 1) 0 ++ [0x80#8]

/-- A block xored into the first lanes. -/
def absorb (a : List Word) (b : Bytes) : List Word :=
  a.mapIdx fun i w => if i < 17 then w ^^^ BitVec.ofNat 64 (field b (8 * i) 8) else w

/-- Absorb the first `n` blocks of a padded message. -/
def absorbAll : Nat → List Word → Bytes → List Word
  | 0, a, _ => a
  | n + 1, a, m => absorbAll n (keccakF (absorb a (m.take shakeRate))) (m.drop shakeRate)

/-- Squeeze up to `n` blocks. -/
def squeeze : Nat → List Word → Bytes
  | 0, _ => []
  | n + 1, a => (a.take 17).flatMap (fun w => leBytes 8 w.toNat) ++ (if n = 0 then [] else squeeze n (keccakF a))

/-- The first `n` bytes of SHAKE256 over a message. -/
def shake256 (m : Bytes) (n : Nat) : Bytes :=
  let p := shakePad m
  (squeeze ((n + shakeRate - 1) / shakeRate) (absorbAll (p.length / shakeRate) (List.replicate 25 0) p)).take n

end Sys2Proof.Machine
end

