-- ==== Sys2Proof/Machine/Shape.lean ====
section
/-! DEFINITION. The shape fingerprint (R348), and the identity of the module by its record (R1, R10, R257, R495). -/

namespace Sys2Proof.Machine

/-- A byte of an ASCII string. -/
def ascii (s : String) : Bytes := s.toList.map fun c => BitVec.ofNat 8 c.toNat

/-- Bits [15:0] of a `MESH.DISn` entry: the router, and its detour column and row (R238, R257). -/
def disWord (x y : Nat) : Nat := x * 2 ^ 12 + y * 2 ^ 8 + detourX x * 2 ^ 4 + detourY y

/-- The two entries of a record, 0 for an entry that is not valid. -/
def disEntry (r : ConfigRecord) (n : Nat) : Nat :=
  match r.disRouters[n]? with
  | some (x, y) => disWord x y
  | none => 0

/-- The enabled-cluster mask. -/
def clusterMask (cs : List Nat) : Nat := cs.foldl (fun a c => a ||| 2 ^ c) 0

/-- What the fingerprint is taken over. -/
def shapeInput (r : ConfigRecord) : Bytes :=
  ascii "LSHP" ++ leBytes 1 r.grade ++ leBytes 1 (bnat r.optionS) ++ leBytes 12 (clusterMask r.enabled) ++
    r.coreMap.map (fun e => BitVec.ofNat 8 e.1) ++ leBytes 2 (disEntry r 0) ++ leBytes 2 (disEntry r 1)

/-- The shape fingerprint of a record (R348). -/
def fingerprint (r : ConfigRecord) : Word := BitVec.ofNat 64 (field (shake256 (shapeInput r) 8) 0 8)

/-- The fingerprint of the module; 0 without a valid record (R495). -/
def State.shape (s : State) : Word :=
  match s.mgmt.record with
  | some r => fingerprint r
  | none => 0

/-- A list with its length, so that lists in a row can be told apart. -/
def counted {α : Type} (f : α → List Nat) (xs : List α) : List Nat := xs.length :: xs.flatMap f

/-- The contents of a record as a list of numbers, by which its bytes are given (R454). -/
def recordCode (r : ConfigRecord) : List Nat :=
  let pair := fun (e : Nat × Nat) => [e.1, e.2]
  [r.version, r.stepping.toNat, r.grade, bnat r.optionS, r.minFw.toNat] ++ counted (fun c => [c]) r.enabled ++
    counted pair r.coreMap ++ counted pair r.badCores ++ counted pair r.disRouters ++ counted (fun x => [x.k, x.trim]) r.crossings

/-- `TT_PRIMARY` and `TT_ALT` of a stepping (R10, R495). -/
def ttPrimary (stepping : BitVec 8) : BitVec 16 := if stepping = 0xA1#8 then 0x0A01#16 else 0x0B00#16
def ttAlt (stepping : BitVec 8) : BitVec 16 := if stepping = 0xA1#8 then 0 else 0x0A01#16

/-- The module has option S by its record. Without a valid record the manual gives grade and shape 0 and says nothing of the option
(R495): the module counts as option N there (DESIGN CHOICE, log entry 61). -/
def State.optionS (s : State) : Bool :=
  match s.mgmt.record with
  | some r => r.optionS
  | none => false

/-- Grade of the record in use; 0 without one. -/
def State.grade (s : State) : Nat :=
  match s.mgmt.record with
  | some r => r.grade
  | none => 0

end Sys2Proof.Machine
end

