-- ==== Sys2Proof/Machine/Proof.lean ====
section
/-! DEFINITION. Proofs: the PROOF instruction, arrival, cluster instances and wider instances, the gathering at the roots of
a tray and of the fabric, the release, and the entry Proof (R36–R44, R75, R76, R271, R272, R300, R316, R317, R438). -/

namespace Sys2Proof.Machine

/-! ### Scopes and turnarounds (R38, R39) -/

/-- Turnaround of a scope; A1's are the same in R39, which gives them for 0x0B00. -/
def turnaround : BitVec 2 → Nat
  | 0 => 12
  | 1 => 160
  | 2 => 1920
  | _ => 5600

/-- Modules of the running job. -/
def State.jobModules (s : State) : List Nat :=
  if s.curCtx.bin.members.isEmpty then [s.moduleIndex] else s.curCtx.bin.members

/-- Modules of the job in the tray of module `m`. -/
def State.trayModules (s : State) (m : Nat) : List Nat := s.jobModules.filter fun x => x / 8 == m / 8

/-- The lowest number of a list. -/
def leastOf : List Nat → Nat
  | [] => 0
  | x :: xs => xs.foldl min x

/-- Root of the tray of module `m`: the lowest tray slot of the job in it (R316). -/
def State.trayRoot (s : State) (m : Nat) : Nat := leastOf (s.trayModules m)

/-- Root of the fabric: the lowest module index of the job (R316). -/
def State.fabRoot (s : State) : Nat := leastOf s.jobModules

/-- Tray roots of the job. -/
def State.trayRoots (s : State) : List Nat := (s.jobModules.map s.trayRoot).eraseDups

/-- The wider of two scopes. -/
def wider (a b : BitVec 2) : BitVec 2 := if a < b then b else a

/-! ### Release (R36, R40, R42, R75, R123, R163, R170, R197, R215, R272, R295, R300) -/

/-- Write the results of a Proof into two registers. The manual does not say what remains when both results name one
register: a free value (log entry 2). -/
def proofResults (k : Nat) (orW andW : BitVec 32) (s : State) : State :=
  let p := (s.core k).seq.proof
  let t := s.coreTick k
  if p.orDst = p.andDst && p.orDst != 0 then
    let (v, s1) := s.drawFree
    s1.onSeq k (Seq.setReg p.orDst v t)
  else s.onSeq k fun q =>
    (q.setReg p.orDst (orW.zeroExtend 64) t).setReg p.andDst (andW.zeroExtend 64) t

/-- What a release resets in a core: its links at every scope, and the stations' state, the Braid buffer and the draw
indices at MODULE scope or wider. -/
def releaseReset (wide : Bool) (c : Core) : Core :=
  let c1 := { c with
    links := c.links.map fun e => (e.1, if linkEnabled e.2.cfg then Link.reset e.2 else e.2)
    dma := [] }
  if wide then { c1 with mx := {}, vec := {}, sp := {}, braid := { owes := c.braid.owes } } else c1

/-- Sequential WBACKs of a core count as read in the tick of its release (R215). -/
def releaseDma (k : Nat) (s : State) : State :=
  let ids := (s.core k).dma.map (·.id)
  if ids.isEmpty then s
  else s.onCluster (s.clusterOf k) fun y =>
    { y with rings := y.rings.map fun r => (r.1, { r.2 with defer := r.2.defer.filter fun e => !ids.contains e.1 }) }

/-- A core that waits at the Proof takes its results and its resets; its PC moves past the PROOF, or stays for an entry
Proof. The manual does not say what `CORE.PC` holds in PROOF_WAIT: here it is the PROOF's own address until this release (DESIGN
CHOICE, log entry 89). -/
def releaseCore (k : Nat) (wide entry : Bool) (orW andW : BitVec 32) (s : State) : State :=
  if (s.core k).seq.st = .proofWait then
    let s1 := (releaseDma k s).onCore k (releaseReset wide)
    if entry then s1
    else (proofResults k orW andW s1).onSeq k fun q => { q with pc := q.pc + 8 }
  else s

/-- Phase tick 0: the core runs, or enters HALTED if a halt was requested while it waited (R36, R84, R413). -/
def beginPhase (k : Nat) (s : State) : State :=
  if (s.core k).seq.st = .proofWait then
    let halt := (s.core k).seq.haltAt
    let s1 := s.onSeq k fun q =>
      { q with
        st := if halt then .halted else .running
        phase0 := s.coreTick k, ready := s.coreTick k, tickTo := 0, tickAt := none, wait := .none, haltAt := false }
    let s2 := traceSync k s1
    if halt then traceClose k s2 else s2
  else s

/-- Cells that a release clears, by its scope (R272). -/
def clearByScope (scope : BitVec 2) (s : State) : State :=
  if scope = 0 then s
  else
    { s with
      clusters := s.clusters.map fun e => (e.1, { e.2 with cells := [] })
      sync := { s.sync with
        mcells := []
        tcells := if scope = 1 then s.sync.tcells else []
        fcells := if scope = 3 then [] else s.sync.fcells } }

/-- Landed rows for the clusters of a release that no KRECV matches are discarded and counted (R295). -/
def dropUnmatched (p : Nat → Bool) (s : State) : State :=
  let bad := fun (l : Landed) => p l.dcluster && ((s.cluster l.dcluster).match' l.srcmod l.tag).isNone
  let n := (s.fab.landed.filter bad).length
  (leaveLanding bad s).onFab fun f => { f with unmatched := satAdd max32 f.unmatched n }

/-- Trace is enabled in a Sealed job: the module encapsulates to the owner key and derives the trace key from the shared secret, and
the reply carries the ciphertext (R470). -/
def traceKeyOn (s : State) : Bytes × State :=
  match s.cur with
  | some i =>
    match (if s.sealedJob then (s.ctx i).sec.list else none) with
    | some l =>
      let (r, s1) := s.drawFree
      let (ct, ss) := Config.kemEncaps ((l.drop 64).take 1568) r
      (padTo 1568 ct, s1.onCtx i fun c => { c with sec := { c.sec with traceKey := some (shake256 (ascii "LTRC" ++ ss) 64) } })
    | none => ([], s)
  | none => ([], s)

/-- Trace is disabled: the trace key is zeroised (R470). -/
def traceKeyOff (s : State) : State :=
  match s.cur with
  | some i => s.onCtx i fun c => { c with sec := { c.sec with traceKey := none } }
  | none => s

/-- An unplanned trace that was asked for begins, at the start of its segments, or ends, and its command is answered; what a trace that
runs has recorded goes out first (R415, R470). -/
def applyTraceReq (s : State) (r : TraceReq) : State :=
  let u : Option UTrace := if r.on then some ⟨r.compat, r.base, r.size⟩ else none
  let s0 := traceFlush s
  let s1 := s0.onObs (setTrace s0.curCtx.launch u s0.allCores.length)
  let s1 := match s1.cur with
    | some i => s1.onCtx i fun c => { c with utrace := u, traced := if r.on then c.traced ++ [(r.base, r.size)] else c.traced }
    | none => s1
  let s1 : State := if r.on then
      { s1 with cores := s1.cores.map fun e => (e.1, { e.2 with trc := { wraps := e.2.trc.wraps, lost := e.2.trc.lost } }) }
    else s1
  let (ct, s2) := if r.on then traceKeyOn s1 else ([], traceKeyOff s1)
  reply r.cmd stOk [] ct true s2

/-- The trace commands that wait take effect, in their order. -/
def applyTrace (s : State) : State :=
  s.obs.pendTrace.foldl applyTraceReq (s.onObs fun o => { o with pendTrace := [] })

/-- The running context is switched out, and the target comes in (R86, R439). -/
def switchNow (i target : Nat) (op : BitVec 32) (s : State) : State :=
  let s1 := traceFlush s
  let img := saveImage i s1
  let s2 := s1.onCtx i fun c => { c with save := some img, switchAt := none }
  let s3 := setCtxSt i .switched (keepImage i img s2)
  startCtx target op s3

/-- An arm meets its ordinal: the capture, or its lapse with a record (R387, R502). -/
def armCheck (i : Nat) (tag : BitVec 16) (orW andW : BitVec 32) (s : State) : State :=
  match (s.ctx i).arm with
  | some a =>
    if a.n != (s.ctx i).fabN then s
    else if a.tag = tag then
      let s1 := traceFlush s
      replyOp a.op stOk (setCtxSt i .held (s1.onCtx i fun c =>
        { c with capture := some (a.n, a.tag, orW, andW) }))
    else lapseArm i stBadParam tag s
  | none => s

/-- The context is to be switched out at this release. An entry Proof has MODULE scope in a job of one module, and counts for no N (R438,
R439). -/
def switchDue (c : Ctx) (entry : Bool) (scope : BitVec 2) : Bool :=
  match c.switchAt with
  | some (_, n, _) => n == 0 || (!entry && scope == 3 && n == c.fabN)
  | none => false

/-- A snapshot record of TRAY or FABRIC scope goes up the Proof tree: to the tray root, and from there, for FABRIC scope, to the
fabric root; the root of its Proof takes it into its buffer (R316, R407, R408). -/
def snapSend (r : Bytes) (s : State) : State :=
  let tray := s.trayRoot s.moduleIndex
  let root := if field r 4 1 = 3 && s.moduleIndex = tray then s.fabRoot else tray
  if root = s.moduleIndex then snapTake r s
  else
    match s.portTo root 0 with
    | some p => s.onPort p fun q =>
        { q with queue := q.queue ++ [.row { s.header root with dcluster := 0x7F, rows := 1 } (padTo 512 r)] }
    | none => s

/-- The snapshot record of a release: this module writes it, or sends it to the root over the side channel (R407, R408). -/
def snapshotAt (scope : BitVec 2) (tag : BitVec 16) (s : State) : State :=
  if s.obs.mode = 1 then
    let r := snapRecord s tag scope
    snapMark (if scope = 1 then snapWrite r s else snapSend r s)
  else s

/-- The monitor of a wide Proof (R417). -/
def sampleRelease (scope : BitVec 2) (s : State) : State :=
  let first := if s.proof.wArgs.isEmpty then s.proof.wLast else leastOf (s.proof.wArgs.map (·.real))
  if scope = 1 then monSample 43 (s.now - first) s
  else if scope = 2 then monSample 44 (s.now - s.proof.wLast) s else monSample 45 (s.now - s.proof.wLast) s

/-- The cores of a wide Proof are released, and what lies between supersteps is done (R39–R43, R277, R407, R415). -/
def releaseCores (i : Nat) (entry : Bool) (scope : BitVec 2) (tag : BitVec 16) (orW andW : BitVec 32) (s : State) : State :=
  let s1 := if entry then s
    else s.onCtx i fun c => { c with w := c.w + 1, fabN := if scope = 3 then c.fabN + 1 else c.fabN }
  let s2 := s1.allCores.foldl (fun s k => releaseCore k true entry orW andW s) s1
  let s3 := dropUnmatched (fun _ => true) (clearByScope scope (sampleRelease scope s2))
  let s4 := applyTrace (snapshotAt scope tag s3)
  { s4 with proof := { phaseStart := s.now, trayIn := s4.proof.trayIn, fabIn := s4.proof.fabIn } }

/-- The entry Proof completes the launch, whose reply carries the key of a planned trace (R406, R438). -/
def launchDone (i : Nat) (s : State) : State :=
  match (s.ctx i).launchOp with
  | some op =>
    let (ct, s') := if s.obs.trace = 1 then traceKeyOn s else ([], s)
    complete op stOk [] ct (s'.onCtx i fun c => { c with launchOp := none })
  | none => s

/-- After a release the next phase begins, unless the context is held or a switch is due here (R86, R387, R531). -/
def releaseNext (i : Nat) (entry : Bool) (scope : BitVec 2) (s : State) : State :=
  if (s.ctx i).st = .held then s
  else if (s.ctx i).st = .running && switchDue (s.ctx i) entry scope then
    match (s.ctx i).switchAt with
    | some (target, _, op) => switchNow i target op s
    | none => s
  else s.allCores.foldl (fun s k => beginPhase k s) s

/-- A release of MODULE scope or wider (R39–R43, R86, R387, R407, R417, R531). -/
def releaseWide (scope : BitVec 2) (tag : BitVec 16) (orW andW : BitVec 32) (s : State) : State :=
  match s.cur with
  | none => s
  | some i =>
    let entry := s.proof.entry.isSome
    let s1 := releaseCores i entry scope tag orW andW s
    releaseNext i entry scope (if entry then launchDone i s1 else armCheck i tag orW andW s1)

/-- A release of CLUSTER scope (R39, R123, R272, R295). -/
def releaseCluster (c : Nat) (orW andW : BitVec 32) (s : State) : State :=
  let ks := s.coresOf c
  let s1 := ks.foldl (fun s k => releaseCore k false false orW andW s) s
  let s2 := dropUnmatched (· == c) s1
  let s3 := s2.onProof fun p => { p with inst := mdel p.inst c }
  ks.foldl (fun s k => beginPhase k s) s3

/-! ### Mismatch (R41, R80) -/

/-- The fault of a core at a Proof that differs: the scope and the tag of the first arrival that differed. -/
def mismatchFault (k : Nat) (d : BitVec 2 × BitVec 16) (s : State) : State :=
  if (s.core k).seq.st = .proofWait then seqIllegal k 0x05 (d.1.toNat * 2 ^ 16 + d.2.toNat) s else s

/-- Every core of a list that waits at the Proof faults. -/
def mismatchAll (ks : List Nat) (d : BitVec 2 × BitVec 16) (s : State) : State :=
  ks.foldl (fun s k => mismatchFault k d s) s

/-! ### Roots (R316) -/

/-- What a root concludes from its arrivals: the widest scope, and the first that differs from the first, or is marked as
differing. -/
def gathered (xs : List ModArrival) : BitVec 2 × Option (BitVec 2 × BitVec 16) :=
  match xs with
  | [] => (0, none)
  | x :: _ =>
    (xs.foldl (fun a y => wider a y.wide) 0,
      (xs.find? fun y => y.differ || y.scope != x.scope || y.tag != x.tag).map fun y => (y.scope, y.tag))

/-- The combination of arrivals (R42): OR, AND, and the latest time; with a difference, its scope and tag (R316). -/
def combine (src : Nat) (xs : List ModArrival) : ModArrival :=
  let g := gathered xs
  let first := match xs with
    | x :: _ => (x.scope, x.tag)
    | [] => (0, 0)
  let st := g.2.getD first
  { src := src, scope := st.1, wide := g.1, differ := g.2.isSome, tag := st.2, orW := xs.foldl (fun a x => a ||| x.orW) 0
    andW := xs.foldl (fun a x => a &&& x.andW) 0xFFFFFFFF#32, ftime := xs.foldl (fun a x => max a x.ftime) 0
    modules := xs.foldl (fun a x => a + x.modules) 0 }

/-- Fabric time in the low 46 bits of a packet. -/
def ftime46 (n : Nat) : BitVec 46 := BitVec.ofNat 46 n

/-- Queue a control packet for another module, by its even port (R311, R316). -/
def sendLat (m : Nat) (o : LatHdr → LatOut) (h : LatHdr) (s : State) : State :=
  match s.portTo m 0 with
  | some p => s.onPort p fun q => { q with queue := q.queue ++ [o h] }
  | none => s

/-- The fields of PROOF_ARRIVE and PROOF_RELEASE. -/
def proofHdr (s : State) (dst : Nat) (a : ModArrival) (mismatch : Bool) : LatHdr :=
  { s.header dst with
    ptag := a.tag, scope := a.scope, orWord := if mismatch then 0 else a.orW, andWord := if mismatch then 0 else a.andW
    ftime := ftime46 a.ftime, mismatch := mismatch }

/-- A release enters at this module: its cores are released when fabric time reaches T_last and the turnaround (R316). -/
def pendRelease (a : ModArrival) (scope : BitVec 2) (mismatch : Bool) (s : State) : State :=
  let time := a.ftime + (turnaround scope)
  s.onProof fun p =>
    { p with fab := some { time := time, scope := a.scope, tag := a.tag, orW := a.orW, andW := a.andW, mismatch := mismatch,
                           late := decide (time < s.fab.ftime) } }

/-- PROOF_RELEASE goes to the modules of this module's tray, and takes effect here. -/
def releaseTray (a : ModArrival) (scope : BitVec 2) (mismatch : Bool) (s : State) : State :=
  let others := (s.trayModules s.moduleIndex).filter (· != s.moduleIndex)
  pendRelease a scope mismatch (others.foldl (fun s m => sendLat m .proofRelease (proofHdr s m a mismatch) s) s)

/-- The fabric root has heard every tray root (R316). -/
def fabRootDone (s : State) : State :=
  let xs := s.proof.fabIn
  if s.cur.isNone || xs.length < s.trayRoots.length then s
  else
    let a := combine s.moduleIndex xs
    let d := (gathered xs).2.isSome
    let others := s.trayRoots.filter (· != s.trayRoot s.moduleIndex)
    let s1 := others.foldl (fun s m => sendLat m .proofRelease (proofHdr s m a d) s) s
    let first := leastOf (xs.map (·.ftime))
    releaseTray a 3 d (skewSample 3 (a.ftime - first) (s1.onProof fun p => { p with fabIn := [] }))

/-- A tray root has heard every module of its tray: it releases, or passes on (R316). -/
def trayRootDone (s : State) : State :=
  let xs := s.proof.trayIn
  if s.cur.isNone || xs.length < (s.trayModules s.moduleIndex).length then s
  else
    let a := combine s.moduleIndex xs
    let g := gathered xs
    let s1 := s.onProof fun p => { p with trayIn := [] }
    if g.1 = 3 then
      if s.moduleIndex = s.fabRoot then
        fabRootDone (s1.onProof fun p => { p with fabIn := p.fabIn ++ [a] })
      else sendLat s.fabRoot .proofArrive (proofHdr s s.fabRoot a false) s1
    else releaseTray a 2 g.2.isSome (skewSample 2 (a.ftime - leastOf (xs.map (·.ftime))) s1)

/-- An arrival reaches its root: one from this tray counts in the tray, one from another tray in the fabric. -/
def rootArrival (a : ModArrival) (s : State) : State :=
  if a.src / 8 = s.moduleIndex / 8 then trayRootDone (s.onProof fun p => { p with trayIn := p.trayIn ++ [a] })
  else fabRootDone (s.onProof fun p => { p with fabIn := p.fabIn ++ [a] })

/-- This module's PROOF_ARRIVE, with the scope and tag of the first arrival, or of the one that differed (R41, R316). The packet has no
mark for a difference (R307), so the root sees one of another module only if that scope or tag differs from those of the first
arrival there (DEDUCED, log entry 46). -/
def moduleArrive (wide scope : BitVec 2) (tag : BitVec 16) (differ : Bool) (orW andW : BitVec 32) (s : State) : State :=
  let a : ModArrival :=
    { src := s.moduleIndex, scope := scope, wide := wide, differ := differ, tag := tag, orW := orW, andW := andW,
      ftime := s.fab.ftime, modules := 1 }
  let root := s.trayRoot s.moduleIndex
  let s1 := s.onProof fun p => { p with sent := true }
  if root = s.moduleIndex then rootArrival a s1
  else sendLat root .proofArrive (proofHdr s root a false) s1

/-! ### Instances (R41) -/

/-- The first arrival of a list that differs from the first. -/
def firstDiffer (xs : List Arrival) : Option (BitVec 2 × BitVec 16) :=
  match xs with
  | [] => none
  | x :: rest =>
    (rest.find? fun y => y.arg.scope != x.arg.scope || y.arg.tag != x.arg.tag).map fun y => (y.arg.scope, y.arg.tag)

/-- The widest scope that arrivals name. -/
def widest (xs : List Arrival) : BitVec 2 := xs.foldl (fun a x => wider a x.arg.scope) 0

/-- The OR word of arrivals. -/
def orOf (xs : List Arrival) : BitVec 32 := xs.foldl (fun a x => a ||| x.orW) 0
/-- The AND word of arrivals. -/
def andOf (xs : List Arrival) : BitVec 32 := xs.foldl (fun a x => a &&& x.andW) 0xFFFFFFFF#32

/-- Ticks from the first arrival to the last (R409). -/
def skewOf (xs : List Arrival) : Nat :=
  (xs.foldl (fun a x => max a x.atT) 0) - leastOf (xs.map (·.atT))

/-- Every cluster has passed on: the module's instance releases at MODULE scope, or goes to its root (R41, R316). -/
def widerDone (s : State) : State :=
  let p := s.proof
  let clusters := (s.allCores.map s.clusterOf).eraseDups
  if p.wider.length < clusters.length then s
  else
    let scope := widest p.wArgs
    let s1 := s.onProof fun p => { p with wLast := s.now }
    if scope = 1 then
      match p.wDiffer with
      | some _ => s1
      | none => skewSample 1 (skewOf p.wArgs) (s1.onProof fun p => { p with release := some (s.now + turnaround 1) })
    else
      match p.wDiffer, p.wArgs with
      | some d, _ => moduleArrive scope d.1 d.2 true (orOf p.wArgs) (andOf p.wArgs) s1
      | none, x :: _ => moduleArrive scope x.arg.scope x.arg.tag false (orOf p.wArgs) (andOf p.wArgs) s1
      | none, [] => s1

/-- The core takes part in the wider instance in progress: its cluster has passed on to it, or its cluster instance names a wider scope.
An instance of CLUSTER scope alone releases by itself (R41). -/
def inWider (s : State) (k : Nat) : Bool :=
  let c := s.clusterOf k
  s.proof.wider.contains c || widest (mget s.proof.inst c {}).arrivals != 0

/-- A cluster instance passes on to the wider stage (R41). -/
def passOn (c : Nat) (x : ClInst) (s : State) : State :=
  let s1 := s.onProof fun p =>
    let all := p.wArgs ++ x.arrivals
    { p with
      wider := p.wider ++ [c], wArgs := all, inst := mdel p.inst c
      wDiffer := match p.wDiffer with
        | some d => some d
        | none => match x.differ with
          | some d => some d
          | none => firstDiffer all }
  let s2 := match s1.proof.wDiffer with
    | some d => if widest s1.proof.wArgs = 1 then mismatchAll (s1.allCores.filter (inWider s1)) d s1 else s1
    | none => s1
  widerDone s2

/-- An arrival joins the cluster instance of its cluster. Once the module's wider instance differs at MODULE scope, the cores that wait
in a cluster instance of a wider scope fault with it, and those of an instance of CLUSTER scope alone do not (R41). -/
def joinInstance (k : Nat) (a : Arrival) (s : State) : State :=
  let c := s.clusterOf k
  let x := mget s.proof.inst c {}
  let xs := x.arrivals ++ [a]
  let differ := match x.differ with
    | some d => some d
    | none => firstDiffer xs
  let x' : ClInst := { x with arrivals := xs, differ := differ }
  let s1 := s.onProof fun p => { p with inst := mset p.inst c x' }
  let wd := match s.proof.wDiffer with
    | some d => if widest s.proof.wArgs = 1 && widest xs != 0 then some d else none
    | none => none
  let s2 := match differ, wd with
    | some d, _ | none, some d => mismatchAll (s.coresOf c) d s1
    | none, none => s1
  if xs.length < (s.coresOf c).length then s2
  else if widest xs = 0 then
    match differ with
    | some _ => s2
    | none =>
      skewSample 0 (skewOf xs) (s2.onProof fun p =>
        { p with inst := mset p.inst c { x' with release := some (s.now + turnaround 0) } })
  else passOn c x' s2

/-! ### Arrival (R37, R76, R271, R294, R300) -/

/-- The lowest enabled link of a core that holds a filled slot (R76). -/
def residue (c : Core) : Option Nat :=
  (List.range 16).find? fun n => linkEnabled (c.link n).cfg && (c.link n).filled != 0

/-- Everything the core issued has retired, completed, been applied (R37, R197, R271). -/
def mayArrive (s : State) (k : Nat) : Bool :=
  stationsIdle s k allStations (s.coreTick k) && spComplete (s.core k) (s.coreTick k) && ((s.core k).dma.all (·.done)) &&
    !(s.sync.sigs.any fun g => g.core == some k) && !(s.sync.msgs.any fun m => m.src == k) && (s.core k).ks.isEmpty &&
    !((s.cluster (s.clusterOf k)).krecvs.any fun r => r.core == k)

/-- The core reaches the Proof: OR bit 0 is its non-finite flag (R42, R43). -/
def arrive (k : Nat) (p : ProofArg) (s : State) : State :=
  let q := (s.core k).seq
  let orV := (q.reg p.orSrc).setWidth 32
  let orW := (orV &&& ~~~1#32) ||| (if (s.core k).nf.flag then 1#32 else 0#32)
  let a : Arrival := { core := k, arg := p, orW := orW, andW := (q.reg p.andSrc).setWidth 32, atT := s.coreTick k, real := s.now }
  let s1 := (traceProof k p s).onSeq k fun q =>
    { q with st := .proofWait, wait := .none, proof := p, lastTag := p.tag, tickAt := none }
  joinInstance k a s1

/-- The cause of the Hold for a KRECV that has not retired: link retry if that delays one of its late rows (R294, R328). -/
def recvCause (s : State) (c : Nat) (r : KRecv) : BitVec 4 :=
  if (List.range r.rowsNo.length).any fun i =>
      !r.got.contains i && lateCause s c ⟨(r.rowsNo[i]?).getD 0, r.id, true⟩ == causeRetry then causeRetry
  else causeKnead

/-- The core executes PROOF while some of its KRECVs have not retired: each raises the Hold of its late rows (R294). -/
def recvHold (k : Nat) (s : State) : State :=
  let c := s.clusterOf k
  let raised := fun (s : State) (item : Nat) => s.hold.eps.any fun e => e.raisers.any fun r =>
    r.who == .island c && r.item == some item && r.clear.isNone
  (s.cluster c).krecvs.foldl (fun s r =>
    if r.core = k && !raised s (recvItem r.id) then
      raiseIsland c (recvCause s c r) none (some (recvItem r.id)) s
    else s) s

/-- A core that waits in PROOF reaches it once the arrival conditions hold, if its links and its Braid buffer are empty (R37, R76,
R271, R294, R300). -/
def proofTry (k : Nat) (s : State) : State :=
  match (s.core k).seq.wait with
  | .proof p =>
    if (s.core k).seq.st != .running || s.proof.entry.isSome then s
    else if s.coreFrozen k then (if detecting (s.clusterOf k) s && !mayArrive s k then recvHold k s else s)
    else if mayArrive s k then
      match residue (s.core k) with
      | some n => seqIllegal k 0x07 n s
      | none =>
        let b := (s.core k).braid
        if b.buf.isEmpty && b.forward.isEmpty then arrive k p s else seqIllegal k 0x07 0x10 s
    else recvHold k s
  | _ => s

/-- PROOF: two words, never guarded (R62, R63, R80). -/
def execProof (k : Nat) (g : Guard) (scope : BitVec 2) (orSrc andSrc orDst andDst : BitVec 5) (tag : BitVec 16)
    (s : State) : Host.Outcome State Fault Refusal :=
  .next (seqAt k (s.names k (.proof k g scope orSrc andSrc orDst andDst tag))
    (neverGuarded k g (seqBody k g [orSrc, andSrc] false fun s =>
      let c := s.core k
      let a := c.seq.pc.toNat + 4
      if !c.inCode a 4 then lsBounds k 0 a s
      else if c.parityBad a 4 then lsParity k a s
      else proofTry k (s.onSeq k fun q =>
        { q with wait := .proof ⟨scope, tag, orSrc, andSrc, orDst, andDst⟩, tickAt := none }))) s)

/-- PROOF_REACH: a core that waits in PROOF looks at its arrival conditions again. -/
def execProofReach (k : Nat) (s : State) : Host.Outcome State Fault Refusal := .next (proofTry k s)

/-- Units that a full ring holds in the mesh may hold back Proof traffic, which is CTL traffic of plane 0 (R233, R284). The manual gives
Proof traffic no routers, so it is no packet here, and whether it meets those units is a free value while there are any (DESIGN CHOICE,
log entry 95). -/
def proofHeld (s : State) : Bool × State :=
  if s.pkts.any (heldMsg s.msgRoom s) then
    let (v, s1) := s.drawFree
    (v.getLsbD 0, s1)
  else (false, s)

/-- The turnaround of a cluster instance, or of the module's wider instance, is over (R39). -/
def proofDue (i : ProofInst) (s : State) : State :=
  match i with
  | .cluster c =>
    let x := mget s.proof.inst c {}
    match x.release with
    | some t => if t ≤ s.now then releaseCluster c (orOf x.arrivals) (andOf x.arrivals) s else s
    | none => s
  | .module =>
    match s.proof.release with
    | some t =>
      if t ≤ s.now then
        let p := s.proof
        let tag := match p.wArgs with
          | x :: _ => x.arg.tag
          | [] => 0
        releaseWide 1 tag (orOf p.wArgs) (andOf p.wArgs) s
      else s
    | none => s

/-- PROOF_RELEASE: an instance is released the turnaround after its last arrival. A Hold does not defer it (R39, R40, R284, R334). -/
def execProofRelease (i : ProofInst) (s : State) : Host.Outcome State Fault Refusal :=
  let (held, s1) := proofHeld s
  .next (if held then s1 else proofDue i s1)

/-- A release that came `d` ticks late is recorded as a Hold of cause LINK_RETRY over the delay: an episode that began in the
tick in which
the release was due, or in which the last episode ended, with every island as its raiser and the cause over in this tick. The
cores are released in this tick, and their counters stand at 0 until the islands thaw (R40, R57, R317, R331). In an episode the
islands detect nothing, and the delay is a sample alone (DEDUCED, log entry 46). -/
def lateRelease (d : Nat) (s : State) : State :=
  if s.hold.eps.isEmpty then
    let u := max (s.now - d) s.hold.lastEnd
    let cs := List.range nIslands
    let e : Episode :=
      { u0 := u, froze := cs.map fun c => (c, u), timed := s.holdTimed
        raisers := cs.map fun c => { who := .island c, cause := causeRetry, s := u, clear := some s.now } }
    { s with hold := { s.hold with
        eps := [e], islands := cs.foldl (fun m c => mset m c { s.island c with since := some u }) s.hold.islands } }
  else monSample 42 d s

/-- FABRIC_PROOF_RELEASE_TIME: fabric time has reached T_last plus the turnaround; the cores are released, or fault if the
Proof differed (R316, R317). -/
def execFabricProofReleaseTime (s : State) : Host.Outcome State Fault Refusal :=
  .next (match s.proof.fab with
    | some r =>
      if s.fab.ftime < r.time then s
      else if r.mismatch then mismatchAll s.allCores (r.scope, r.tag) (s.onProof fun p => { p with fab := none })
      else
        releaseWide r.scope r.tag r.orW r.andW (if r.late then lateRelease (s.fab.ftime - r.time) s else s)
    | none => s)

/-! ### The entry Proof (R438, R511) -/

/-- The start of a context ends before its first phase: its operation completes with a status, and it is LOADED again. -/
def entryFail (i : Nat) (status : Nat) (s : State) : State :=
  let s1 := match (s.ctx i).launchOp with
    | some op => complete op status [] [] s
    | none => s
  let s2 : State := { s1 with
    cores := s1.cores.map fun e => (e.1, { e.2 with seq := { e.2.seq with st := .idle, wait := .none } })
    proof := {} }
  setCtxSt i .loaded (s2.onCtx i fun c => { c with launchOp := none, launched := false })

/-- A core of the context waits at the entry Proof. -/
def entryArrive (e : Nat × Core) : Nat × Core := (e.1, { e.2 with seq := { e.2.seq with st := .proofWait, wait := .none } })

/-- ENTRY_PROOF_ARRIVAL: every core arrives 4,096 ticks after take-up, and no frozen core arrives (R334); the module compares its
TT-ID, its `FLAGS` [10:0]
and its Hold limit with those of the fabric root, which a job of several modules brings with it. -/
def execEntryProofArrival (root : Option RootLaunch) (s : State) : Host.Outcome State Fault Refusal :=
  .next (match s.proof.entry, s.proof.entryAt with
    | some i, some t =>
      if s.now < t || s.allCores.any s.coreFrozen then s
      else
        let c := s.ctx i
        let arg := entryArg c
        let bad := match root with
          | some r =>
            if arg.scope = 1 then none
            else if r.ttId != c.bin.ttId then some stTable
            else if (r.flags ^^^ c.launch.flags) &&& 0x7FF#16 != 0 || r.holdLimit != c.launch.holdLimit then some stBadParam
            else none
          | none => none
        match bad with
        | some st => entryFail i st s
        | none =>
          let s1 : State := { s with
            cores := s.cores.map entryArrive
            proof := { s.proof with entryAt := none, wLast := s.now } }
          if arg.scope = 1 then
            skewSample 1 0 (s1.onProof fun p => { p with release := some (s.now + turnaround 1) })
          else moduleArrive 3 3 0 false 0 0xFFFFFFFF s1
    | _, _ => s)

end Sys2Proof.Machine
end

