-- ==== Sys2Proof/Machine/Sync.lean ====
section
/-! DEFINITION. Sync objects and core channels: SIG, WAIT, SEND, RECV, RELEASE and the events that carry them out
(R260–R285, R327). -/

namespace Sys2Proof.Machine

/-! ### Virtual IDs and cells (R264, R265, R267, R268) -/

/-- The translation entry of a virtual ID in the running context's table. -/
def State.xlatEntry (s : State) (vid : Nat) : Word := mget (mget s.sync.xlat (s.cur.getD 0) []) vid 0

/-- `VALID`, `SCOPE`, `HOME`, `CLUSTER` and `CELL` (R265). -/
def xlValid (e : Word) : Bool := e.getLsbD 63
def xlScope (e : Word) : Nat := bits e.toNat 61 2
def xlHome (e : Word) : Nat := bits e.toNat 40 10
def xlCluster (e : Word) : Nat := bits e.toNat 24 7
def xlCell (e : Word) : Nat := bits e.toNat 0 16

/-- The cell an entry names. -/
def xlRef (e : Word) : CellRef :=
  match xlScope e with
  | 0 => .cluster (xlCluster e) (xlCell e)
  | 1 => .module (xlCell e)
  | 2 => .tray (xlCell e)
  | _ => .fabric (xlCell e)

/-- The module that holds the cell. -/
def xlModule (s : State) (e : Word) : Nat :=
  match xlScope e with
  | 2 => inTray s.moduleIndex (xlHome e % 8)
  | 3 => xlHome e
  | _ => s.moduleIndex

/-- Home cluster of a cell (R267). -/
def homeOf : CellRef → Nat
  | .cluster c _ => c
  | .module n | .tray n | .fabric n => n % 96

/-- The operation is allowed on the cell under R267: `wait` says that it is a WAIT. -/
def syncAllowed (s : State) (k : Nat) (e : Word) (wait : Bool) : Bool :=
  match xlScope e with
  | 0 => xlCluster e == s.clusterOf k
  | 1 => true
  | _ => !wait || xlModule s e == s.moduleIndex

/-- A cell. -/
def State.cell (s : State) : CellRef → Cell
  | .cluster c n => mget (s.cluster c).cells n {}
  | .module n => mget s.sync.mcells n {}
  | .tray n => mget s.sync.tcells n {}
  | .fabric n => mget s.sync.fcells n {}

/-- Put a cell. -/
def State.putCell (s : State) (r : CellRef) (x : Cell) : State :=
  match r with
  | .cluster c n => s.onCluster c fun y => { y with cells := mset y.cells n x }
  | .module n => s.onSync fun y => { y with mcells := mset y.mcells n x }
  | .tray n => s.onSync fun y => { y with tcells := mset y.tcells n x }
  | .fabric n => s.onSync fun y => { y with fcells := mset y.fcells n x }

/-- Scope code and number of a cell (R265). -/
def cellCode : CellRef → Nat × Nat
  | .cluster _ n => (0, n)
  | .module n => (1, n)
  | .tray n => (2, n)
  | .fabric n => (3, n)

/-! ### Latencies (R269) -/

/-- From the issue of a SIG to its application. A signal to a TRAY or FABRIC cell of this module has an upper bound alone;
it comes no sooner than a MODULE signal would. -/
def sigLat (s : State) (c : Nat) (r : CellRef) : Nat :=
  match r with
  | .cluster .. => 4
  | _ => 20 + s.latency c (homeOf r)

/-- From the issue of a WAIT to its arrival. -/
def waitLat (s : State) (c : Nat) (r : CellRef) : Nat :=
  match r with
  | .cluster .. => 2
  | _ => 8 + s.latency c (homeOf r)

/-- From the application to the waiter's next instruction. -/
def wakeLat (s : State) (c : Nat) (r : CellRef) : Nat :=
  match r with
  | .cluster .. => 8
  | _ => 24 + s.latency (homeOf r) c

/-! ### SIG and WAIT (R260, R268) -/

/-- SYNC_UNMAPPED with the virtual ID (R79, R268). -/
def syncUnmapped (k : Nat) (id : Word) (s : State) : State := seqFault k 0x07 (packWord [(id.toNat % 2 ^ 20, 0)]) s

/-- The checks of R268, then the operation. -/
def syncOp (k : Nat) (ra : BitVec 5) (wait : Bool) (body : Word → BitVec 20 → State → State) (s : State) : State :=
  let id := rg k ra s
  let e := s.xlatEntry id.toNat
  if 2 ^ 20 ≤ id.toNat || !xlValid e || !syncAllowed s k e wait then syncUnmapped k id s
  else body e (id.setWidth 20) s

/-- A CTL packet for an operation of a core, between two clusters; a cell of CLUSTER scope is reached without the mesh (R233, R269). -/
def ctlFor (r : CellRef) (src dst k : Nat) (s : State) : Option Nat × State :=
  match r with
  | .cluster .. => (none, s)
  | _ =>
    let (i, s1) := s.sendCtl src dst 1 (some k)
    (some i, s1)

/-- A signal to a cell of another module goes over the mesh to its Lattice port (R233, R310, R311). -/
def sigAway (m k : Nat) (h : LatHdr) (s : State) : Option Nat × State :=
  match s.portTo m 0 with
  | some p =>
    let (i, s1) := s.sendNew
      { id := 0, src := s.clusterOf k, dst := s.portRouter p, kind := .ctl, plane := 0, vc := 2, core := some k, rows := 1
        dstEnd := .lattice, lat := some (p, h) }
    (some i, s1)
  | none => (none, s)

/-- SIG: the signal leaves, and the sequencer goes on in the next tick (R260, R269). The phase tick that a MULTI_WAITER record names is
that of this issue, and its layer and operator are the last issued when the signal is applied: R262 does not date them (DESIGN CHOICE,
log entry 111). -/
def execSig (k : Nat) (g : Guard) (ra : BitVec 5) (n1 : BitVec 16) (s : State) : Host.Outcome State Fault Refusal :=
  .next (seqInstr k (.sig k g ra n1) g [ra] false (syncOp k ra false fun e vid s =>
    let r := xlRef e
    let m := xlModule s e
    let away := m != s.moduleIndex
    let (p, s1) := if away then sigAway m k { s.header m with vid := vid, amount1 := n1 } s
      else ctlFor r (s.clusterOf k) (homeOf r) k s
    let x : SigFly :=
      { cell := r, amount := n1.toNat + 1, vid := vid, due := s.coreTick k + sigLat s (s.clusterOf k) r, home := homeOf r,
        core := some k, phase := s.phase k, away := away, pkt := p }
    seqNext k 1 (s1.onSync fun y => { y with sigs := y.sigs ++ [x] })) s)

/-- WAIT: it travels to its cell and stops the sequencer (R260, R269). -/
def execWait (k : Nat) (g : Guard) (ra : BitVec 5) (n1 : BitVec 16) (s : State) : Host.Outcome State Fault Refusal :=
  .next (seqInstr k (.wait k g ra n1) g [ra] false (syncOp k ra true fun e vid s =>
    let r := xlRef e
    let due := s.coreTick k + waitLat s (s.clusterOf k) r
    let (p, s1) := ctlFor r (s.clusterOf k) (homeOf r) k s
    s1.onSeq k fun q => { q with wait := .sync r (n1.toNat + 1) vid (.travelling due), wpkt := p, tickAt := none }) s)

/-! ### At the cell (R261–R263, R327) -/

/-- The mark of a raiser that awaits a CTL packet. -/
def ctlItem : Nat := 2 ^ 21

/-- A CTL packet for an island is absent at its due tick (R327). -/
def ctlDue (s : State) (c : Nat) : Bool :=
  let t := s.ticks c
  s.sync.sigs.any (fun x => !x.away && x.home == c && x.core.isSome && decide (x.due ≤ t) && !s.arrived x.pkt) ||
    s.sync.msgs.any (fun m => s.clusterOf m.dst == c && m.wr.isNone && decide (m.atT + 7 + m.lat ≤ t) &&
      !s.arrived (some m.pkt)) ||
    s.allCores.any fun k =>
      let q := (s.core k).seq
      match q.wait with
      | .sync r _ _ (.travelling due) => homeOf r == c && decide (due ≤ t) && !s.arrived q.wpkt
      | .sync _ _ _ (.released due) => s.clusterOf k == c && decide (due ≤ t) && !s.arrived q.wpkt
      | .send _ (.written due) => s.clusterOf k == c && decide (due ≤ t) && !s.arrived q.wpkt
      | _ => false

/-- The CTL packets that an island awaited have come: its cause clears. -/
def ctlArrives (c : Nat) (s : State) : State :=
  if ctlDue s c then s
  else clearCause (fun r => r.who == .island c && r.cause == causeMesh && r.item == some ctlItem) s

/-- A waiter is released in this tick: the release is on its way back (R261, R269). -/
def wake (r : CellRef) (t k : Nat) (s : State) : State :=
  match (s.core k).seq.wait with
  | .sync c a v _ =>
    let (p, s1) := ctlFor r (homeOf r) (s.clusterOf k) k s
    s1.onSeq k fun q => { q with wait := .sync c a v (.released (t + wakeLat s (s.clusterOf k) r)), wpkt := p }
  | _ => s

/-- Release waiters from the head of a cell's queue while the count covers them (R261). -/
def releaseWaiters (r : CellRef) (t : Nat) : Nat → State → State
  | 0, s => s
  | n + 1, s =>
    let x := s.cell r
    match x.queue with
    | (k, a) :: rest =>
      if a ≤ x.count then
        releaseWaiters r t n (wake r t k (s.putCell r { x with count := x.count - a, queue := rest }))
      else s
    | [] => s

/-- The tick in which a signal is due: one from another module is due when its packet has come (R269, R270). -/
def SigFly.dueAt (x : SigFly) (now : Nat) : Nat := if x.srcMod.isSome then now else x.due

/-- The signals of a cell that are due first; those due in one tick count as one (R261). -/
def firstSigs (s : State) (r : CellRef) : List SigFly :=
  let now := s.ticks (homeOf r)
  let xs := s.sync.sigs.filter fun x => x.cell == r && !x.away && (x.srcMod.isNone || s.arrived x.pkt)
  let t := xs.foldl (fun (a : Option Nat) x => some (min (x.dueAt now) (a.getD (x.dueAt now)))) none
  xs.filter fun x => t == some (x.dueAt now)

/-- MULTI_WAITER: two or more waiters are queued when a signal reaches the cell (R262). Of a signaller in another module the packet
says no more than its module: its core number, phase tick and IDs are free values (R307, log entry 2). -/
def multiWaiter (x : SigFly) (waiters : Nat) (s : State) : State :=
  if waiters < 2 then s
  else
    let (scope, n) := cellCode x.cell
    let s1 := s.onSync fun y => { y with mw := satAdd max32 y.mw 1 }
    match x.core with
    | some k =>
      let q := (s.core k).seq
      obsRecord 1 scope k waiters n x.vid.toNat x.phase q.lastLayer q.lastOp s.moduleIndex s1
    | none =>
      let (v, s2) := s1.drawFree
      obsRecord 1 scope (bits v.toNat 0 11) waiters n x.vid.toNat (bits v.toNat 32 32) (v.extractLsb' 11 12)
        ((v.extractLsb' 23 9).setWidth 12) (x.srcMod.getD 0) s2

/-- The signals that are due first are applied to their cell: the count stops at its ceiling, and waiters are released
(R261–R263). -/
def applySignals (r : CellRef) (xs : List SigFly) (s : State) : State :=
  let cell := s.cell r
  let total := xs.foldl (fun a x => a + x.amount) 0
  let past := decide (max32 < cell.count + total)
  let s1 := xs.foldl (fun s x => (multiWaiter x cell.queue.length s).consume x.pkt) s
  let s2 := s1.onSync fun y =>
    { y with sigs := y.sigs.filter fun x => !xs.contains x
             overflows := if past then satAdd max32 y.overflows 1 else y.overflows }
  let s3 := s2.putCell r { cell with count := satAdd max32 cell.count total, ovf := cell.ovf || past }
  releaseWaiters r (s.ticks (homeOf r)) cell.queue.length s3

/-- SIGNAL_APPLY: at its due tick a signal is applied, if its packet has come (R327). A signal whose cell lies in another module is
applied there, once it has left by its port. -/
def signalApply (r : CellRef) (s : State) : State :=
  let h := homeOf r
  match firstSigs s r with
  | x :: xs =>
    if s.frozen h then ctlArrives h s
    else if x.dueAt (s.ticks h) ≤ s.ticks h && (x :: xs).all (fun y => s.arrived y.pkt) then applySignals r (x :: xs) s
    else s
  | [] => s.onSync fun y => { y with sigs := dropFirst (fun x => x.cell == r && x.away && s.arrived x.pkt) y.sigs }

def execSignalApply (cell : CellRef) (s : State) : Host.Outcome State Fault Refusal := .next (signalApply cell s)

/-- The WAIT of a core on its way to a cell: the cell, the amount and the due tick. -/
def travelling (s : State) (k : Nat) : Option (CellRef × Nat × Nat) :=
  match (s.core k).seq.wait with
  | .sync r a _ (.travelling due) => some (r, a, due)
  | _ => none

/-- No signal and no other WAIT reaches the cell before this WAIT does: signals come first, then the lower core (R261). -/
def waitIsNext (s : State) (k : Nat) (r : CellRef) (due : Nat) : Bool :=
  !(s.sync.sigs.any fun x => x.cell == r && !x.away &&
      if x.srcMod.isSome then s.arrived x.pkt else decide (x.due ≤ due)) &&
    s.allCores.all fun j =>
      match travelling s j with
      | some (r', _, d) => r' != r || decide (due < d) || (d == due && decide (k ≤ j))
      | none => true

/-- WAIT_ARRIVAL: a WAIT reaches its cell; it is released, or joins the queue (R260, R261). -/
def waitArrival (k : Nat) (s : State) : State :=
  match travelling s k with
  | some (r, a, due) =>
    let h := homeOf r
    if s.frozen h then ctlArrives h s
    else if due ≤ s.ticks h && s.arrived (s.core k).seq.wpkt && waitIsNext s k r due then
      let x := s.cell r
      let s1 := (s.consume (s.core k).seq.wpkt).onSeq k fun q =>
        match q.wait with
        | .sync c n v _ => { q with wait := .sync c n v .queued, wpkt := none }
        | _ => q
      let s2 := s1.putCell r { x with queue := x.queue ++ [(k, a)] }
      if x.queue.isEmpty then releaseWaiters r (s.ticks h) 1 s2 else s2
    else s
  | none => s

def execWaitArrival (k : Nat) (s : State) : Host.Outcome State Fault Refusal := .next (waitArrival k s)

/-- WAITER_RESUME: the release reaches the core, and its next instruction executes (R269). -/
def execWaiterResume (k : Nat) (s : State) : Host.Outcome State Fault Refusal :=
  .next (match (s.core k).seq.wait with
    | .sync _ _ _ (.released due) =>
      if s.coreFrozen k then ctlArrives (s.clusterOf k) s
      else if due ≤ s.coreTick k && (s.core k).seq.st == .running && s.arrived (s.core k).seq.wpkt then
        seqNext k 0 ((s.consume (s.core k).seq.wpkt).onSeq k fun q => { q with wait := .none, wpkt := none })
      else s
    | _ => s)

/-! ### Channels (R277–R283) -/

/-- A message header, or a skip record (R278). -/
def msgHeader (sender ep skip seq len : Nat) : Word :=
  packWord [(sender % 2048, 53), (ep % 8, 50), (skip % 4096, 32), (seq % 65536, 16), (len % 128, 0)]

/-- A message with one more unit read; the hardware writes the header into the first (R278, R281). -/
def Msg.read (c : Core) (seq : Nat) (m : Msg) : Msg :=
  let i := m.data.length / 64
  let unit := memBytes c.ls (m.from' + 64 * i) 64
  { m with data := m.data ++ if i = 0 then leBytes 8 (msgHeader m.src m.ep.toNat 0 seq m.n).toNat ++ unit.drop 8 else unit }

/-- SEND: the checks of R280; the first unit is read, its packet leaves, and the sequencer waits until all are written
(R281, R283). -/
def execSend (k : Nat) (g : Guard) (ep : BitVec 3) (ra rb : BitVec 5) (s : State) : Host.Outcome State Fault Refusal :=
  .next (seqInstr k (.send k g ep ra rb) g [ra, rb] false (fun s =>
    let c := s.core k
    let x := c.txEp ep.toNat
    let n := bits (rg k rb s).toNat 0 6 + 1
    let a := (rg k ra s).toNat
    if chEnable x.cfg && decide (chSize x.cfg < n) then seqFault k 0x09 (packWord [(n, 8), (ep.toNat, 0)]) s
    else if a % 64 ≠ 0 then seqIllegal k 0x06 a s
    else if !c.inData a (64 * n) then lsBounds k 4 a s
    else if !chEnable x.cfg then seqIllegal k 0x04 ep.toNat s
    else if c.parityBad a 64 then lsParity k a s
    else
      let dst := chPeer x.cfg
      let src := s.clusterOf k
      let (i, s1) := s.sendCtl src (s.clusterOf dst) n (some k)
      let m : Msg :=
        { pkt := i, src := k, ep := ep, dst := dst, dstEp := BitVec.ofNat 3 (chPeerEp x.cfg), n := n, data := []
          atT := s.coreTick k, lat := s.latency src (s.clusterOf dst), from' := a }
      (s1.onSync fun y => { y with msgs := y.msgs ++ [m.read c x.seq.toNat] }).onCore k fun c =>
        { c.onTx ep.toNat (fun t => { t with seq := t.seq + 1, busy := true }) with
          seq := { c.seq with wait := .send ep .travelling, wpkt := some i, tickAt := none } }) s)

/-- Rewrite a message. -/
def State.onMsg (s : State) (pkt : Nat) (f : Msg → Msg) : State :=
  s.onSync fun y => { y with msgs := y.msgs.map fun m => if m.pkt = pkt then f m else m }

/-- The next unit of a message is read, one in a tick of the sender's island, while its core is not stopped by a fault; a unit of bad
parity stops it (R73, R281, R283). -/
def msgRead (m : Msg) (s : State) : State :=
  let i := m.data.length / 64
  let c := s.core m.src
  if m.n ≤ i || s.coreFrozen m.src || s.coreTick m.src < m.atT + i || c.seq.st = .faulted || c.seq.st = .idle then s
  else if c.parityBad (m.from' + 64 * i) 64 then lsParity m.src (m.from' + 64 * i) s
  else s.onMsg m.pkt (Msg.read c 0)

/-- A place in a receive ring is taken for a message, and the skip record written before it where it would wrap (R278, R279, R283):
the ring in tick `t`, and the unit at which the message begins. -/
def takeRing (m : Msg) (t : Nat) (c : Core) : Core × Nat :=
  let r := c.rxEp m.dstEp.toNat
  let size := chSize r.cfg
  let wraps := decide (size - r.tail < m.n)
  let c1 := if wraps then
      lsPut (64 * (chBase r.cfg + r.tail)) (leBytes 8 (msgHeader m.src m.ep.toNat (size - r.tail) 0 0).toNat) c
    else c
  let first := if wraps then 0 else r.tail
  let next := first + m.n
  (c1.onRx m.dstEp.toNat fun r =>
    { r with
      seq := r.seq + 1, tail := if next = size then 0 else next
      freed := r.freed.filter fun e => decide (t < e.2)
      msgs := r.msgs ++ (if wraps then [(size - r.tail, true, t + 1)] else []) ++ [(m.n, false, t + 1 + m.n)] }, first)

/-- CHANNEL_MESSAGE_WRITE: the oldest message of a sender that its ring has room for, in the tick of R283 or later: it takes its place in
the ring, and its units are written from the next tick on (R279, R281, R283). -/
def messageWrite (k : Nat) (s : State) : State :=
  match s.sync.msgs.find? fun m =>
      m.src == k && m.wr.isNone && s.arrived (some m.pkt) && decide (m.atT + 7 + m.lat ≤ s.ticks (s.clusterOf m.dst)) &&
        s.msgRoom m with
  | some m =>
    let c := s.clusterOf m.dst
    let t := s.ticks c
    if s.frozen c then ctlArrives c s
    else
      let x := takeRing m t (s.core m.dst)
      let s1 := ((s.consume (some m.pkt)).onCore m.dst fun _ => x.1).onMsg m.pkt fun m => { m with wr := some t, first := x.2 }
      s1.onSeq k fun q =>
        match q.wait with
        | .send ep .travelling =>
          if q.wpkt = some m.pkt then { q with wait := .send ep (.written (t + 9 + m.lat + m.n)) } else q
        | _ => q
  | none => s

def execChannelMessageWrite (k : Nat) (s : State) : Host.Outcome State Fault Refusal := .next (messageWrite k s)

/-- The next unit of a message is written, one in a tick of the receiver's island; with the last one the acknowledgement leaves (R281,
R283). -/
def msgPut (m : Msg) (s : State) : State :=
  match m.wr with
  | none => s
  | some w =>
    let c := s.clusterOf m.dst
    if s.frozen c || s.ticks c < w + 1 + m.put || m.data.length < 64 * (m.put + 1) then s
    else
      let base := chBase ((s.core m.dst).rxEp m.dstEp.toNat).cfg
      let s1 := s.onCore m.dst (lsPut (64 * (base + m.first + m.put)) ((m.data.drop (64 * m.put)).take 64))
      if m.put + 1 < m.n then s1.onMsg m.pkt fun m => { m with put := m.put + 1 }
      else
        let s2 := s1.onSync fun y => { y with msgs := y.msgs.filter fun x => x.pkt != m.pkt }
        let q := (s2.core m.src).seq
        match q.wait with
        | .send _ (.written _) =>
          if q.wpkt = some m.pkt then
            let (i, s3) := s2.sendCtl c (s.clusterOf m.src) 1 (some m.src)
            s3.onSeq m.src fun q => { q with wpkt := some i }
          else s2.onCore m.src (Core.onTx m.ep.toNat fun t => { t with busy := false })
        | _ => s2.onCore m.src (Core.onTx m.ep.toNat fun t => { t with busy := false })

/-- One tick of the messages, and of the islands that await a CTL packet; a packet that nothing awaits any more leaves its router. -/
def ctlTick (s : State) : State :=
  let s1 := s.sync.msgs.foldl (fun s m => msgRead m s) s
  let s2 := s1.sync.msgs.foldl (fun s m => msgPut m s) s1
  let wanted := fun (p : Pkt) => p.kind != .ctl || !p.path.isEmpty || s2.sync.sigs.any (fun x => x.pkt == some p.id) ||
    s2.sync.msgs.any (fun m => m.pkt == p.id) || s2.allCores.any fun k => (s2.core k).seq.wpkt == some p.id
  let s3 : State := if s2.pkts.all wanted then s2 else { s2 with pkts := s2.pkts.filter wanted }
  s3.hold.eps.foldl (fun s e => e.raisers.foldl (fun s r =>
    match r.who with
    | .island c => if r.item = some ctlItem && r.clear.isNone then ctlArrives c s else s
    | _ => s) s) s3

/-- SEND_COMPLETE: the acknowledgement reaches the sender (R283). -/
def execSendComplete (k : Nat) (s : State) : Host.Outcome State Fault Refusal :=
  .next (match (s.core k).seq.wait with
    | .send ep (.written due) =>
      let p := (s.core k).seq.wpkt
      if s.coreFrozen k then ctlArrives (s.clusterOf k) s
      else if due ≤ s.coreTick k && decide ((s.core k).seq.st = .running) && s.arrived p &&
          !(s.sync.msgs.any fun m => p == some m.pkt) then
        seqNext k 0 ((s.consume p).onCore k fun c =>
          { c.onTx ep.toNat (fun t => { t with busy := false }) with seq := { c.seq with wait := .none, wpkt := none } })
      else s
    | _ => s)

/-- A receive endpoint without the skip record at its HEAD (R282). The manual dates the use of freed units for RELEASE alone: those of a
skip record that RECV passes are usable from the tick after next too (R283; DESIGN CHOICE, log entry 110). -/
def RxEp.passSkip (t : Nat) (r : RxEp) : RxEp :=
  match r.msgs with
  | (n, true, vis) :: rest =>
    if vis ≤ t then { r with head := 0, msgs := rest, freed := r.freed ++ [(n, t + 2)] } else r
  | _ => r

/-- A message lies at HEAD. -/
def RxEp.ready (t : Nat) (r : RxEp) : Bool :=
  match r.msgs with
  | (_, false, vis) :: _ => decide (vis ≤ t)
  | _ => false

/-- RECV passes a skip record, and returns the address of the message at HEAD, or waits (R282, R283). -/
def recvTry (k : Nat) (ep : BitVec 3) (rd : BitVec 5) (s : State) : State :=
  let t := s.coreTick k
  let s1 := s.onCore k (Core.onRx ep.toNat (RxEp.passSkip t))
  let r := (s1.core k).rxEp ep.toNat
  if r.ready t then
    seqWrite k rd (BitVec.ofNat 64 (64 * (chBase r.cfg + r.head))) 3 (s1.onSeq k fun q => { q with wait := .none })
  else s1.onSeq k fun q => { q with wait := .recv ep rd, tickAt := none }

def execRecv (k : Nat) (g : Guard) (ep : BitVec 3) (rd : BitVec 5) (s : State) : Host.Outcome State Fault Refusal :=
  .next (seqInstr k (.recv k g ep rd) g [] false (fun s =>
    if chEnable ((s.core k).rxEp ep.toNat).cfg then recvTry k ep rd s else seqIllegal k 0x04 ep.toNat s) s)

/-- RECV_WAKE: a waiting RECV looks at HEAD again. -/
def execRecvWake (k : Nat) (s : State) : Host.Outcome State Fault Refusal :=
  .next (match (s.core k).seq.wait with
    | .recv ep rd => if decide ((s.core k).seq.st = .running) && !s.coreFrozen k then recvTry k ep rd s else s
    | _ => s)

/-- RELEASE: HEAD moves past the message; its units are usable from the tick after next (R282, R283). -/
def execRelease (k : Nat) (g : Guard) (ep : BitVec 3) (s : State) : Host.Outcome State Fault Refusal :=
  .next (seqInstr k (.release k g ep) g [] false (fun s =>
    let r := (s.core k).rxEp ep.toNat
    let t := s.coreTick k
    if chEnable r.cfg && r.ready t then
      seqNext k 1 (s.onCore k (Core.onRx ep.toNat fun r =>
        match r.msgs with
        | (n, _, _) :: rest =>
          let next := r.head + n
          { r with head := if next = chSize r.cfg then 0 else next, msgs := rest, freed := r.freed ++ [(n, t + 2)] }
        | [] => r))
    else seqIllegal k 0x04 ep.toNat s) s)

/-! ### Late CTL packets and the watchdog (R285, R327) -/

/-- LATE_CTL_HOLD: a CTL packet that is absent at its due tick raises a Hold at the island it is for (R327). -/
def execLateCtlHold (c : Nat) (s : State) : Host.Outcome State Fault Refusal :=
  .next (if !s.frozen c && ctlDue s c then raiseIsland c causeMesh none (some ctlItem) s else s)

/-- The packet of a SEND or a SIG of the core that stands first in its queue and has not moved for 65,536 real ticks: on its way, or at
a ring without room (R285, R326). -/
def stalledPkt (s : State) (k : Nat) : Option Pkt :=
  s.pkts.find? fun p =>
    p.kind == .ctl && p.core == some k && !p.watched && decide (p.atT + 65536 ≤ s.now) && !s.flowBlocked p &&
      (!p.path.isEmpty || heldMsg s.msgRoom s p) &&
      (s.sync.sigs.any (fun x => x.pkt == some p.id) || s.sync.msgs.any fun m => m.pkt == p.id)

/-- PROGRESS_WATCHDOG: MESH_STALL on the core, once for each operation (R285). The record names the router where the packet waits, and
its plane. -/
def execProgressWatchdog (pid : Nat) (s : State) : Host.Outcome State Fault Refusal :=
  .next (match stalledPkt s pid with
    | some p =>
      contFault pid 0x10 0 0 0 (leBytes 2 (p.place.getD p.src) ++ leBytes 2 p.plane)
        (s.onPkt p.id fun p => { p with watched := true })
    | none => s)

end Sys2Proof.Machine
end

