-- ==== Sys2Proof/Machine/Lattice.lean ====
section
/-! DEFINITION. Lattice ports: packets that arrive and pass through, link-level blocks, retries, epochs and quarantine,
training, and the frames a port sends (R305–R322). -/

namespace Sys2Proof.Machine

/-! ### Port states (R322, R442) -/

/-- The code of a link state. -/
def linkCode : LinkState → Nat
  | .off => 0 | .training => 1 | .up => 2 | .replay => 3 | .down => 4 | .miswired => 5 | .freqErr => 6

/-- Change a port's state, with its event. -/
def setPort (p : Nat) (st : LinkState) (s : State) : State :=
  if (s.port p).st = st then s else portEvent p (linkCode st) (s.onPort p fun q => { q with st := st })

/-- The port carries traffic. -/
def portUp (q : Port) : Bool := q.st == .up || q.st == .replay

/-- The packets whose blocks stand in a list of blocks, in order. -/
def blockPackets : List LatBlock → Option (LatOut × Nat) → List LatOut
  | [], _ => []
  | .packet o b :: xs, some (o', b') =>
    if o = o' ∧ b = b' + 1 then blockPackets xs (some (o, b)) else o :: blockPackets xs (some (o, b))
  | .packet o b :: xs, none => o :: blockPackets xs (some (o, b))
  | _ :: xs, last => blockPackets xs last

/-- The packets that a port has sent in whole or in part and that no ACK covers, and the one that it was sending (R308). -/
def Port.unsure (q : Port) : List LatOut :=
  let xs := blockPackets (q.sent.flatMap (·.blocks)) none
  xs ++ match q.part with
    | some (o, _) => if xs.getLast? = some o then [] else [o]
    | none => []

/-- A link that begins anew: its frames and credits are gone; the packets that wait stay, behind those that no ACK covers (R308, log
entry 43). -/
def Port.relink (q : Port) : Port :=
  { q with
    lanes := 0, sent := [], again := [], part := none, waitFor := none, lost := 0, replays := 0, nakDue := false, ackAge := 0
    owed := 0, stales := 0, retries := 0, txSeq := 0, rxSeq := 0, credits := 0, queue := q.unsure ++ q.queue }

/-- A codeword leaves, and one comes, in this tick: one in 5.12 ticks (R306). -/
def frameTick (now : Nat) : Bool := decide (now * 25 % 128 < 25)

/-- A port accepts frames: it carries traffic and does not wait for a REPLAY frame (R308). -/
def portHears (s : State) (p : Nat) : Bool := portUp (s.port p) && (s.port p).waitFor.isNone

/-! ### Epochs and quarantine (R318, R319) -/

/-- The module enters quarantine. -/
def quarantine (s : State) : State :=
  if s.fab.quar then s
  else
    let s1 := s.onFab fun f => { f with quar := true }
    let s2 := s1.allCores.foldl (fun s k =>
      if s.cur.isSome && decide ((s.core k).seq.st ≠ .idle) then
        coreFault k { code := 0x0F, detail := packWord [(s.fab.epoch.toNat, 0)] } s
      else s) s1
    crumb { severity := 3, source := 0, code := 0x0402, ctx := s.cur, detail := leBytes 4 s.fab.epoch.toNat } s2

/-- A port returns a credit to its partner (R307). -/
def oweCredit (p : Nat) (s : State) : State := s.onPort p fun q => { q with owed := q.owed + 1 }

/-- The comparison of a packet's epoch with the module's: the packet goes on, or is discarded, and a stale one is answered by a
STALE block (R318, R319). -/
def checkEpoch (p : Nat) (h : LatHdr) (body : State → State) (s : State) : State :=
  if h.epoch = s.fab.epoch then body s
  else if h.epoch < s.fab.epoch then
    s.onPort p fun q => { q with staleN := satAdd max32 q.staleN 1, staleSrc := h.src, stales := q.stales + 1 }
  else quarantine s

/-! ### Arrivals (R292, R295, R310, R313) -/

/-- A control packet (R307). -/
def LatOut.control : LatOut → Bool
  | .row .. => false
  | _ => true

/-- A packet for another module joins those that go on by another port, which it reaches no sooner than the crossings from the port to
its switch and from a switch to the other port let it; control packets have a buffer of 16 entries, and the packet comes once it has
room. A control packet for this module leaves that buffer in its tick (R307, R310, R324). -/
def passPort (p m k : Nat) (o : LatOut) (s : State) : State :=
  match s.portTo m k with
  | some q =>
    if o.control && decide (16 ≤ ((s.port p).transit.filter fun e => e.pkt.control).length) then s
    else s.onPort p fun x => { x with transit := x.transit ++ [⟨q, o, s.now + 4⟩] }
  | none => s

/-- The packet is for this module. -/
def forMe (s : State) (h : LatHdr) : Bool := h.dst.toNat == s.moduleIndex

/-- The packet's context is the one that runs. -/
def runsHere (s : State) (h : LatHdr) : Bool := s.cur == some h.context.toNat

/-- A record of the side channel: a tray root that is not the root of its Proof passes it on, the root takes it (R316, R408). -/
def sideRecord (row : Bytes) (s : State) : State :=
  if s.obs.mode = 1 && s.cur.isSome then snapSend row s else s

/-- A row that has taken a credited place at a port: it lands, passes to another port, or is discarded. A row whose last block comes in a
replayed frame counts as replayed (R292, R294, R295, R310; log entry 43). -/
def rowLands (p : Nat) (h : LatHdr) (row : Bytes) (s : State) : State :=
  if !forMe s h then passPort p h.dst.toNat h.row.toNat (.row h row) s
  else if !runsHere s h then oweCredit p (s.onFab fun f => { f with wrongCtx := satAdd max32 f.wrongCtx 1 })
  else
    landRow (.port p) h.src.toNat h.tag h.row.toNat h.rows.toNat h.dcluster.toNat (padTo 512 row)
      (decide ((s.port p).replays ≠ 0)) s

/-- LATTICE_ROW: a row comes to a place in the landing buffer, which has 128, or is stale, and its credit goes back; a record of the
side channel takes none (R292, R318, R408). -/
def latticeRow (p : Nat) (h : LatHdr) (row : Bytes) (s : State) : State :=
  if h.dcluster = 0x7F then
    checkEpoch p h (fun s =>
      if forMe s h then sideRecord (padTo 512 row) s else passPort p h.dst.toNat h.row.toNat (.row h row) s) s
  else if h.epoch < s.fab.epoch then checkEpoch p h id (oweCredit p s)
  else if 128 ≤ s.landUsed p then s
  else checkEpoch p h (rowLands p h row) s

def execLatticeRow (port : Nat) (h : LatHdr) (row : Bytes) (s : State) : Host.Outcome State Fault Refusal :=
  .next (if portHears s port then latticeRow port h row s else s)

/-- LATTICE_SIG: a signal from another module goes to its home cluster, or on, or is discarded (R269, R275). -/
def latticeSig (p : Nat) (h : LatHdr) (s : State) : State :=
  checkEpoch p h (fun s =>
    if !forMe s h then passPort p h.dst.toNat 0 (.sig h) s
    else
      let e := s.xlatEntry h.vid.toNat
      if !runsHere s h || !xlValid e || xlModule s e != s.moduleIndex then
        s.onSync fun y => { y with dropped := satAdd max32 y.dropped 1 }
      else
        let r := xlRef e
        let (i, s1) := s.sendNew
          { id := 0, src := s.portRouter p, dst := homeOf r, srcEnd := .lattice, kind := .ctl, plane := 0, vc := 2, core := none
            rows := 1 }
        let x : SigFly :=
          { cell := r, amount := h.amount1.toNat + 1, vid := h.vid, due := s.ticks (homeOf r), home := homeOf r,
            core := none, phase := 0, srcMod := some h.src.toNat, pkt := some i }
        s1.onSync fun y => { y with sigs := y.sigs ++ [x] }) s

def execLatticeSig (port : Nat) (h : LatHdr) (s : State) : Host.Outcome State Fault Refusal :=
  .next (if portHears s port then latticeSig port h s else s)

/-- The fabric time near this module's own whose low 46 bits a packet carries. -/
def fullTime (s : State) (t : BitVec 46) : Nat :=
  let base := s.fab.ftime / 2 ^ 46 * 2 ^ 46
  let v := base + t.toNat
  if s.fab.ftime + 2 ^ 45 < v then v - 2 ^ 46 else v

/-- What a Proof packet says. -/
def proofOf (s : State) (h : LatHdr) : ModArrival :=
  { src := h.src.toNat, scope := h.scope, wide := h.scope, tag := h.ptag, orW := h.orWord, andW := h.andWord, ftime := fullTime s h.ftime,
    modules := 1 }

/-- LATTICE_PROOF_ARRIVE: an arrival reaches its root, or goes on (R316). -/
def execLatticeProofArrive (port : Nat) (h : LatHdr) (s : State) : Host.Outcome State Fault Refusal :=
  .next (if portHears s port then
    checkEpoch port h (fun s =>
      if forMe s h then rootArrival (proofOf s h) s else passPort port h.dst.toNat 0 (.proofArrive h) s) s
  else s)

/-- LATTICE_PROOF_RELEASE: a release enters, and a tray root passes it to its tray (R316). -/
def latticeRelease (h : LatHdr) (s : State) : State :=
  let a := proofOf s h
  let scope := if h.mismatch then wider a.scope (widest s.proof.wArgs) else a.scope
  if s.moduleIndex = s.trayRoot s.moduleIndex then releaseTray a scope h.mismatch s else pendRelease a scope h.mismatch s

def execLatticeProofRelease (port : Nat) (h : LatHdr) (s : State) : Host.Outcome State Fault Refusal :=
  .next (if portHears s port then
    checkEpoch port h (fun s =>
      if forMe s h then latticeRelease h s else passPort port h.dst.toNat 0 (.proofRelease h) s) s
  else s)

/-! ### Frames (R306, R307) -/

/-- The fields that every packet's header block carries (R307). -/
def hdrFields (type : Nat) (h : LatHdr) : List (Nat × Nat) :=
  [(type, 0), (h.epoch.toNat, 16), (h.context.toNat, 48), (h.src.toNat, 50), (h.dst.toNat, 60), (h.dcluster.toNat, 70),
    (h.tag.toNat, 77), (h.row.toNat, 89), (h.rows.toNat, 96), (bnat h.mismatch, 103)]

/-- The fields of PROOF_ARRIVE and PROOF_RELEASE. -/
def proofFields (h : LatHdr) : List (Nat × Nat) :=
  [(h.ptag.toNat, 128), (h.scope.toNat, 144), (h.orWord.toNat, 146), (h.andWord.toNat, 178), (h.ftime.toNat, 210)]

/-- The header block of a packet. -/
def LatOut.header : LatOut → Nat
  | .row h _ => bitFields (hdrFields 0x10 h)
  | .sig h => bitFields (hdrFields 0x11 h ++ [(h.vid.toNat, 128), (h.amount1.toNat, 148)])
  | .proofArrive h => bitFields (hdrFields 0x12 h ++ proofFields h)
  | .proofRelease h => bitFields (hdrFields 0x13 h ++ proofFields h)

/-- The 256 bits of a block. -/
def LatBlock.word : LatBlock → BitVec 256
  | .idle => 0
  | .ack fseq credits => BitVec.ofNat 256 (bitFields [(1, 0), (fseq.toNat, 16), (credits % 256, 32)])
  | .nak fseq => BitVec.ofNat 256 (bitFields [(2, 0), (fseq.toNat, 16)])
  | .stale epoch => BitVec.ofNat 256 (bitFields [(3, 0), (epoch.toNat, 16)])
  | .packet (.row _ data) (b + 1) => BitVec.ofNat 256 (field data (32 * b) 32)
  | .packet o _ => BitVec.ofNat 256 o.header

/-- The message of a frame, as the codeword carries it (R306). -/
def Frame.word (f : Frame LatBlock) : BitVec 5140 := frameWord LatBlock.word f

/-- Blocks of a packet. -/
def blocksOf : LatOut → Nat
  | .row .. => 17
  | _ => 1

/-- Blocks of a frame that are charged: those of packets (R357). -/
def frameBlocks (xs : List LatBlock) : Nat :=
  (xs.filter fun x => match x with
    | .packet .. => true
    | _ => false).length

/-! ### Link level (R307, R308) -/

/-- A retry that was in progress, of frames that this port sends or awaits, is over (R322). -/
def retryOver (p : Nat) (s : State) : State :=
  let q := s.port p
  if q.st = .replay && q.waitFor.isNone && q.replays == 0 && q.again.isEmpty then setPort p .up s else s

/-- LATTICE_ACK: the frames up to `FSEQ` leave the replay buffer, and credits come back. -/
def execLatticeAck (port : Nat) (fseq : BitVec 12) (credits : BitVec 8) (s : State) : Host.Outcome State Fault Refusal :=
  .next (if portHears s port then
    retryOver port (s.onPort port fun q =>
      let sent := unacked fseq q.sent
      { q with
        sent := sent, again := unacked fseq q.again, credits := min 128 (q.credits + credits.toNat)
        retries := if sent.length = q.sent.length then q.retries else 0 })
  else s)

/-- A port goes DOWN after the eighth retry of one frame, with a record (R308, R502). -/
def portDown (p : Nat) (s : State) : State :=
  crumb { severity := 3, source := 5, code := 0x0401, site := BitVec.ofNat 16 p, detail := leBytes 1 p } (setPort p .down s)

/-- LATTICE_NAK: the port resends from that frame (R308). -/
def latticeNak (p : Nat) (fseq : BitVec 12) (s : State) : State :=
  let q := s.port p
  let n := if q.retryOf = fseq && q.retries != 0 then q.retries + 1 else 1
  let s1 := s.onPort p fun q =>
    { q with retry := satAdd max32 q.retry 1, retries := n, retryOf := fseq, again := replayFrom fseq q.sent }
  if 8 ≤ n then portDown p s1 else setPort p .replay s1

def execLatticeNak (port : Nat) (fseq : BitVec 12) (s : State) : Host.Outcome State Fault Refusal :=
  .next (if portHears s port then latticeNak port fseq s else s)

/-- LATTICE_STALE: the module enters quarantine (R319). -/
def execLatticeStale (port : Nat) (epoch : BitVec 32) (s : State) : Host.Outcome State Fault Refusal :=
  let _ := epoch
  .next (if portHears s port then quarantine s else s)

/-- LATTICE_IDLE: nothing is carried (R307); the frame of the block counts with the others of its port. -/
def execLatticeIdle (port : Nat) (s : State) : Host.Outcome State Fault Refusal :=
  .next (if portHears s port then retryOver port s else s)

/-- LATTICE_CODEWORD_UNCORRECTABLE: the frame and all later ones are discarded, and a NAK of the first lost frame is due. A frame with a
block of reserved `TYPE` comes as this event too (R307, R308). -/
def execLatticeCodewordUncorrectable (port : Nat) (s : State) : Host.Outcome State Fault Refusal :=
  .next (if portUp (s.port port) then
    let s1 := s.onPort port fun q => { q with fecUnc := satAdd max32 q.fecUnc 1, nakDue := true }
    if (s.port port).waitFor.isSome then s1
    else setPort port .replay (s1.onPort port fun q => { q with waitFor := some q.rxSeq, lost := 0, replays := 0, nakAt := s.now })
  else s)

/-- LATTICE_REPLAY_FRAME: the awaited frame has come, and frames are accepted again from it on; monitor 46 takes the delay (R308,
R417). -/
def execLatticeReplayFrame (port : Nat) (fseq : BitVec 12) (s : State) : Host.Outcome State Fault Refusal :=
  .next (if portUp (s.port port) && (s.port port).waitFor = some fseq then
    let d := s.now - (s.port port).nakAt
    monSample 46 d (s.onPort port fun q =>
      { q with waitFor := none, replays := q.lost, lost := 0, nakDue := false, maxTicks := max q.maxTicks (min 0xFFFF d) })
  else s)

/-! ### Training (R311, R312, R314) -/

/-- `ROLE` and `OFFSET` of a port (R311, R312, R321): role 0 for an unused dimension, and before the bring-up. -/
def portRole (s : State) (p : Nat) : Nat × Nat :=
  if s.fab.index.isNone then (0, 0)
  else if p < 14 then (1, p / 2 + 1)
  else
    let n := if p < 16 then s.fab.x else if p < 18 then s.fab.y else s.fab.z
    if n ≤ 1 then (0, 0) else (p - 12, 0)

/-- The module index at a tray position and slot (R265). -/
def indexAt (x y z slot : Nat) : Nat := 8 * (16 * x + 4 * y + z) + slot

/-- The module and the port that R311 and R312 put at the other end of a port of module `m`. -/
def State.beyond (s : State) (m p : Nat) : Nat × Nat :=
  let (x, y, z) := trayXYZ m
  let slot := traySlot m
  let f := s.fab
  if p < 14 then
    let j := p / 2 + 1
    (inTray m ((slot + j) % 8), 2 * (7 - j) + p % 2)
  else
    match p with
    | 14 => (indexAt ((x + 1) % f.x) y z slot, 15)
    | 15 => (indexAt ((x + f.x - 1) % f.x) y z slot, 14)
    | 16 => (indexAt x ((y + 1) % f.y) z slot, 17)
    | 17 => (indexAt x ((y + f.y - 1) % f.y) z slot, 16)
    | 18 => (indexAt x y ((z + 1) % f.z) slot, 19)
    | _ => (indexAt x y ((z + f.z - 1) % f.z) slot, 18)

/-- The partner that R311 and R312 require of a port of this module. -/
def partner (s : State) (p : Nat) : Nat × Nat := s.beyond s.moduleIndex p

/-- The modules and ports by which row `k` to module `n` leaves one module after another, from `m` on (R313). -/
def State.hops (s : State) (n k : Nat) : Nat → Nat → List (Nat × Nat)
  | 0, _ => []
  | f + 1, m =>
    match s.portVia m n k with
    | some p => (m, p) :: s.hops n k f (s.beyond m p).1
    | none => []

/-- The ports of this module that row `k` from module `m` to module `n` passes. -/
def State.pathPorts (s : State) (m n k : Nat) : List Nat :=
  (s.hops n k 9 m).flatMap fun e =>
    (if e.1 = s.moduleIndex then [e.2] else []) ++
      if (s.beyond e.1 e.2).1 = s.moduleIndex then [(s.beyond e.1 e.2).2] else []

/-- What a port is at the end of its training (R309, R312, R314, R322). -/
def trained (s : State) (p : Nat) (t : Training) : LinkState :=
  if t.lanes ≠ 0xFF then .down
  else if !t.locked then .freqErr
  else if (t.peerModule.toNat, t.peerPort.toNat) ≠ partner s p then .miswired
  else .up

/-- PORT_TRAINING_COMPLETE. -/
def execPortTrainingComplete (port : Nat) (t : Training) (s : State) : Host.Outcome State Fault Refusal :=
  .next (if (s.port port).st = .training then
    setPort port (trained s port t) (s.onPort port fun q =>
      { q with
        lanes := t.lanes, peerMod := t.peerModule, peerPort := t.peerPort, oneWay := t.oneWay, credits := 128
        waitFor := none, lost := 0, replays := 0, retries := 0 })
  else s)

/-- PORT_LANE_LOSS: a port that loses a lane is DOWN (R322). -/
def execPortLaneLoss (port : Nat) (lanes : BitVec 8) (s : State) : Host.Outcome State Fault Refusal :=
  .next (if portUp (s.port port) then
    let s1 := s.onPort port fun q => { q with lanes := lanes }
    if lanes = 0xFF then s1 else setPort port .down s1
  else s)

/-! ### What a port sends (R306–R308, R310) -/

/-- The packets of a queue in the order in which they are sent: control packets first (R307). -/
def sendOrder (q : List LatOut) : List LatOut :=
  q.filter (fun x => match x with | .row .. => false | _ => true) ++ q.filter (fun x => match x with | .row .. => true | _ => false)

/-- `n` blocks: those of the packet that has begun, then those of the packets that wait, then IDLE blocks; the packet that has begun
then, and those that still wait (R307). -/
def fillBlocks : Nat → Option (LatOut × Nat) → List LatOut → List LatBlock × Option (LatOut × Nat) × List LatOut
  | 0, part, xs => ([], part, xs)
  | n + 1, some (o, b), xs =>
    let r := fillBlocks n (if b + 1 < blocksOf o then some (o, b + 1) else none) xs
    (.packet o b :: r.1, r.2)
  | n + 1, none, o :: xs =>
    let r := fillBlocks n (if 1 < blocksOf o then some (o, 1) else none) xs
    (.packet o 0 :: r.1, r.2)
  | n + 1, none, [] =>
    let r := fillBlocks n none []
    (.idle :: r.1, r.2)

/-- The port returns credits, or 32 frames have passed since its last ACK (R308). -/
def Port.ackDue (q : Port) : Bool := q.owed != 0 || decide (31 ≤ q.ackAge)

/-- The link-level blocks of the next frame: a NAK goes ahead of any other (R307, R308). -/
def Port.linkBlocks (q : Port) (epoch : BitVec 32) : List LatBlock :=
  (match q.nakDue, q.waitFor with
    | true, some f => [.nak f]
    | _, _ => []) ++
  (if q.ackDue then [.ack (q.rxSeq - 1) (min 255 q.owed)] else []) ++ List.replicate (min 18 q.stales) (.stale epoch)

/-- A port after its link-level blocks have left. -/
def Port.linkSent (q : Port) : Port :=
  let q1 := { q with nakDue := false, stales := q.stales - min 18 q.stales }
  if q.ackDue then { q1 with owed := q.owed - min 255 q.owed, ackAge := 0 } else { q1 with ackAge := q.ackAge + 1 }

/-- A frame leaves, and is kept until an ACK covers it (R308). -/
def putFrame (p : Nat) (blocks : List LatBlock) (s : State) : State :=
  s.onPort p fun q => { q with sent := q.sent ++ [⟨q.txSeq, 0, blocks⟩], txSeq := q.txSeq + 1 }

/-- The blocks of packets that leave in this tick are charged (R357). -/
def chargeBlocks (n : Nat) (s : State) : State := if n = 0 then s else charge none (88 * n) none 0 0 0 s

/-- A frame that a retry resends carries a NAK that is due in the place of its first block that may give way to it: an IDLE block, an
older NAK, or an ACK, whose credits are returned later; in quarantine it carries no packet (R308, R319; DESIGN CHOICE, log entry 43).
The frame, and the credits, if the NAK has found a place. -/
def nakBlocks (w : BitVec 12) : List LatBlock → Option (List LatBlock × Nat)
  | [] => none
  | .idle :: xs => some (.nak w :: xs, 0)
  | .nak _ :: xs => some (.nak w :: xs, 0)
  | .ack _ c :: xs => some (.nak w :: xs, c)
  | x :: xs => (nakBlocks w xs).map fun r => (x :: r.1, r.2)

/-- A block as quarantine lets it leave: link-level blocks alone (R319). -/
def LatBlock.linkOnly : LatBlock → LatBlock
  | .packet .. => .idle
  | b => b

/-- The next frame of a retry leaves (R308, R319, R357). -/
def sendAgain (p : Nat) (f : Frame LatBlock) (rest : List (Frame LatBlock)) (s : State) : State :=
  let bs := if s.fab.quar then f.blocks.map LatBlock.linkOnly else f.blocks
  let q := s.port p
  let nak := match q.nakDue, q.waitFor with
    | true, some w => nakBlocks w bs
    | _, _ => none
  chargeBlocks (frameBlocks bs) (s.onPort p fun q =>
    { q with again := rest, nakDue := q.nakDue && nak.isNone, owed := q.owed + ((nak.map (·.2)).getD 0) })

/-- The next frame of a port: one that a retry resends, or a new one while the replay buffer has room; in SAFE it holds IDLE blocks
alone, in quarantine link-level blocks alone (R306–R308, R319, R357, R382). -/
def sendFrame (p : Nat) (s : State) : State :=
  let q := s.port p
  if !portUp q then s
  else if s.mgmt.st = .safe then
    if 512 ≤ q.sent.length then s else putFrame p (List.replicate 20 .idle) s
  else
    match q.again with
    | f :: rest => sendAgain p f rest s
    | [] =>
      if 512 ≤ q.sent.length then s
      else
        let link := q.linkBlocks s.fab.epoch
        let n := 20 - link.length
        let (bs, part, rest) := if s.fab.quar then (List.replicate n .idle, q.part, q.queue) else fillBlocks n q.part (sendOrder q.queue)
        chargeBlocks (frameBlocks bs) (putFrame p (link ++ bs)
          (s.onPort p fun q => { q.linkSent with part := part, queue := rest }))

/-- Bytes of a packet on a link (R293). -/
def LatOut.size (o : LatOut) : Nat := 32 * blocksOf o

/-- The next packet in transit at a port, control packets first: it goes on by the ring of port switches as far as its links have room, a
row once the next port has a credit, and its place is free (R307, R310, R324). -/
def moveTransit (p : Nat) (s : State) : State :=
  let xs := (s.port p).transit
  match (xs.filter fun e => !e.pkt.credited) ++ xs.filter fun e => e.pkt.credited with
  | e :: _ =>
    let o := e.pkt
    let ring := ringLinks p e.port
    if s.now < e.atT || (o.credited && (s.port e.port).credits == 0) || !s.portsOpen o.size ring then s
    else
      let s1 := ((s.usePorts o.size ring).onPort p fun q => { q with transit := dropFirst (· == e) q.transit }).onPort e.port fun q =>
        { q with queue := q.queue ++ [o], credits := if o.credited then q.credits - 1 else q.credits }
      if o.credited then oweCredit p s1 else s1
  | [] => s

/-- A codeword comes to a port: its frame counts, unless a retry is awaited, which loses it, and whether symbols of it were corrected
is a free value (R308, R309, log entries 2 and 43). -/
def frameComes (p : Nat) (corrected : Bool) (s : State) : State :=
  let s1 := s.onPort p fun q =>
    { q with rxSeq := if q.waitFor.isNone then q.rxSeq + 1 else q.rxSeq
             lost := if q.waitFor.isNone then q.lost else q.lost + 1
             replays := if q.waitFor.isNone then q.replays - 1 else q.replays
             fecCorr := if corrected then satAdd max32 q.fecCorr 1 else q.fecCorr }
  if corrected then { s1 with mon := { s1.mon with latSeen := s1.mon.latSeen + 1 } } else s1

/-- A row waits for a credit of the port (R321). -/
def waitsCredit (s : State) (p : Nat) : Bool :=
  (s.port p).credits == 0 && portUp (s.port p) &&
    (s.ports.any (fun e => e.2.transit.any fun t => t.port == p && t.pkt.credited) ||
      s.allCores.any fun k => (s.core k).ks.any fun x =>
        x.dest.any fun m => s.portTo m (mget x.accepted m 0) == some p && (mfind x.readRows (mget x.accepted m 0)).isSome)

/-- One real tick of the ports: frames leave and come at one in 5.12 ticks, packets in transit move, and ticks without a credit count
(R306, R321). -/
def portTick (s : State) : State :=
  let frame := frameTick s.now
  let (w, s0) := if frame && s.ports.any (fun e => portUp e.2) then s.drawFree else (0, s)
  (List.range 20).foldl (fun s p =>
    let s1 := if waitsCredit s p then s.onPort p fun q => { q with noCredit := satAdd max32 q.noCredit 1 } else s
    let s2 := moveTransit p s1
    if frame && portUp (s2.port p) then retryOver p (frameComes p (w.getLsbD p) (sendFrame p s2)) else s2) s0

end Sys2Proof.Machine
end

