-- ==== Sys2Proof/Machine/Regs.lean ====
section
/-! DEFINITION. Control register space: which block an address lies in (R253–R255), what each register reads (R16, R17), what
a read clears (RC), what a write does, and what sealed residency denies (R468). -/

namespace Sys2Proof.Machine

/-! ### Blocks (R253–R255) -/

/-- A block instance. `hole` is a reserved part of a cluster region, or the alias of a logical number no core has. -/
inductive Block where
  | core (c slot : Nat)
  | chan (c slot : Nat)
  | leaven (c slot : Nat)
  | obsCore (c slot : Nat)
  | clm (c : Nat)
  | cells (c : Nat)
  | router (c : Nat)
  | census (c : Nat)
  | hole (region : Nat)
  | stk (n : Nat)
  | lat (p : Nat)
  | mesh | obs | mon | crumb | mgmt | sec | host | sync
  deriving DecidableEq, Repr

/-- The block of a core site, by its number in the site's 16 KiB (R254). -/
def siteBlock (c slot n : Nat) : Block :=
  match n with
  | 0 => .core c slot
  | 1 => .chan c slot
  | 2 => .leaven c slot
  | _ => .obsCore c slot

/-- The block of an offset in a cluster region, and the offset in it (R254). -/
def clusterBlock (c o : Nat) : Block × Nat :=
  if o < 0x48000 then (siteBlock c (o / 0x4000) (o / 0x1000 % 4), o % 0x1000)
  else if o < 0x50000 then (.hole c, o)
  else if o < 0x54000 then (.clm c, o - 0x50000)
  else if o < 0x58000 then (.cells c, o - 0x54000)
  else if o < 0x5C000 then (.router c, o - 0x58000)
  else if o < 0x60000 then (.census c, o - 0x5C000)
  else (.hole c, o)

/-- An offset in a table of equal instances. -/
def inTable (a base size n : Nat) : Option (Nat × Nat) :=
  if base ≤ a && a < base + size * n then some ((a - base) / size, (a - base) % size) else none

/-- The block instance that an address of control register space lies in, and the offset there; none outside every block of
R253. -/
def State.block (s : State) (a : Nat) : Option (Block × Nat) :=
  match inTable a 0x030000000000 0x80000 96 with
  | some (c, o) => some (clusterBlock c o)
  | none =>
  match inTable a 0x030010000000 0x4000 1536 with
  | some (l, o) =>
    if l < s.coreMap.length then some (siteBlock (s.site l).1 (s.site l).2 (o / 0x1000 % 4), o % 0x1000)
    else some (.hole (1000 + l), o)
  | none =>
  match inTable a 0x030020000000 0x10000 24 with
  | some (n, o) => some (.stk n, o)
  | none =>
  match inTable a 0x030021000000 0x10000 20 with
  | some (p, o) => some (.lat p, o)
  | none =>
  match inTable a 0x030022000000 0x10000 1, inTable a 0x030023000000 0x1000000 1, inTable a 0x030024000000 0x10000 1,
    inTable a 0x030025000000 0x10000 1, inTable a 0x030026000000 0x10000 1, inTable a 0x030027000000 0x10000 1,
    inTable a 0x030028000000 0x10000 1, inTable a 0x030040000000 0x40000000 1 with
  | some (_, o), _, _, _, _, _, _, _ => some (.mesh, o)
  | _, some (_, o), _, _, _, _, _, _ => some (.obs, o)
  | _, _, some (_, o), _, _, _, _, _ => some (.mon, o)
  | _, _, _, some (_, o), _, _, _, _ => some (.crumb, o)
  | _, _, _, _, some (_, o), _, _, _ => some (.mgmt, o)
  | _, _, _, _, _, some (_, o), _, _ => some (.sec, o)
  | _, _, _, _, _, _, some (_, o), _ => some (.host, o)
  | _, _, _, _, _, _, _, some (_, o) => some (.sync, o)
  | _, _, _, _, _, _, _, _ => none

/-- The instance of R253 that an address lies in, by its row of the table and its number there. -/
def regInstance (a : Nat) : Option (Nat × Nat) :=
  [(0x030000000000, 0x80000, 96), (0x030010000000, 0x4000, 1536), (0x030020000000, 0x10000, 24),
    (0x030021000000, 0x10000, 20), (0x030022000000, 0x10000, 1), (0x030023000000, 0x1000000, 1),
    (0x030024000000, 0x10000, 1), (0x030025000000, 0x10000, 1), (0x030026000000, 0x10000, 1),
    (0x030027000000, 0x10000, 1), (0x030028000000, 0x10000, 1), (0x030040000000, 0x40000000, 1)].findSome? fun e =>
      (inTable a e.1 e.2.1 e.2.2).map fun x => (e.1, x.1)

/-- An entry of a table of registers: number and offset, for `n` entries of `stride` bytes from `base` on. -/
def regTab (o base stride n : Nat) : Option (Nat × Nat) := inTable o base stride n

/-! ### CORE (R89–R99) -/

/-- The code of a core state (R77). -/
def coreCode : CoreState → Nat
  | .idle => 0 | .running => 1 | .proofWait => 2 | .halted => 3 | .faulted => 4 | .done => 5

/-- Outstanding transfers of a station (R50, R91). -/
def outCount (s : State) (k : Nat) (st : Station) : Nat :=
  ((s.stq k st).acc.filter fun a => !a.due (s.coreTick k)).length

/-- `CORE.STATUS.SEQ_REASON`: the stall reason of the sequencer in this tick, 0 when it is not stalled (R91, R403). -/
def seqReason (s : State) (k : Nat) : Nat :=
  match (s.core k).seq.st with
  | .idle | .faulted => 0
  | _ =>
    let c := (coreClass s k).getD (seqClass s k)
    if c = tickIdle then 0 else c

/-- The CORE block of a logical core (R89). -/
def coreReg (s : State) (k : Nat) (o : Nat) : Word :=
  let c := s.core k
  let f := c.fault
  match o with
  | 0x008 =>
    packWord [(c.seq.lastTag.toNat, 48), (outCount s k .knead, 33), (outCount s k .store, 30), (outCount s k .sparse, 27),
      (outCount s k .vector, 24), (outCount s k .matrix, 21), (outCount s k .fetch, 18), (seqReason s k, 8),
      (coreCode c.seq.st, 0)]
  | 0x010 => packWord [(c.seq.pc.toNat / 4 * 4, 0)]
  | 0x020 => fault0 f
  | 0x028 => packWord [(f.phase.toNat, 32), (f.superstep.toNat, 0)]
  | 0x030 => f.detail
  | 0x038 => packWord [(cmdBits f.cmd 64 64, 0)]
  | 0x040 => packWord [(cmdBits f.cmd 0 64, 0)]
  | 0x048 =>
    let r := c.recov
    packWord [(bnat r.valid, 63), (r.count, 56), (r.code.toNat, 48), (r.station.toNat, 45), (r.layer.toNat, 33),
      (r.op.toNat, 21)]
  | 0x050 =>
    let n := c.nf
    packWord [(bnat n.flag, 63), (n.station.toNat, 40), (n.layer.toNat, 28), (n.op.toNat, 16), (n.row.toNat, 5),
      (n.col.toNat, 0)]
  | 0x058 => packWord [(c.codeLimit, 16), (c.codeBase, 0)]
  | 0x060 => packWord [(c.dataLimit, 16), (c.dataBase, 0)]
  | 0x068 => packWord [(c.lateFirst.toNat, 32), (c.lateCount, 0)]
  | 0x070 => packWord [((c.seq.preds ||| 1#8).toNat, 0)]
  | _ =>
    match regTab o 0x100 0x10 16, regTab o 0x200 8 32 with
    | some (n, 0), _ => (c.link n).cfg
    | some (n, 8), _ =>
      let l := c.link n
      packWord [(l.cons, 12), (l.prod, 8), (l.free, 4), (l.filled, 0)]
    | _, some (i, 0) => c.seq.reg (BitVec.ofNat 5 i)
    | _, _ => 0

/-- What a CORE block reads: `CORE.IDENT` at every site, the rest at sites that have a core; a spare site reads its reset
values (R93, R253). -/
def coreGet (s : State) (c slot o : Nat) : Word :=
  if o = 0x018 then packWord [((s.coreAt c slot).getD 0x7FF, 32), (c, 24), (slot, 16)]
  else
    match s.coreAt c slot with
    | some k => coreReg s k o
    | none => if o = 0x070 then 1 else 0

/-- What a read of a CORE register clears (R95). -/
def coreClear (o : Nat) (c : Core) : Core :=
  match o with
  | 0x048 => { c with recov := {} }
  | 0x068 => { c with lateCount := 0, lateFirst := 0 }
  | _ => c

/-- A host write of the PC abandons the instruction that waits: a WAIT leaves its cell's queue and takes no count, a SEND
delivers its message all the same, every other wait is dropped (R84, R85). -/
def abandonWait (k : Nat) (s : State) : State :=
  let p := (s.core k).seq.wpkt
  let s1 := match (s.core k).seq.wait with
    | .sync r _ _ .queued => s.putCell r { s.cell r with queue := (s.cell r).queue.filter fun e => e.1 != k }
    | .sync .. => s.consume p
    | .send ep (.written _) =>
      if s.sync.msgs.any fun m => p == some m.pkt then s
      else (s.consume p).onCore k (Core.onTx ep.toNat fun t => { t with busy := false })
    | _ => s
  s1.onSeq k fun q => { q with wait := .none, wpkt := none, bundle := [], tickTo := 0, tickAt := none, ready := s.coreTick k }

/-- What a write of a CORE register does. Of several bits of `CORE.CTRL` in one write, `FAULT_CLEAR` acts first, then
`RESUME`, then `HALT_REQ`. -/
def coreWrite (k o : Nat) (v : Word) (s : State) : State :=
  if o = 0 then
    let s1 := if v.getLsbD 2 then clearFault k s else s
    let s2 := if v.getLsbD 1 then resumeCore k s1 else s1
    if v.getLsbD 0 then haltRequest k s2 else s2
  else if (s.core k).seq.st ≠ .halted then s
  else if o = 0x010 then (abandonWait k s).onSeq k fun q => { q with pc := v.setWidth 18 &&& 0x3FFFC#18 }
  else if o = 0x070 then s.onSeq k fun q => { q with preds := v.setWidth 8 ||| 1#8 }
  else
    match regTab o 0x200 8 32 with
    | some (i, 0) => s.onSeq k (Seq.setReg (BitVec.ofNat 5 i) v (s.coreTick k))
    | _ => s

/-! ### CHAN (R289, R290) -/

/-- A mask of endpoints. -/
def epMask (p : Nat → Bool) : Nat := (List.range 8).foldl (fun a e => if p e then a + 2 ^ e else a) 0

/-- The CHAN block of a core. -/
def chanReg (s : State) (k o : Nat) : Word :=
  let c := s.core k
  let t := s.coreTick k
  if o = 0 then packWord [(epMask fun e => (c.rxEp e).ready t, 8), (epMask fun e => (c.txEp e).busy, 0)]
  else
    match regTab o 0x100 0x10 8, regTab o 0x200 0x20 8 with
    | some (e, 0), _ => (c.txEp e).cfg
    | some (e, 8), _ => packWord [((c.txEp e).seq.toNat, 32), ((c.txEp e).full, 0)]
    | _, some (e, 0) => (c.rxEp e).cfg
    | _, some (e, 8) => packWord [((c.rxEp e).tail, 32), ((c.rxEp e).head, 0)]
    | _, some (e, 16) => packWord [((c.rxEp e).seq.toNat, 32), ((c.rxEp e).used, 0)]
    | _, _ => 0

/-- `FULL_TICKS` is read to clear. -/
def chanClear (o : Nat) (c : Core) : Core :=
  match regTab o 0x100 0x10 8 with
  | some (e, 8) => c.onTx e fun t => { t with full := 0 }
  | _ => c

/-! ### LEAVEN (R176–R179) -/

/-- Occupied draw-buffer entries: the draws of drains that wait for them in MATRIX and SPARSE (R170). -/
def drawBuf (s : State) (k : Nat) : Nat :=
  min 768 (drawHeld (s.stq k .matrix) (s.coreTick k) + drawHeld (s.stq k .sparse) (s.coreTick k))

/-- The LEAVEN block of a core (R176–R179). Keys read 0.

DESIGN CHOICE (log entry 103): R177 does not say from when a command that updates a set counts as in flight: `STATBUSY` shows it
from its start, not from its acceptance. -/
def leavenReg (s : State) (k o : Nat) : Word :=
  let c := s.core k
  let l := c.lv
  match o with
  | 0x000 => packWord [(drawBuf s k, 32), (epMask fun j => decide (s.coreTick k < mget c.vec.setDone j 0), 0)]
  | 0x008 => packWord [(l.drop, 0)]
  | 0x010 => packWord [(l.miss, 8), ((l.taps.filter fun e => e.2.valid).length, 0)]
  | _ =>
    match regTab o 0x100 0x20 16, regTab o 0x400 0x10 32 with
    | some (n, 0), _ =>
      let x := mget l.slots n {}
      packWord [(bnat x.valid, 63), (x.id.toNat, 0)]
    | some (n, 0x18), _ => (mget l.slots n {}).base
    | _, some (n, 0) =>
      let x := mget l.taps n {}
      packWord [(bnat x.valid, 63), (bnat x.nf, 62), (x.cls.toNat, 12), (x.layer.toNat, 0)]
    | _, some (n, 8) =>
      let x := mget l.taps n {}
      packWord [(x.exp.toNat, 52), (x.mant.toNat, 0)]
    | _, _ => 0

/-- `COUNT` and `MISS` are read to clear. -/
def leavenClear (o : Nat) (c : Core) : Core :=
  match o with
  | 0x008 => { c with lv := { c.lv with drop := 0 } }
  | 0x010 => { c with lv := { c.lv with miss := 0 } }
  | _ => c

/-! ### OBS core block and histograms (R419–R421) -/

/-- Two bins of a histogram. -/
def binPair (m : SMap Nat) (h k : Nat) : Word :=
  packWord [(mget m (16 * h + 2 * k + 1) 0, 32), (mget m (16 * h + 2 * k) 0, 0)]

/-- The OBS block of a core. -/
def obsCoreReg (s : State) (k o : Nat) : Word :=
  let c := s.core k
  match o with
  | 0x000 => packWord [(c.obs.miss, 32), ((c.obs.layers.filter fun e => e.2.valid).length, 0)]
  | 0x008 => packWord [(c.trc.lost, 48), (c.trc.wraps, 32), (c.trc.next, 0)]
  | _ =>
    match regTab o 0x100 0x100 7, regTab o 0x800 0x10 32 with
    | some (u, b), _ => if b % 8 = 0 && decide (b / 8 < 17) then packWord [(mget c.obs.counts (17 * u + b / 8) 0, 0)] else 0
    | _, some (n, 0) =>
      let r := mget c.obs.layers n {}
      packWord [(bnat r.valid, 63), (r.layer.toNat, 0)]
    | _, some (n, 8) =>
      let r := mget c.obs.layers n {}
      packWord [(r.stalled, 32), (r.busy, 0)]
    | _, _ => 0

/-- A register of a site's block other than CORE: 0 at a site without a core. -/
def atCore (s : State) (c slot : Nat) (f : Nat → Word) : Word :=
  match s.coreAt c slot with
  | some k => f k
  | none => 0

/-! ### CLM (R227–R231) -/

/-- The CLM block of a cluster. The pointers of a ring read modulo its size. -/
def clmReg (s : State) (c o : Nat) : Word :=
  let x := s.cluster c
  let t := s.ticks c
  match o with
  | 0x000 => packWord [(bnat x.collCheck, 0)]
  | 0x008 =>
    packWord [((s.coresOf c).foldl (fun a k => a + (s.core k).dma.length) 0, 32),
      ((x.rings.filter fun e => e.2.mode != 0).length, 0)]
  | 0x010 => packWord [(bnat x.collValid, 63), (bnat x.collKind, 62), (x.collRow, 47), (x.collCount, 0)]
  | 0x018 => packWord [(x.eccUncorr, 32), (x.eccCorr, 0)]
  | 0x020 => packWord [(x.dmaWait, 32), (x.engShift, 0)]
  | _ =>
    match regTab o 0x100 0x20 64, regTab o 0x1000 0x80 64 with
    | some (n, b), _ =>
      let r := x.ring n
      match b with
      | 0x00 => packWord [(bnat r.keep, 63), (r.mode.toNat, 48), (r.size, 16), (r.base, 0)]
      | 0x08 => packWord [(r.readers.toNat, 0)]
      | 0x10 => packWord [(r.tail % r.size, 32), (r.slowest t % r.size, 0)]
      | 0x18 =>
        let inRing := fun (p : Pend) => r.mode != 0 && decide (r.base ≤ p.row) && decide (p.row < r.base + r.size)
        packWord [(((x.pend.filter inRing).map (·.row)).eraseDups.length, 32), (r.reserved t, 0)]
      | _ => 0
    | _, some (n, b) =>
      let r := x.ring n
      if b % 8 = 0 && r.readers.getLsbD (b / 8) then packWord [(r.head (b / 8) % r.size, 0)] else 0
    | _, _ => 0

/-- What a read of a CLM register clears (R228, R229). -/
def clmClear (o : Nat) (x : Cluster) : Cluster :=
  match o with
  | 0x010 => { x with collValid := false, collKind := false, collRow := 0, collCount := 0 }
  | 0x018 => { x with eccCorr := 0, eccUncorr := 0 }
  | 0x020 => { x with dmaWait := 0, engShift := 0 }
  | _ => x

/-! ### SYNC (R287, R288) -/

/-- `STAT` of a cell. -/
def cellStat (x : Cell) : Word :=
  packWord [(bnat x.ovf, 63), (match x.queue with | (k, _) :: _ => k | [] => 0x7FF, 32), (x.queue.length, 0)]

/-- A `COUNT` or `STAT` register of a pool. -/
def poolReg (cells : SMap Cell) (n b : Nat) : Word :=
  match b with
  | 0 => packWord [((mget cells n {}).count, 0)]
  | 8 => cellStat (mget cells n {})
  | _ => 0

/-- The cells of a cluster, two counts to a register. -/
def cellsReg (s : State) (c o : Nat) : Word :=
  let cs := (s.cluster c).cells
  if o % 8 = 0 && decide (o < 0x4000) then
    packWord [((mget cs (o / 8 * 2 + 1) {}).count, 32), ((mget cs (o / 8 * 2) {}).count, 0)]
  else 0

/-- The SYNC module block. -/
def syncReg (s : State) (o : Nat) : Word :=
  match o with
  | 0x00 => packWord [(s.cur.getD 0, 8), (bnat s.cur.isSome, 0)]
  | 0x08 => packWord [(s.sync.dropped, 32), (s.sync.overflows, 0)]
  | 0x10 => packWord [(s.sync.mw, 0)]
  | _ =>
    match regTab o 0x1000 8 96, regTab o 0x100000 0x10 65536, regTab o 0x200000 0x10 1024, regTab o 0x210000 0x10 256,
      regTab o 0x1000000 0x800000 4 with
    | some (c, b), _, _, _, _ =>
      let cs := (s.cluster c).cells
      if b = 0 then
        packWord [(bnat (cs.any fun e => e.2.ovf), 63), (cs.foldl (fun a e => a + e.2.queue.length) 0, 0)]
      else 0
    | _, some (n, b), _, _, _ => poolReg s.sync.mcells n b
    | _, _, some (n, b), _, _ => poolReg s.sync.tcells n b
    | _, _, _, some (n, b), _ => poolReg s.sync.fcells n b
    | _, _, _, _, some (k, b) => if b % 8 = 0 then mget (mget s.sync.xlat k []) (b / 8) 0 else 0
    | _, _, _, _, _ => 0

/-- What a read of a SYNC register clears. -/
def syncClear (o : Nat) (y : SyncSt) : SyncSt :=
  match o with
  | 0x08 => { y with dropped := 0, overflows := 0 }
  | 0x10 => { y with mw := 0 }
  | _ => y

/-! ### MESH, STK, LAT (R256–R259, R320, R321) -/

/-- A router carries detour traffic: one of the eight around it is disabled (R238). -/
def detours (s : State) (c : Nat) : Bool :=
  s.disRouters.any fun e =>
    decide (e.1 ≤ rtX c + 1) && decide (rtX c ≤ e.1 + 1) && decide (e.2 ≤ rtY c + 1) && decide (rtY c ≤ e.2 + 1) &&
      decide ((rtX c, rtY c) ≠ e)

/-- A router block. Every router that is not disabled is the attachment router of one stack (R236, R237). -/
def routerReg (s : State) (c o : Nat) : Word :=
  let r := mget s.routers c {}
  let on := s.mgmt.record.isSome && !s.disRouters.contains (rtX c, rtY c)
  match o with
  | 0 => packWord [(bnat on, 2), (bnat (on && detours s c), 1), (bnat on, 0)]
  | 8 => packWord [(r.uncorr, 32), (r.corr, 0)]
  | _ => 0

/-- The MESH module block. -/
def meshReg (s : State) (o : Nat) : Word :=
  let entry := fun (n : Nat) => match s.disRouters[n]? with
    | some (x, y) => packWord [(1, 63), (disWord x y, 0)]
    | none => 0
  match o with
  | 0x00 => packWord [(s.disRouters.length, 0)]
  | 0x08 => entry 0
  | 0x10 => entry 1
  | _ => 0

/-- A STK block. -/
def stkReg (s : State) (n o : Nat) : Word :=
  let x := (s.stack n).scrubbed s.now
  match o with
  | 0x00 =>
    packWord [(bnat !x.slots.isEmpty, 4), (bnat s.optionS, 3), (bnat x.selfRef, 2), (bnat x.trained, 1), (bnat x.powered, 0)]
  | 0x08 => packWord [(x.uncorr, 32), (x.corr, 0)]
  | 0x10 => packWord [(bnat x.addrV, 63), (bnat x.addrU, 62), (x.addr, 0)]
  | 0x18 => packWord [(x.passes, 32), (x.pos / 8192, 0)]
  | _ => 0

/-- What a read of a STK register clears. -/
def stkClear (o : Nat) (x : Stack) : Stack :=
  match o with
  | 0x08 => { x with corr := 0, uncorr := 0 }
  | 0x10 => { x with addrV := false, addrU := false, addr := 0 }
  | _ => x

/-- A LAT block. The epoch, fabric time and the discards are the module's; every block shows them. -/
def latReg (s : State) (p o : Nat) : Word :=
  let q := s.port p
  let r := portRole s p
  match o with
  | 0x00 =>
    packWord [(q.peerMod.toNat, 54), (q.peerPort.toNat, 49), (r.2, 44), (r.1, 40), (q.lanes.toNat, 32), (linkCode q.st, 0)]
  | 0x08 => packWord [(q.fecUnc, 32), (q.fecCorr, 0)]
  | 0x10 => packWord [(q.maxTicks, 32), (q.retry, 0)]
  | 0x18 => packWord [(q.oneWay.toNat, 0)]
  | 0x20 => packWord [(q.noCredit, 32), (q.credits, 16), (s.landUsed p, 0)]
  | 0x28 => packWord [(q.staleSrc.toNat, 32), (q.staleN, 0)]
  | 0x30 => packWord [(bnat s.fab.quar, 32), (s.fab.epoch.toNat, 0)]
  | 0x38 => packWord [(s.fab.ftime, 0)]
  | 0x40 => packWord [(s.fab.unmatched, 32), (s.fab.wrongCtx, 0)]
  | _ => 0

/-- What a read of a LAT register clears. -/
def latClear (p o : Nat) (s : State) : State :=
  match o with
  | 0x08 => s.onPort p fun q => { q with fecUnc := 0, fecCorr := 0 }
  | 0x10 => s.onPort p fun q => { q with maxTicks := 0, retry := 0 }
  | 0x20 => s.onPort p fun q => { q with noCredit := 0 }
  | 0x28 => s.onPort p fun q => { q with staleN := 0, staleSrc := 0 }
  | 0x40 => s.onFab fun f => { f with unmatched := 0, wrongCtx := 0 }
  | _ => s

/-! ### OBS module block, MON, CRUMB (R421–R423, R503–R506) -/

/-- The OBS module block. -/
def obsReg (s : State) (o : Nat) : Word :=
  let b := s.obs
  match o with
  | 0x00 => packWord [(b.share.toNat, 12), (bnat b.compat, 11), (b.trace.toNat, 9), (b.mode.toNat, 0)]
  | 0x08 => packWord [(b.traceBase, 0)]
  | 0x10 => packWord [(b.traceRows, 0)]
  | 0x18 => packWord [(b.snapBase, 0)]
  | 0x20 => packWord [(b.snapN, 32), (b.snapSlots, 0)]
  | 0x28 => packWord [(b.evN, 32), (b.evNext, 0)]
  | _ =>
    match regTab o 0x1000 0x40 20, regTab o 0x1800 0x40 4, regTab o 0x10000 0x20 1024 with
    | some (p, d), _, _ => if d % 8 = 0 then binPair (s.port p).census 0 (d / 8) else 0
    | _, some (h, d), _ => if d % 8 = 0 then binPair b.skew h (d / 8) else 0
    | _, _, some (n, d) => if d % 8 = 0 then packWord [(field (mget b.events n []) d 8, 0)] else 0
    | _, _, _ => 0

/-- `MAX` and `MIN` of a monitor. -/
def monMinMax (m : Monitor) : Word := packWord [(m.max.toNat, 32), (m.min.toNat, 0)]

/-- The MON block. -/
def monReg (s : State) (o : Nat) : Word :=
  match o with
  | 0x800 => packWord [(bnat s.mon.latchV, 63), (s.mon.latchM.toNat, 32), (s.mon.latch.samples, 0)]
  | 0x808 => monMinMax s.mon.latch
  | _ =>
    match regTab o 0x100 0x10 64, regTab o 0x810 8 8 with
    | some (m, 0), _ => monMinMax (mget s.mon.mons m {})
    | some (m, 8), _ =>
      let x := mget s.mon.mons m {}
      packWord [(x.samples, 32), (x.last.toNat, 0)]
    | _, some (k, 0) => binPair s.mon.latch.bins 0 k
    | _, _ => 0

/-- `MON.CTRL` (R418). -/
def monWrite (v : Word) (s : State) : State :=
  let m : BitVec 6 := v.setWidth 6
  match bits v.toNat 6 2 with
  | 1 => monLatch' m s
  | 2 => monClear' m.toNat s
  | 3 => monClear' m.toNat (monLatch' m s)
  | _ => s

/-- The 64 bytes of a record (R496). -/
def crumbBytes (r : CrumbRec) : Bytes :=
  leBytes 4 r.seq ++ leBytes 1 r.severity ++ leBytes 1 r.source ++ leBytes 2 r.code ++ leBytes 8 r.time.toNat ++ [r.ctx] ++
    [r.state] ++ leBytes 2 r.site.toNat ++ leBytes 2 r.layer.toNat ++ leBytes 2 r.op.toNat ++ leBytes 4 r.superstep.toNat ++
    leBytes 4 r.epoch.toNat ++ padTo 24 r.detail ++ leBytes 4 0 ++ leBytes 4 r.seq

/-- The CRUMB block. -/
def crumbReg (s : State) (o : Nat) : Word :=
  let c := s.crumb
  match o with
  | 0x00 => packWord [(c.dropFat, 48), (c.dropErr, 32), (c.dropLow, 16), (c.slots.length, 0)]
  | 0x08 => packWord [(c.lastSlot, 32), (c.lastSeq, 0)]
  | 0x10 => packWord [(c.cursor, 0)]
  | _ =>
    match regTab o 0x100 0x40 4 with
    | some (n, d) =>
      if d % 8 = 0 then
        match mfind c.slots ((c.cursor + n) % 16384) with
        | some r => packWord [(field (crumbBytes r) d 8, 0)]
        | none => 0
      else 0
    | none => 0

/-! ### MGMT, SEC, HOST (R445, R446, R475, R476, R494, R495) -/

/-! Pins (R444, R493, R520–R522). -/

/-- Level of PWR_GOOD: released, and so high, while the auxiliary domain is off (R493, R521). -/
def State.pwrGoodPin (s : State) : Bool := !s.mgmt.aux || s.mgmt.pwrGood

/-- Level of ALERT_N: low while the management port's event queue is not empty; released while the auxiliary domain is off (R444,
R521). -/
def State.alertN (s : State) : Bool := !s.mgmt.aux || s.host.evM.isEmpty

/-- The address of the management port, by the level of SLOT_ID that the last entry to POWERING sampled (R444, R522). -/
def State.mgmtAddress (s : State) : BitVec 7 := 0x40 + s.mgmt.slotUsed.setWidth 7

/-- The levels of COOLANT_OK, RESET_N and SLOT_ID are the outside's in every tick: a read of `MGMT.PINS` finds free values (log
entries 2 and 122), which stand in the state as the levels last seen. -/
def samplePins (s : State) : State :=
  let (w, s1) := s.drawFree
  s1.onMgmt fun g => { g with coolant := w.getLsbD 0, resetN := w.getLsbD 1, slotId := w.extractLsb' 2 3 }

/-- The MGMT block. -/
def mgmtReg (s : State) (o : Nat) : Word :=
  let g := s.mgmt
  match o with
  | 0x00 =>
    packWord [(g.lastReset.toNat, 40), (modCode g.prev, 32), (g.safeCause.toNat, 8), (modCode g.st, 0)]
  | 0x08 =>
    packWord [((ttAlt g.stepping).toNat, 48), ((ttPrimary g.stepping).toNat, 32), (g.stepping.toNat, 16), (bnat s.optionS, 8),
      (s.grade, 0)]
  | 0x10 => s.shape
  | 0x18 =>
    packWord [(g.inUse, 36), (g.bStatus, 34), (g.aStatus, 32),
      (match g.record with | some r => r.version | none => 0, 0)]
  | 0x20 => packWord [(g.trip.toNat, 32), (g.episodes, 16), (g.active.toNat, 0)]
  | 0x28 => packWord [(bnat s.pwrGoodPin, 15), (bnat g.coolant, 14), (bnat g.resetN, 13), (g.slotId.toNat, 0)]
  | 0x30 => s.hours
  | _ => 0

/-- The life-cycle transitions used (R450, R476). -/
def secReg (s : State) (o : Nat) : Word :=
  let x := s.sec
  let t := x.tally
  match o with
  | 0x00 =>
    packWord [(bnat t.tamper, 11), (bnat x.selftest, 10), (bnat !x.opKey.isEmpty, 9), (bnat !x.cert.isEmpty, 8),
      (bnat x.locked, 7), (bnat s.optionS, 6), (x.life.toNat, 0)]
  | 0x08 => packWord [(t.config, 32), (t.grade, 16), (bnat t.lock, 8), (t.lifecycle, 0)]
  | 0x10 => packWord [(bnat t.pending.isSome, 63), (t.pending.getD 0, 32), (t.next, 0)]
  | 0x18 => packWord [(bnat x.rekeyOpen, 63), (x.rekeyJournal, 32), (x.rekeyRow, 0)]
  | 0x20 => packWord [(x.deniedEng, 32), (x.deniedHost, 0)]
  | _ =>
    match regTab o 0x100 0x40 8, regTab o 0x400 0x10 4 with
    | some (m, d), _ => if d % 8 = 0 then packWord [(field (mget x.mr m []) d 8, 0)] else 0
    | _, some (k, 0) =>
      let e := (s.ctx k).sec
      packWord [(e.releases.length, 32), (e.ranges.length, 16), (bnat (x.resident == some k), 3), (bnat e.session.isSome, 2),
        (bnat e.list.isSome, 1), (bnat e.sealed, 0)]
    | _, some (k, 8) => (s.ctx k).sec.keyId
    | _, _ => 0

/-- The HOST block. -/
def hostReg (s : State) (o : Nat) : Word :=
  let h := s.host
  match o with
  | 0x00 => packWord [(h.lanes.toNat, 32), (linkCode h.link, 0)]
  | 0x08 => packWord [(h.fecUnc, 32), (h.fecCorr, 0)]
  | 0x10 => packWord [(h.downs, 32), (h.retry, 0)]
  | 0x18 => packWord [(h.evLost, 48), (h.evR.length, 32), (h.bad, 16), (min 64 h.tags.length, 0)]
  | _ => 0

/-- What a read of a HOST register clears. -/
def hostClear (o : Nat) (h : HostSt) : HostSt :=
  match o with
  | 0x08 => { h with fecUnc := 0, fecCorr := 0 }
  | 0x10 => { h with downs := 0, retry := 0 }
  | 0x18 => { h with evLost := 0, bad := 0 }
  | _ => h

/-! ### One access -/

/-- What a register reads; an offset that no map lists reads 0. -/
def regGet (s : State) (b : Block) (o : Nat) : Word :=
  match b with
  | .core c slot => coreGet s c slot o
  | .chan c slot => atCore s c slot fun k => chanReg s k o
  | .leaven c slot => atCore s c slot fun k => leavenReg s k o
  | .obsCore c slot => atCore s c slot fun k => obsCoreReg s k o
  | .clm c => clmReg s c o
  | .cells c => cellsReg s c o
  | .router c => routerReg s c o
  | .census c =>
    match regTab o 0 0x40 3 with
    | some (h, d) => if d % 8 = 0 then binPair (s.cluster c).census h (d / 8) else 0
    | none => 0
  | .hole _ => 0
  | .stk n => stkReg s n o
  | .lat p => latReg s p o
  | .mesh => meshReg s o
  | .obs => obsReg s o
  | .mon => monReg s o
  | .crumb => crumbReg s o
  | .mgmt => mgmtReg s o
  | .sec => secReg s o
  | .host => hostReg s o
  | .sync => syncReg s o

/-- What a read of a register clears: its RC fields (R16). -/
def regClear (b : Block) (o : Nat) (s : State) : State :=
  match b with
  | .core c slot => atSite c slot (fun k s => s.onCore k (coreClear o)) s
  | .chan c slot => atSite c slot (fun k s => s.onCore k (chanClear o)) s
  | .leaven c slot => atSite c slot (fun k s => s.onCore k (leavenClear o)) s
  | .clm c => s.onCluster c (clmClear o)
  | .router c => if o = 8 then { s with routers := mset s.routers c {} } else s
  | .stk n => s.onStack n (stkClear o)
  | .lat p => latClear p o s
  | .mgmt => if o = 0x20 then s.onMgmt fun g => { g with episodes := 0 } else s
  | .sec => if o = 0x20 then s.onSec fun x => { x with deniedEng := 0, deniedHost := 0 } else s
  | .host => s.onHost (hostClear o)
  | .sync => s.onSync (syncClear o)
  | .obsCore .. | .cells _ | .census _ | .hole _ | .mesh | .obs | .mon | .crumb => s

/-- What a write of a register does: only CORE, MON and CRUMB have fields that the host may write (R16). -/
def regSet (b : Block) (o : Nat) (v : Word) (s : State) : State :=
  match b with
  | .core c slot => atSite c slot (fun k s => coreWrite k o v s) s
  | .mon => if o = 0 then monWrite v s else s
  | .crumb => if o = 0x10 then { s with crumb := { s.crumb with cursor := (bits v.toNat 0 14) } } else s
  | .chan .. | .leaven .. | .obsCore .. | .clm _ | .cells _ | .router _ | .census _ | .hole _ | .stk _ | .lat _ | .mesh
  | .obs | .mgmt | .sec | .host | .sync => s

/-- Registers that sealed residency denies (R85, R468). -/
def regDenied (write : Bool) (b : Block) (o : Nat) : Bool :=
  match b with
  | .core .. =>
    [0x010, 0x030, 0x038, 0x040, 0x070].contains o || (regTab o 0x200 8 32).isSome || (write && o == 0)
  | .leaven .. =>
    (match regTab o 0x100 0x20 16 with
      | some (_, d) => d == 0x18
      | none => false) || (regTab o 0x400 0x10 32).isSome
  | .clm _ =>
    o == 0x010 || (match regTab o 0x100 0x20 64 with
      | some (_, d) => d == 0x10 || d == 0x18
      | none => false) || (regTab o 0x1000 0x80 64).isSome
  | .sync => o != 0
  | .cells _ | .chan .. | .obsCore .. | .census _ => true
  | .obs => (regTab o 0x10000 0x20 1024).isSome
  | _ => false

/-- A read of `MGMT.PINS` looks at the pins. -/
def regSample (b : Block) (o : Nat) (s : State) : State :=
  match b, o with
  | .mgmt, 0x28 => samplePins s
  | _, _ => s

/-- Read one word: its value, and the state after its RC fields have cleared. -/
def regRead (a : Nat) (s : State) : Word × State :=
  match s.block a with
  | some (b, o) =>
    let s1 := regSample b o s
    (regGet s1 b o, regClear b o s1)
  | none => (0, s)

/-- Write one word. -/
def regWrite (a : Nat) (v : Word) (s : State) : State :=
  match s.block a with
  | some (b, o) => regSet b o v s
  | none => s

end Sys2Proof.Machine
end

