-- ==== Sys2Proof/Machine/Packet.lean ====
section
/-! DEFINITION. Renkai Link below its packets, command packets as they arrive, and how a command is taken up and checked
(R424–R432, R466). -/

namespace Sys2Proof.Machine

/-! ### Renkai Link (R425, R426) -/

/-- Rewrite the state of the link. -/
def setLink (st : LinkState) (h : HostSt) : HostSt := { h with link := st }

/-- The link carries traffic. -/
def linkUp (h : HostSt) : Bool := h.link == .up || h.link == .replay

/-- A retry that was in progress is over. -/
def hostRetryOver (h : HostSt) : HostSt :=
  { h with link := if h.link = .replay && h.waitFor.isNone && h.again.isEmpty then .up else h.link }

/-- The host's first ACK after a retraining: the replay goes on after the frame that it names. -/
def hostResume (fseq : BitVec 12) (h : HostSt) : HostSt :=
  if h.resume then { h with resume := false, again := replayFrom (fseq + 1) h.frames } else h

/-- HOST_LINK_ACK: the frames up to `FSEQ` leave the replay buffer. The module asks for no credits of the host's. -/
def execHostLinkAck (fseq : BitVec 12) (hdrCredits payCredits : Nat) (s : State) : Host.Outcome State Fault Refusal :=
  let _ := (hdrCredits, payCredits)
  .next (if linkUp s.host then
    s.onHost fun h =>
      hostRetryOver (hostResume fseq
        { h with
          acked := fseq, frames := unacked fseq h.frames, again := unacked fseq h.again
          retries := if (unacked fseq h.frames).length = h.frames.length then h.retries else 0 })
  else s)

/-- HOST_LINK_NAK: the module replays from `FSEQ`; after the eighth retry of one frame the link is DOWN. -/
def hostNak (fseq : BitVec 12) (now : Nat) (h : HostSt) : HostSt :=
  let n := if h.retryOf = fseq && h.retries ≠ 0 then h.retries + 1 else 1
  let h1 : HostSt :=
    { h with retry := satAdd max32 h.retry 1, retries := n, retryOf := fseq, again := replayFrom fseq h.frames }
  if 8 ≤ n then { h1 with link := .down, lanes := 0, downs := satAdd 0xFFFF h1.downs 1, downAt := now }
  else { h1 with link := .replay }

def execHostLinkNak (fseq : BitVec 12) (s : State) : Host.Outcome State Fault Refusal :=
  .next (if linkUp s.host then s.onHost (hostNak fseq s.now) else s)

/-- HOST_FILL_FRAME: a FILL frame is discarded; it advances no `FSEQ` and is never acknowledged (R425). -/
def execHostFillFrame (s : State) : Host.Outcome State Fault Refusal :=
  .next (if linkUp s.host then s.onHost fun h => { h with fillSeen := true } else s)

/-- HOST_CODEWORD_UNCORRECTABLE: that frame and all later ones are discarded until the replay, and a NAK is due. -/
def execHostCodewordUncorrectable (s : State) : Host.Outcome State Fault Refusal :=
  .next (if linkUp s.host then
    s.onHost fun h =>
      let h1 : HostSt := { h with fecUnc := satAdd max32 h.fecUnc 1, nakDue := true }
      if h.waitFor.isSome then h1 else { h1 with waitFor := some h.rxSeq, link := .replay }
  else s)

/-- HOST_REPLAY_FRAME: the awaited frame has come, and the module accepts frames again from it on. -/
def execHostReplayFrame (fseq : BitVec 12) (s : State) : Host.Outcome State Fault Refusal :=
  .next (if linkUp s.host && s.host.waitFor = some fseq then
    s.onHost fun h => hostRetryOver { h with waitFor := none, nakDue := false }
  else s)

/-- Ticks of 10 ms, the time from one attempt to train a link that is DOWN to the next (R426). -/
def retrainTicks : Nat := 16000000

/-- HOST_LINK_RETRAIN: a link that does not carry traffic while the auxiliary domain runs has trained, or has not and tries again; one
that is DOWN tries every 10 ms. After a DOWN the module awaits the replay of the frame after the last that it received intact, which
its first ACK names (R426). -/
def execHostLinkRetrain (trained : Bool) (s : State) : Host.Outcome State Fault Refusal :=
  .next (if s.mgmt.aux && !linkUp s.host && (s.host.link != .down || decide (s.host.downAt + retrainTicks ≤ s.now)) then
    s.onHost fun h =>
      if trained then
        { h with
          link := .up, lanes := 0xF, retries := 0, again := [], nakDue := false, ackAge := 31, resume := h.link == .down
          waitFor := if h.link = .down then some h.rxSeq else none }
      else { h with link := if h.link = .down then .down else .training, lanes := 0, downAt := s.now }
  else s)

/-! ### Frames of Renkai Link (R424–R426) -/

/-- A codeword leaves and one comes in this tick: the link's 448 Gb/s carry 5,440 bits in 136/7 ticks (R424, R425). -/
def hostFrameTick (now : Nat) : Bool := decide (now * 7 % 136 < 7)

/-- The module returns credits, or 32 frames have passed since its last ACK (R308, R426). -/
def HostSt.ackDue (h : HostSt) : Bool := h.owedHdr != 0 || h.owedPay != 0 || decide (31 ≤ h.ackAge)

/-- The link-level blocks of the next frame: a NAK goes ahead of any other (R308). -/
def HostSt.linkBlocks (h : HostSt) : List HostBlock :=
  (match h.nakDue, h.waitFor with
    | true, some f => [.nak f]
    | _, _ => []) ++ (if h.ackDue then [.ack (h.rxSeq - 1) h.owedHdr h.owedPay] else [])

/-- The link after its link-level blocks have left: the credits that an ACK returns are the host's again. -/
def HostSt.linkSent (h : HostSt) : HostSt :=
  if h.ackDue then
    { h with nakDue := false, hdrCred := h.hdrCred + h.owedHdr, payCred := h.payCred + h.owedPay, owedHdr := 0, owedPay := 0
             ackAge := 0 }
  else { h with nakDue := false, ackAge := h.ackAge + 1 }

/-- The 256 bits of a block (R426). -/
def HostBlock.word : HostBlock → BitVec 256
  | .idle => 0
  | .ack fseq hdr pay => BitVec.ofNat 256 (bitFields [(1, 0), (fseq.toNat, 32), (hdr % 65536, 64), (pay % 4294967296, 96)])
  | .nak fseq => BitVec.ofNat 256 (bitFields [(2, 0), (fseq.toNat, 32)])
  | .bytes b => BitVec.ofNat 256 (field b 0 32)

/-- Twenty blocks: the link-level ones, then those that wait, then IDLE blocks. -/
def hostFill (link : List HostBlock) (out : List Bytes) : List HostBlock :=
  let bs := link ++ (out.take (20 - link.length)).map .bytes
  bs ++ List.replicate (20 - bs.length) .idle

/-- The next frame of the module: a FILL frame after 4,095 others, a frame that a retry resends, or a new one while the replay buffer
of 256 frames has room. Until the host's first ACK after a retraining, link-level blocks alone leave, in frames that are not kept
(R425, R426, log entry 69). With a full replay buffer a FILL frame leaves. -/
def hostSend (h : HostSt) : HostSt :=
  let fill : Frame HostBlock := { seq := h.txSeq, kind := 3, blocks := hostFill [] [] }
  if 4095 ≤ h.fillAge then { h with fillAge := 0, line := some fill }
  else
    let h1 := { h with fillAge := h.fillAge + 1 }
    if h.resume then { h1.linkSent with line := some { seq := h.txSeq, blocks := hostFill h.linkBlocks [] } }
    else
      match h.again with
      | f :: rest => { h1 with again := rest, line := some f }
      | [] =>
        if 256 ≤ h.frames.length then { h with fillAge := 0, line := some fill }
        else
          let n := 20 - h.linkBlocks.length
          let f : Frame HostBlock := { seq := h.txSeq, blocks := hostFill h.linkBlocks h.out }
          { h1.linkSent with out := h.out.drop n, txSeq := h.txSeq + 1, frames := h.frames ++ [f], line := some f }

/-- A frame of the host has come: it counts, unless it was FILL or a retry is awaited, and whether symbols of its codeword were
corrected is a free value (R425, R426, R446, log entries 2 and 43). -/
def hostComes (corrected : Bool) (h : HostSt) : HostSt :=
  { h with
    rxSeq := if h.fillSeen || h.waitFor.isSome then h.rxSeq else h.rxSeq + 1, fillSeen := false
    fecCorr := if corrected then satAdd max32 h.fecCorr 1 else h.fecCorr }

/-- One real tick of Renkai Link. -/
def hostTick (s : State) : State :=
  if hostFrameTick s.now && linkUp s.host then
    let (w, s1) := s.drawFree
    s1.onHost fun h => hostRetryOver (hostComes (w.getLsbD 0) (hostSend h))
  else s

/-! ### What the management port carries (R444)

PRESUMED (log entry 9): the layouts are those of DSP0236, DSP0237 and the SMBus specification, which the manual names and does not
repeat. -/

/-- The packet error code of SMBus: CRC-8 with x⁸ + x² + x + 1. -/
def pec (bs : Bytes) : Byte :=
  bs.foldl (fun c b => (List.range 8).foldl (fun c _ => if c.getLsbD 7 then c <<< 1 ^^^ 7#8 else c <<< 1) (c ^^^ b)) 0

/-- A message of type 0x7F, with the enterprise number of IDENTIFY. -/
def vendorMessage (x : Sent) : Bytes := 0x7F#8 :: (leBytes 4 Config.vendorIana).reverse ++ x.hdr ++ x.payload

/-- The transport header of unit `i` of `n`: version, endpoints, and the start, end, sequence and tag of the message. -/
def unitHeader (i n : Nat) (tag : BitVec 4) (src dst : Byte) : Bytes :=
  [1#8, dst, src, BitVec.ofNat 8 (128 * bnat (i == 0) + 64 * bnat (i + 1 == n) + 16 * (i % 4) + tag.toNat)]

/-- The SMBus writes in which a reply or an event leaves for an address of the bus, a 64-byte transmission unit in each. An event goes to
the endpoint that set the module's endpoint ID; a reply goes to the endpoint of its command, which COMMAND_PACKET_ARRIVAL does not name. -/
def mgmtUnits (to' : BitVec 7) (dst : Byte) (tag : BitVec 4) (x : Sent) (s : State) : List Bytes :=
  let m := vendorMessage x
  let n := (m.length + 63) / 64
  (List.range n).map fun i =>
    let unit := (m.drop (64 * i)).take 64
    let w := [BitVec.ofNat 8 (2 * to'.toNat), 0x0F#8, BitVec.ofNat 8 (5 + unit.length),
      BitVec.ofNat 8 (2 * s.mgmtAddress.toNat + 1)] ++ unitHeader i n tag s.host.eid (x.dst.getD dst) ++ unit
    w ++ [pec w]

/-! ### Check 1 (R426–R428, R430, R434, R444) -/

/-- The opcodes of R434. -/
def opcodes : List Nat :=
  [0x0101, 0x0102, 0x0103, 0x0104, 0x0105, 0x0106] ++
  [0x0201, 0x0202, 0x0203, 0x0204, 0x0205, 0x0206, 0x0207, 0x0208, 0x0209, 0x020A] ++
  [0x0301, 0x0302, 0x0303, 0x0401] ++ [0x0501, 0x0502, 0x0503, 0x0504, 0x0505, 0x0506, 0x0507] ++
  [0x0601, 0x0602, 0x0603, 0x0604, 0x0605, 0x0606] ++ [0x0701, 0x0702, 0x0703, 0x0704]

/-- The opcodes that the management port accepts (R444). -/
def mgmtOpcodes : List Nat :=
  [0x0101, 0x0102, 0x0103, 0x0104, 0x0105, 0x0106, 0x0203, 0x0207, 0x0501, 0x0605]

/-- Payload credits of a packet. -/
def payUnits (pkt : Bytes) : Nat := (pkt.length - 32 + 31) / 32

/-- What an interface asks of a packet beyond its framing: credits on Renkai Link, the list of R444 on the other. -/
def ifaceOk (i : Iface) (pkt : Bytes) (h : HostSt) : Bool :=
  match i with
  | .renkai => decide (1 ≤ h.hdrCred) && decide (payUnits pkt ≤ h.payCred)
  | .mgmt => mgmtOpcodes.contains (hOp pkt) && hFlags pkt % 2 == 0 && decide (pkt.length ≤ 1056)

/-- Check 1: length, `ENC` framing, opcode, tag, credits. -/
def checkOne (i : Iface) (pkt : Bytes) (h : HostSt) : Bool :=
  decide (32 ≤ pkt.length) && hLen pkt % 32 == 0 && decide (hLen pkt ≤ 1048576) &&
    pkt.length == 32 + hLen pkt + 16 * (hFlags pkt % 2) && opcodes.contains (hOp pkt) &&
    !(h.tags.any fun t => t.2 == hTag pkt) && ifaceOk i pkt h

/-! ### Arrival (R431, R466) -/

/-- A session ends; its keys are zeroised (R465). -/
def endSession (c : Nat) (s : State) : State := s.onCtx c fun x => { x with sec := { x.sec with session := none } }

/-- What a payload says: itself, or its plaintext if its tag verifies. An `ENC` command that passes check 1 advances the
host-to-module counter of its session, which ends at 2³² (R466). -/
def openPayload (hdr payload : Bytes) (s : State) : Option Bytes × State :=
  if hFlags hdr % 2 = 0 then (some payload, s)
  else
    let c := hCtx hdr % 4
    match (s.ctx c).sec.session with
    | none => (none, s)
    | some (h2m, m2h, kIn, kOut) =>
      let next := if msgLimit ≤ h2m + 1 then none else some (h2m + 1, m2h, kIn, kOut)
      (gcmOpen kIn h2m hdr payload, s.onCtx c fun x => { x with sec := { x.sec with session := next } })

/-- A packet takes its credits. -/
def takeCredits (i : Iface) (units : Nat) (h : HostSt) : HostSt :=
  if i = .renkai then { h with hdrCred := h.hdrCred - 1, payCred := h.payCred - units } else h

/-- The module is to return the credits of a packet in its next ACK (R426). -/
def oweCredits (i : Iface) (hdr units : Nat) (h : HostSt) : HostSt :=
  if i = .renkai then { h with owedHdr := h.owedHdr + hdr, owedPay := h.owedPay + units } else h

/-- A packet that came by the management port in tick `t`. -/
def mgmtIn (t : Nat) (q : Pending) : Bool := q.iface == .mgmt && q.atT == t

/-- A packet goes to the end of a queue; one from Renkai Link goes before those of the management port that completed in its tick,
which count one later (R431). -/
def joinQueue (p : Pending) (q : List Pending) : List Pending :=
  if p.iface = .renkai then
    q.filter (fun x => !mgmtIn p.atT x) ++ [p] ++ (q.filter (mgmtIn p.atT)).map fun x => { x with num := x.num + 1 }
  else q ++ [p]

/-- Packets of the management port that completed in a Renkai packet's tick, in the other queue, count one later too. -/
def otherQueue (p : Pending) (q : List Pending) : List Pending :=
  if p.iface = .renkai then q.map fun x => if mgmtIn p.atT x then { x with num := x.num + 1 } else x else q

/-- A packet joins its queue: group 0x03 the bulk queue, any other the control queue. It takes its credits. -/
def enqueue (p : Pending) (units : Nat) (h : HostSt) : HostSt :=
  let late := if p.iface = .renkai then ((h.bulk ++ h.control).filter (mgmtIn p.atT)).length else 0
  let p := { p with num := h.arrN - late }
  let h1 := takeCredits p.iface units { h with arrN := h.arrN + 1, tags := h.tags ++ [(p.iface, hTag p.hdr)] }
  if hOp p.hdr / 256 = 3 then { h1 with bulk := joinQueue p h.bulk, control := otherQueue p h.control }
  else { h1 with control := joinQueue p h.control, bulk := otherQueue p h.bulk }

/-- A packet is discarded: of the credits it took, the host gets back in the next ACK those that it held (R426). -/
def discard (i : Iface) (units : Nat) (h : HostSt) : HostSt :=
  oweCredits i (min 1 h.hdrCred) (min units h.payCred) (takeCredits i units h)

/-- COMMAND_PACKET_ARRIVAL: a whole packet has arrived. One that fails check 1 is discarded and answered at once. -/
def packetArrival (i : Iface) (pkt : Bytes) (s : State) : State :=
  let p : Pending :=
    { iface := i, hdr := padTo 32 pkt, payload := pkt.drop 32, atT := s.now, num := s.host.arrN, plain := none }
  if !checkOne i pkt s.host then (replyAs false p stBadPacket [] [] false s).onHost (discard i (payUnits pkt))
  else
    let (plain, s1) := openPayload p.hdr p.payload s
    s1.onHost (enqueue { p with plain := plain } (payUnits pkt))

/-- The interface hears a packet: the management port whenever the auxiliary domain runs, Renkai Link while it is up and
awaits no replay. -/
def hears (i : Iface) (s : State) : Bool :=
  match i with
  | .renkai => s.mgmt.aux && linkUp s.host && s.host.waitFor.isNone
  | .mgmt => s.mgmt.aux

def execCommandPacketArrival (i : Iface) (pkt : Bytes) (s : State) : Host.Outcome State Fault Refusal :=
  .next (if hears i s then packetArrival i pkt s else s)

/-! ### Take-up (R431) -/

/-- The barrier commands. -/
def barrier (opc : Nat) : Bool := [0x0201, 0x0202, 0x0204, 0x0205].contains opc

/-- A bulk command that arrived before packet `n` still owes its last reply. -/
def bulkOwed (s : State) (n : Nat) : Bool :=
  (s.host.bulk.any fun p => decide (p.num < n)) || (s.host.jobs.any fun j => decide (j.cmd.num < n)) ||
    s.host.ops.any fun o => o.opcode == 0x0303 && decide (o.num < n)

/-- The queue of an opcode. -/
def queueOf (opc : Nat) (h : HostSt) : List Pending := if opc / 256 = 3 then h.bulk else h.control

/-- The queue of an opcode takes up no command while the last one that it took is still moving its rows or words, or has its change still
before it (R431, R453). -/
def queueFree (opc : Nat) (h : HostSt) : Bool :=
  if opc / 256 = 3 then h.jobs.all fun j => j.op.isSome else h.regJob.isNone && h.change.isNone

/-- The head of a queue leaves it, and its credits return in the next ACK (R426). -/
def dequeue (opc : Nat) (p : Pending) (h : HostSt) : HostSt :=
  oweCredits p.iface 1 ((p.payload.length + 31) / 32)
    (if opc / 256 = 3 then { h with bulk := h.bulk.drop 1 } else { h with control := h.control.drop 1 })

/-- A command of this opcode is taken up, if it stands at the head of its queue and is the variant that `want` picks. -/
def takeUp (opc : Nat) (want : Pending → Bool) (body : Pending → State → State) (s : State) :
    Host.Outcome State Fault Refusal :=
  .next (match queueOf opc s.host with
    | p :: _ =>
      if s.mgmt.aux && hOp p.hdr == opc && want p && queueFree opc s.host && !(barrier opc && bulkOwed s p.num) then
        body p (s.onHost (dequeue opc p))
      else s
    | [] => s)

/-- Take-up of a command that has no variants. -/
def takeAny (opc : Nat) (body : Pending → State → State) (s : State) : Host.Outcome State Fault Refusal :=
  takeUp opc (fun _ => true) body s

/-! ### Checks 2 to 7 (R430) -/

/-- The context that a command names. -/
def Pending.ctx (p : Pending) : Nat := hCtx p.hdr % 4

/-- The payload as the command says it. -/
def Pending.body (p : Pending) : Bytes := p.plain.getD []

/-- What a command's own rules answer to the checks: whether it needs option S, whether the states allow it, whether Sealed
mode denies it, the parameters of its BAD_PARAM reply, and the operation that it conflicts with. -/
structure Gate where
  optS    : Bool := false
  allowed : Bool := true
  denied  : Bool := false
  bad     : Option Bytes := none
  busy    : Option (BitVec 32) := none

/-- The checks in their order; the first failure answers, and a command that passes goes on. A refused command changes no
state, but a VERIFY_FAIL ends the session. -/
def gate (p : Pending) (g : Gate) (go : State → State) (s : State) : State :=
  if !s.optionS && (g.optS || p.enc) then refuse p stNotConf s
  else if !g.allowed || (p.enc && (s.ctx p.ctx).sec.session.isNone) then refuse p stRefused s
  else if p.plain.isNone then refuse p stVerify (endSession p.ctx s)
  else if g.denied then replySt p stDenied s
  else
    match g.bad, g.busy with
    | some params, _ => reply p stBadParam params [] true s
    | none, some id => reply p stBusy (leBytes 4 id.toNat) [] true s
    | none, none => go s

/-- A BAD_PARAM with no parameters, if the condition holds. -/
def badIf (c : Bool) : Option Bytes := if c then some [] else none

/-- The first BAD_PARAM of two. -/
def badOr (a b : Option Bytes) : Option Bytes :=
  match a with
  | some x => some x
  | none => b

/-- A BAD_PARAM that names an address (R428). -/
def badAddr (a : Option Nat) : Option Bytes := a.map (leBytes 8 ·)

/-- The bytes of the header that R427 and R534 show as 0 are 0; `used` lists the parameters by first byte and length. -/
def unusedZero (p : Pending) (used : List (Nat × Nat)) : Bool :=
  decide (hCtx p.hdr < 4) && decide (hFlags p.hdr < 2) && field p.hdr 6 2 == 0 &&
    (List.range 20).all fun i =>
      used.any (fun r => decide (r.1 ≤ i + 12) && decide (i + 12 < r.1 + r.2)) || field p.hdr (i + 12) 1 == 0

/-- A command without a payload keeps to R534. -/
def plainForm (p : Pending) (used : List (Nat × Nat)) : Bool := unusedZero p used && hLen p.hdr == 0

/-- The module is in one of these states. -/
def inStates (ms : List ModState) (s : State) : Bool := ms.contains s.mgmt.st

/-- Every context is EMPTY. -/
def allEmpty (s : State) : Bool := (List.range 4).all fun i => (s.ctx i).st == .empty

/-! ### Maintenance operations that meet (R396–R398) -/

/-- The kinds of R396. -/
def kRekey : Nat := 1
def kScrub : Nat := 2
def kMemtest : Nat := 3
def kFw : Nat := 4
def kConfig : Nat := 5
def kRetrain : Nat := 6
def kStarter : Nat := 7

/-- The pairs that may run together, lower kind first (R397). -/
def together : List (Nat × Nat) := [(1, 6), (2, 4), (2, 6), (3, 6), (4, 6), (4, 7), (6, 7)]

/-- Two kinds may run together. -/
def compatible (a b : Nat) : Bool := together.contains (min a b, max a b)

/-- The running operation with the lowest sequence number that a command of this kind conflicts with (R398). -/
def conflict (kind : Nat) (s : State) : Option (BitVec 32) :=
  (s.host.ops.find? fun o => opKind o != kindOther && !compatible kind (opKind o)).map (·.id)

end Sys2Proof.Machine
end

