-- ==== Sys2Proof/Machine/Commands.lean ====
section
/-! DEFINITION. Commands that ask, set masks, or reach registers, and the messages of the management port (R393, R434,
R441–R444, R534, R535). -/

namespace Sys2Proof.Machine

/-! ### IDENTIFY and ECHO -/

/-- Two digits of a grade. -/
def gradeText (g : Nat) : Bytes := [BitVec.ofNat 8 (48 + g / 10 % 10), BitVec.ofNat 8 (48 + g % 10)]

/-- The order code of a record on these dies (R1). -/
def orderCode (stepping : BitVec 8) (r : ConfigRecord) : Bytes :=
  ascii "TVH-LT" ++ gradeText r.grade ++ ascii "-" ++ ascii (if r.optionS then "S" else "N") ++ ascii "-" ++
    ascii (if stepping = 0xA1#8 then "A1" else "B0")

/-- The management firmware that runs, and the microcode. -/
def State.firmware (s : State) : Bytes := s.mgmt.fw.run.getD (Config.image 2)
def State.microcode (s : State) : Bytes := s.mgmt.uc.run.getD (Config.image 3)

/-- The payload of IDENTIFY (R535). -/
def identity (s : State) : Bytes :=
  let code := match s.mgmt.record with
    | some r => orderCode s.mgmt.stepping r
    | none => Config.shippedCode
  padTo 64 (padTo 16 code ++ leBytes 1 s.grade ++ leBytes 1 (bnat s.optionS) ++ leBytes 1 s.mgmt.stepping.toNat ++ [0#8] ++
    leBytes 2 (ttPrimary s.mgmt.stepping).toNat ++ leBytes 2 (ttAlt s.mgmt.stepping).toNat ++ leBytes 8 s.shape.toNat ++
    leBytes 1 (modCode s.mgmt.st) ++ (List.range 4).flatMap (fun i => leBytes 1 (ctxCode (s.ctx i).st)) ++ leBytes 3 0 ++
    leBytes 8 (Config.imageVersion s.firmware) ++ leBytes 4 Config.vendorIana)

def execIdentify (s : State) : Host.Outcome State Fault Refusal :=
  takeAny 0x0101 (fun p s => gate p { bad := badIf !(plainForm p []) } (fun s => reply p stOk [] (identity s) true s) s) s

def execEcho (s : State) : Host.Outcome State Fault Refusal :=
  takeAny 0x0102 (fun p s =>
    gate p { bad := badIf (!(unusedZero p []) || decide (1024 < hLen p.hdr)) } (fun s => reply p stOk [] p.body true s) s) s

/-! ### REG_READ and REG_WRITE (R253, R434, R441, R468) -/

/-- `ADDR` and `WORDS`. -/
def regAddr (p : Pending) : Nat := field p.hdr 12 8
def regWords (p : Pending) : Nat := field p.hdr 20 4

/-- The addresses of an access; of one with `WORDS` out of range, as far as its range allows. -/
def regAddrs (p : Pending) : List Nat := (List.range (max 1 (min 64 (regWords p)))).map fun i => regAddr p + 8 * i

/-- The first address of the range that is misaligned, or does not lie in the block instance of the first (R441). -/
def regBad (p : Pending) : Option Nat :=
  let first := regInstance (regAddr p)
  if regAddr p % 8 ≠ 0 || first.isNone then some (regAddr p)
  else (regAddrs p).find? fun a => regInstance a != first

/-- The blocks of R253 that REG_READ and REG_WRITE reach outside READY, RUNNING and REKEY_RESUME (R434). -/
def regLimited (write : Bool) (st : ModState) : List Nat :=
  match st with
  | .waitHost => if write then [0x030024000000, 0x030025000000]
    else [0x030026000000, 0x030024000000, 0x030025000000, 0x030027000000, 0x030028000000]
  | .safe | .retired => if write then [0x030025000000]
    else [0x030026000000, 0x030024000000, 0x030025000000, 0x030027000000, 0x030028000000]
  | _ => []

/-- The whole range of an access, whatever its length, lies in one block instance: its first and its last byte do (R441). -/
def regWithin (p : Pending) : Bool :=
  let first := regInstance (regAddr p)
  first.isSome && regInstance (regAddr p + 8 * max 1 (regWords p) - 1) == first

/-- The module state allows the access. -/
def regState (write : Bool) (p : Pending) (s : State) : Bool :=
  inStates [.ready, .running, .rekeyResume] s ||
    (regWithin p &&
      match regInstance (regAddr p) with
      | some (base, _) => (regLimited write s.mgmt.st).contains base
      | none => false)

/-- Sealed residency denies a register of the range. -/
def regSealed (write : Bool) (p : Pending) (s : State) : Bool :=
  s.sec.resident.isSome && (regAddrs p).any fun a =>
    match s.block a with
    | some (b, o) => regDenied write b o
    | none => false

/-- The BAD_PARAM of an access: `WORDS`, the payload's length and the unused bytes name `ADDR` (R428, R534). -/
def regParams (write : Bool) (p : Pending) : Option Bytes :=
  let n := regWords p
  let lenOk := if write then hLen p.hdr == (8 * n + 31) / 32 * 32 else hLen p.hdr == 0
  if !(unusedZero p [(12, 8), (20, 4)]) || n = 0 || 64 < n || !lenOk then badAddr (some (regAddr p)) else badAddr (regBad p)

/-- The words of an access are reached one in a tick from the next tick on (R441). -/
def regStart (write : Bool) (p : Pending) (s : State) : State :=
  s.onHost fun h => { h with regJob := some { cmd := p, write := write, addrs := regAddrs p } }

def execRegRead (s : State) : Host.Outcome State Fault Refusal :=
  takeAny 0x0103 (fun p s =>
    gate p { allowed := regState false p s, denied := regSealed false p s, bad := regParams false p } (regStart false p) s) s

def execRegWrite (s : State) : Host.Outcome State Fault Refusal :=
  takeAny 0x0104 (fun p s =>
    gate p { allowed := regState true p s, denied := regSealed true p s, bad := regParams true p } (regStart true p) s) s

/-- The next word of an access is read, or written with the next eight bytes of the payload. -/
def regWord (j : RegJob) (a : Nat) (s : State) : RegJob × State :=
  if j.write then ({ j with addrs := j.addrs.drop 1, data := j.data ++ List.replicate 8 0 },
    regWrite a (BitVec.ofNat 64 (field j.cmd.body j.data.length 8)) s)
  else
    let (v, s1) := regRead a s
    ({ j with addrs := j.addrs.drop 1, data := j.data ++ leBytes 8 v.toNat }, s1)

/-- One tick of a register access, before anything else of the tick: what a count takes up in the tick stays behind the read (R18,
R441). With its last word it is answered. -/
def regTick (s : State) : State :=
  match s.host.regJob with
  | some j =>
    match j.addrs with
    | a :: rest =>
      let (j1, s1) := regWord j a s
      if rest.isEmpty then
        reply j.cmd stOk [] (if j.write then [] else j1.data) true (s1.onHost fun h => { h with regJob := none })
      else s1.onHost fun h => { h with regJob := some j1 }
    | [] => s.onHost fun h => { h with regJob := none }
  | none => s

/-! ### EVENTS (R442) -/

/-- The mask is that of the interface the command came by. -/
def setMask (i : Iface) (m : BitVec 8) (h : HostSt) : HostSt :=
  match i with
  | .renkai => { h with maskR := m }
  | .mgmt => { h with maskM := m }

def execEvents (s : State) : Host.Outcome State Fault Refusal :=
  takeAny 0x0106 (fun p s =>
    let m := field p.hdr 12 1
    gate p { bad := badIf (!(plainForm p [(12, 1)]) || decide (8 ≤ m)) }
      (fun s => replySt p stOk (s.onHost (setMask p.iface (BitVec.ofNat 8 m)))) s) s

/-! ### CTX_STATUS and OP_STATUS (R535) -/

/-- The lowest core of a context with a stopping fault. The cores hold the records of the context that is on them. -/
def faultedCore (i : Nat) (s : State) : Option Nat :=
  if s.onCores = some i then s.allCores.find? fun k => (s.core k).fault.valid else none

/-- `PARAMS` of CTX_STATUS. -/
def ctxStatus (i : Nat) (s : State) : Bytes :=
  let c := s.ctx i
  let k := faultedCore i s
  let word := match k with
    | some k => fault0 (s.core k).fault
    | none => 0
  leBytes 1 (ctxCode c.st) ++ leBytes 1 0 ++ leBytes 2 (k.getD 0xFFFF) ++ leBytes 4 (c.w / 2) ++ leBytes 4 c.fabN ++
    leBytes 8 word.toNat

def execCtxStatus (s : State) : Host.Outcome State Fault Refusal :=
  takeAny 0x0207 (fun p s =>
    gate p { allowed := inStates [.ready, .running, .rekeyResume, .safe, .retired] s, bad := badIf !(plainForm p []) }
      (fun s => reply p stOk (ctxStatus p.ctx s) [] true s) s) s

/-- The operation that a command names, running or among the 64 that ended last. -/
def namedOp (p : Pending) (s : State) : Option Op :=
  let id := BitVec.ofNat 32 (field p.hdr 12 4)
  match s.op id with
  | some o => some o
  | none => s.host.ended.find? fun o => o.id == id

/-- How far an operation is: a sweep by its chunks, an ended one as it ended; how far any other has come is a free value
(log entry 2). -/
def progressOf (o : Op) (s : State) : Nat × State :=
  if o.state ≠ 0 then (o.progress, s)
  else if opKind o = kRekey then (s.sec.rekeyJournal * 65536 / 1920, s)
  else
    let (w, s1) := s.drawFree
    (w.toNat % 65536, s1)

/-- `PARAMS` of OP_STATUS. -/
def opStatus (o : Op) (progress : Nat) : Bytes :=
  leBytes 1 (opKind o) ++ leBytes 1 o.state ++ leBytes 1 o.status.toNat ++ leBytes 1 0 ++ leBytes 4 progress

def execOpStatus (s : State) : Host.Outcome State Fault Refusal :=
  takeAny 0x0605 (fun p s =>
    gate p { bad := badIf (!(plainForm p [(12, 4)]) || (namedOp p s).isNone) }
      (fun s => match namedOp p s with
        | some o => let (n, s1) := progressOf o s; reply p stOk (opStatus o n) [] true s1
        | none => s) s) s

/-! ### EPOCH_SET and PORT_DISABLE (R319, R322, R393, R434) -/

def execEpochSet (s : State) : Host.Outcome State Fault Refusal :=
  takeAny 0x0704 (fun p s =>
    let e := BitVec.ofNat 32 (field p.hdr 12 4)
    gate p
      { allowed := inStates [.ready, .running] s && s.cur.isNone && !s.fab.quar
        bad := badIf (!(plainForm p [(12, 4)]) || e == 0 || !decide (s.fab.epoch < e)) }
      (fun s => replySt p stOk (s.onFab fun f => { f with epoch := e })) s) s

/-- A port is switched off; what it still had to send is gone. -/
def portOff (p : Nat) (s : State) : State :=
  setPort p .off (s.onPort p fun q => { q.relink with queue := [], transit := [] })

/-- A port trains; what waits for it goes on waiting (R308). -/
def portTrain (p : Nat) (s : State) : State := setPort p .training (s.onPort p Port.relink)

/-- Ports of a mask. -/
def maskPorts (m : Nat) : List Nat := (List.range 20).filter fun p => m.testBit p

def execPortDisable (s : State) : Host.Outcome State Fault Refusal :=
  takeAny 0x0703 (fun p s =>
    let m := field p.hdr 12 4
    gate p
      { allowed := inStates [.ready] s && s.cur.isNone, bad := badIf (!(plainForm p [(12, 4)]) || decide (2 ^ 20 ≤ m)) }
      (fun s => replySt p stOk ((maskPorts m).foldl (fun s q => portOff q s) s)) s) s

/-! ### MCTP control messages (R444) -/

/-- A response to an endpoint: it names the endpoint, the message type and the command code. PRESUMED (log entry 9): the
codes and layouts are those of DSP0236, which the manual names and does not repeat. -/
def mctpReply (src : Byte) (code : Nat) (payload : Bytes) (s : State) : State :=
  s.onHost fun h => { h with sent := h.sent ++ [⟨.mgmt, [src, 0#8, BitVec.ofNat 8 code], 0#8 :: payload, s.now, some src⟩] }

/-- The message is heard. -/
def whenAux (f : State → State) (s : State) : Host.Outcome State Fault Refusal := .next (if s.mgmt.aux then f s else s)

/-- SET_ENDPOINT_ID: events go to the endpoint that set the ID. -/
def execSetEndpointId (src eid : Byte) (s : State) : Host.Outcome State Fault Refusal :=
  whenAux (fun s => mctpReply src 1 [0#8, eid, 0#8] (s.onHost fun h => { h with eid := eid, eidBy := some src })) s

/-- GET_ENDPOINT_ID. -/
def execGetEndpointId (src : Byte) (s : State) : Host.Outcome State Fault Refusal :=
  whenAux (fun s => mctpReply src 2 [s.host.eid, 0#8, 0#8] s) s

/-- GET_MCTP_VERSION_SUPPORT: the version of the base protocol is a free value (log entry 2). -/
def execGetMctpVersionSupport (src : Byte) (s : State) : Host.Outcome State Fault Refusal :=
  whenAux (fun s => let (w, s1) := s.drawFree; mctpReply src 4 (1#8 :: leBytes 4 w.toNat) s1) s

/-- GET_MESSAGE_TYPE_SUPPORT: commands travel as type 0x7F. -/
def execGetMessageTypeSupport (src : Byte) (s : State) : Host.Outcome State Fault Refusal :=
  whenAux (fun s => mctpReply src 5 [1#8, 0x7F#8] s) s

/-- GET_VENDOR_DEFINED_MESSAGE_SUPPORT: the enterprise number of IDENTIFY; its last two bytes are a free value. -/
def execGetVendorDefinedMessageSupport (src : Byte) (s : State) : Host.Outcome State Fault Refusal :=
  whenAux (fun s =>
    let (w, s1) := s.drawFree
    mctpReply src 6 ([0xFF#8, 1#8] ++ (leBytes 4 Config.vendorIana).reverse ++ leBytes 2 w.toNat) s1) s

end Sys2Proof.Machine
end

