-- ==== Sys2Proof/Machine/Load.lean ====
section
/-! DEFINITION. The binary and its load: the container and its sections (R343–R345), the load checks in their order (R346, R347,
R354, R359, R361, R435, R436, R532, R533), and what a load writes (R72, R88, R165, R211, R218, R264, R277). -/

namespace Sys2Proof.Machine

/-! ### Fields and failures -/

/-- A failed check: status, check code, `INSTANCE`, `INDEX`, and the per-core detail of R354. -/
structure LoadErr where
  status : Nat
  check  : Nat
  inst   : Nat := 0xFFFFFFFF
  index  : Nat
  core   : Nat := 0
  code   : Nat := 0
  deriving DecidableEq, Repr

/-- `INSTANCE` of an item that belongs to no instance (R532). -/
def noInst : Nat := 0xFFFFFFFF

/-- Of several offending items, the one with the lowest `INSTANCE`, and of those the lowest `INDEX` (R532). -/
def firstItem (xs : List (Nat × Nat)) : Option (Nat × Nat) :=
  xs.foldl (fun a x => match a with
    | some y => if x.1 < y.1 || (x.1 == y.1 && decide (x.2 < y.2)) then some x else some y
    | none => some x) none

/-- A check over its offending items. -/
def checkItems (status check : Nat) (xs : List (Nat × Nat)) : Except LoadErr Unit :=
  match firstItem xs with
  | some (i, x) => .error { status := status, check := check, inst := i, index := x }
  | none => .ok ()

/-- The first byte of a range that is not 0. -/
def firstNonzero (d : Bytes) (lo hi : Nat) : List Nat :=
  (((d.drop lo).take (hi - lo)).findIdx? (· != 0)).toList.map (lo + ·)

/-- A section: its type, its instance, and its bytes. -/
structure Section where
  kind : Nat
  inst : Nat
  data : Bytes
  deriving DecidableEq, Repr

/-! ### The load block (R435, R436) -/

structure LoadBlock where
  binAddr  : Nat
  binLen   : Nat
  saveAddr : Nat
  saveLen  : Nat
  module   : Nat
  members  : List Nat
  deriving DecidableEq, Repr

/-- The bits of a byte string that are set, in rising order. -/
def maskBits (d : Bytes) : List Nat :=
  (List.range (8 * d.length)).filter fun i => ((d[i / 8]?).getD 0).getLsbD (i % 8)

def loadBlock (p : Bytes) : LoadBlock :=
  { binAddr := field p 0 8, binLen := field p 8 8, saveAddr := field p 16 8, saveLen := field p 24 8, module := field p 32 2
    members := maskBits ((p.drop 64).take 128) }

/-- The checks of the block, by the offset of the offending field. -/
def blockErrs (s : State) (b : LoadBlock) : List Nat :=
  (if b.binAddr % 512 ≠ 0 || dramEnd ≤ b.binAddr then [0] else []) ++
    (if dramEnd < b.binAddr + b.binLen then [8] else []) ++
    (if dramEnd ≤ b.saveAddr || (b.binAddr < b.saveAddr + b.saveLen && b.saveAddr < b.binAddr + b.binLen) then [16] else []) ++
    (if dramEnd < b.saveAddr + b.saveLen then [24] else []) ++ (if b.module ≠ s.moduleIndex then [32] else []) ++
    (if b.members.contains b.module then [] else [64])

/-! ### Check 0x01 FORMAT (R343–R345, R347) -/

/-- Offending header fields. -/
def headerErrs (len : Nat) (d : Bytes) : List Nat :=
  (if d.take 4 = ascii "LBIN" then [] else [0]) ++ (if field d 4 2 = 1 then [] else [4]) ++
    (if 2 ≤ field d 16 4 then [16] else []) ++ (if d.length < 64 + 16 * field d 20 4 then [20] else []) ++
    (if field d 24 8 = len then [] else [24]) ++ firstNonzero d 32 64

/-- Sections of types 3 to 7 occur once in a binary. -/
def onceOnly (kind : Nat) : Bool := decide (3 ≤ kind)

/-- What a directory names: the sections of its good entries, the sections of bad entries that can be read all the same, whose bytes are
checked too, and the offsets of the bad entries (R532). -/
structure Directory where
  good   : List Section := []
  others : List Section := []
  bad    : List Nat := []
  deriving DecidableEq, Repr

/-- One entry of a directory. -/
def Directory.add (d : Bytes) (acc : Directory) (i : Nat) : Directory :=
  let o := 64 + 16 * i
  let kind := field d o 2
  let inst := field d (o + 2) 2
  let len := field d (o + 4) 4
  let off := field d (o + 8) 8
  let x : Section := ⟨kind, inst, (d.drop off).take len⟩
  let dup := acc.good.any fun x => x.kind == kind && (onceOnly kind || x.inst == inst)
  if kind < 1 || 7 < kind || d.length < off + len then { acc with bad := acc.bad ++ [o] }
  else if off % 64 ≠ 0 || dup then { acc with others := acc.others ++ [x], bad := acc.bad ++ [o] }
  else { acc with good := acc.good ++ [x] }

/-- The directory of a binary. -/
def directory (d : Bytes) : Directory := (List.range (field d 20 4)).foldl (Directory.add d) {}

/-- A length other than the layout's. -/
def lengthErr (d : Bytes) (n : Nat) : List Nat := if d.length = n then [] else [min d.length n]

/-- Lines of a region given by base and limit (R72, R97). -/
def regionLines (base limit : Nat) : Nat := limit - base

/-- The first byte of an endpoint's register value that breaks its layout: reserved bits set, or `ENABLE` different from its
bit in the mask. `mask` holds the bits that may be set. -/
def endpointErr (d : Bytes) (o : Nat) (mask : Word) (used : Bool) : List Nat :=
  let v := BitVec.ofNat 64 (field d o 8)
  (firstNonzero (leBytes 8 (v &&& ~~~mask).toNat) 0 8).map (o + ·) ++ (if v.getLsbD 63 = used then [] else [o + 7])

/-- The bits of `CHAN.TXe.CFG` that a binary gives, and those of `CHAN.RXe.CFG` (R290, R345). -/
def txMask : Word := 0x800007FF07000000#64
def rxMask : Word := 0x800007FF07FFFFFF#64

/-- Bytes of a CORE_IMAGE that break its layout. -/
def coreErrs (d : Bytes) : List Nat :=
  if d.length < 384 then [d.length]
  else
    let lines := regionLines (field d 4 2) (field d 6 2) + regionLines (field d 8 2) (field d 10 2)
    let n := field d 14 1
    lengthErr d (384 + 64 * lines) ++ firstNonzero d 2 4 ++ (if 16 < n then [14] else []) ++ firstNonzero d 15 16 ++
      firstNonzero d 18 64 ++
      (List.range 16).flatMap (fun i => if bitAt (field d 12 2) i then [] else firstNonzero d (64 + 8 * i) (72 + 8 * i)) ++
      firstNonzero d (192 + 2 * min n 16) 224 ++
      (List.range 8).flatMap (fun e => endpointErr d (224 + 8 * e) txMask (bitAt (field d 16 1) e)) ++
      (List.range 8).flatMap (fun e => endpointErr d (288 + 8 * e) rxMask (bitAt (field d 17 1) e)) ++ firstNonzero d 352 384

/-- Bytes of a RINGS section that break its layout. -/
def ringsErrs (d : Bytes) : List Nat :=
  lengthErr d 1024 ++ (List.range 64).flatMap fun n => firstNonzero d (16 * n + 10) (16 * n + 16)

/-- The record count of a section with a 16-byte header. -/
def recCount (d : Bytes) : Nat := field d 0 4

/-- A section of a 16-byte header and records of `size` bytes, each checked from its offset on. -/
def tableErrs (d : Bytes) (size : Nat) (f : Nat → Nat → List Nat) : List Nat :=
  if d.length < 16 then [d.length]
  else
    let n := (d.length - 16) / size
    lengthErr d (16 + size * recCount d) ++ firstNonzero d 4 16 ++
      (List.range (min n (recCount d))).flatMap fun i => f i (16 + size * i)

/-- Bytes of an XLAT section that break its layout. -/
def xlatErrs (d : Bytes) : List Nat :=
  tableErrs d 16 fun i o =>
    firstNonzero d (o + 4) (o + 8) ++
      (if i != 0 && field d o 4 ≤ field d (o - 16) 4 then [o] else []) ++ (if 16 ≤ field d (o + 2) 1 then [o + 2] else []) ++
      (if field d (o + 3) 1 ≠ 0 then [o + 3] else []) ++
      (if bitAt (field d (o + 8) 8) 63 then [] else [o + 15])

/-- Bytes of a KNEAD_REACH section that break its layout. -/
def reachErrs (d : Bytes) : List Nat :=
  tableErrs d 144 fun _ o => (if 3 < field d (o + 2) 1 then [o + 2] else []) ++ firstNonzero d (o + 3) (o + 16)

/-- Bytes of a MAINT section that break its layout. -/
def maintErrs (d : Bytes) : List Nat :=
  tableErrs d 32 fun _ o => (if 1 < field d (o + 3) 1 then [o + 3] else []) ++ firstNonzero d (o + 24) (o + 32)

/-- Offsets of the tag entries of a PROFILE section, as far as they lie in it, and the offset after the last. -/
def profileEntries (d : Bytes) : Nat → Nat → List Nat → List Nat × Nat
  | 0, o, acc => (acc, o)
  | n + 1, o, acc =>
    if d.length < o + 440 then (acc, o + 440)
    else
      let next := o + 440 + 400 * field d (o + 2) 2
      if d.length < next then (acc ++ [o], next) else profileEntries d n next (acc ++ [o])

/-- The entries of a PROFILE section. A section can hold no more entries than its length allows. -/
def profileOf (d : Bytes) : List Nat × Nat := profileEntries d (min (recCount d) (d.length / 440 + 1)) 16 []

/-- Bytes of a PROFILE section that break its layout. -/
def profileErrs (d : Bytes) : List Nat :=
  if d.length < 16 then [d.length]
  else
    let (es, last) := profileOf d
    lengthErr d last ++ firstNonzero d 4 16 ++ es.flatMap fun o =>
      firstNonzero d (o + 4) (o + 8) ++ firstNonzero d (o + 12) (o + 16) ++
        (List.range (field d (o + 2) 2)).flatMap fun j =>
          let q := o + 440 + 400 * j
          firstNonzero d (q + 2) (q + 8) ++ firstNonzero d (q + 12) (q + 16)

/-- Bytes of a section that break its layout. -/
def sectionErrs (x : Section) : List Nat :=
  match x.kind with
  | 1 => coreErrs x.data
  | 2 => ringsErrs x.data
  | 3 => xlatErrs x.data
  | 4 => reachErrs x.data
  | 5 => maintErrs x.data
  | 6 => lengthErr x.data 392 ++ firstNonzero x.data 4 8
  | _ => profileErrs x.data

/-- The section types that directory entries name, well formed or not. -/
def namedTypes (d : Bytes) : List Nat := (List.range (field d 20 4)).map fun i => field d (64 + 16 * i) 2

/-- Every item of a binary that fails FORMAT: header fields, directory entries, missing types, and bytes of sections. A binary whose
directory does not fit in it has no directory to look at (R532). -/
def formatErrs (len : Nat) (d : Bytes) : List (Nat × Nat) :=
  let hs := (headerErrs len d).map fun i => (noInst, i)
  if d.length < 64 + 16 * field d 20 4 then hs
  else
    let dir := directory d
    let missing := (List.range' 1 7).filter fun t => !(namedTypes d).contains t
    hs ++ dir.bad.map (noInst, ·) ++ missing.map (noInst, ·) ++
      (dir.good ++ dir.others).flatMap fun x => (sectionErrs x).map fun i => (x.inst, i)

/-- The sections of a binary, or its first FORMAT failure. -/
def parseBinary (len : Nat) (d : Bytes) : Except LoadErr (List Section) :=
  (checkItems stBadPacket 0x01 (formatErrs len d)).map fun _ => (directory d).good

/-! ### Sections -/

/-- The section of a type and an instance. -/
def sect (xs : List Section) (kind inst : Nat) : Bytes :=
  match xs.find? fun x => x.kind == kind && x.inst == inst with
  | some x => x.data
  | none => []

/-- The only section of a type: its instance and its bytes. -/
def sole (xs : List Section) (kind : Nat) : Nat × Bytes :=
  match xs.find? fun x => x.kind == kind with
  | some x => (x.inst, x.data)
  | none => (0, [])

/-- The instances of a type. -/
def instances (xs : List Section) (kind : Nat) : List Nat := (xs.filter fun x => x.kind == kind).map (·.inst)

/-- A link of a CORE_IMAGE, an endpoint of it, and its streams. -/
def imgLink (d : Bytes) (n : Nat) : Word := BitVec.ofNat 64 (field d (64 + 8 * n) 8) &&& linkMask
def imgTx (d : Bytes) (e : Nat) : Word := BitVec.ofNat 64 (field d (224 + 8 * e) 8)
def imgRx (d : Bytes) (e : Nat) : Word := BitVec.ofNat 64 (field d (288 + 8 * e) 8)
def imgStreams (d : Bytes) : List Nat := (List.range (field d 14 1)).map fun j => field d (192 + 2 * j) 2

/-- A ring of a RINGS section (R230): descriptor and reader mask. -/
def imgRing (d : Bytes) (n : Nat) : Ring :=
  let v := field d (16 * n) 8
  { keep := bitAt v 63, mode := BitVec.ofNat 2 (bits v 48 2), size := bits v 16 15, base := bits v 0 15
    readers := BitVec.ofNat 16 (field d (16 * n + 8) 2) }

/-- The bits of a translation entry that R265 gives a meaning; the others read as 0 (R17). -/
def xlatMask : Word := 0xE003FF007F00FFFF#64

/-- The records of an XLAT section: virtual ID and entry. -/
def imgXlat (d : Bytes) : List (Nat × Word) :=
  (List.range (recCount d)).map fun i => (field d (16 + 16 * i) 4, BitVec.ofNat 64 (field d (24 + 16 * i) 8) &&& xlatMask)

/-! ### The size of a save (R533) -/

/-- Bytes of the save area that a binary needs. -/
def saveNeed (s : State) (isSealed : Bool) (xs : List Section) : Nat :=
  let lines := xs.foldl (fun a x =>
    if x.kind = 1 && s.allCores.contains x.inst then
      a + regionLines (field x.data 4 2) (field x.data 6 2) + regionLines (field x.data 8 2) (field x.data 10 2)
    else a) 0
  let rows := xs.foldl (fun a x =>
    if x.kind = 2 && s.enabled.contains x.inst then
      (List.range 64).foldl (fun a n =>
        let r := imgRing x.data n
        if r.mode = 0 then a else a + r.size) a
    else a) 0
  65536 + 16384 * s.allCores.length + 64 * lines + 8192 * s.enabled.length + 512 * rows + (if isSealed then 8192 else 0)

/-! ### Checks 0x02 to 0x21 (R347, R532) -/

/-- A TT-ID that the module's stepping lists (R10). -/
def ttListed (s : State) (tt : BitVec 16) : Bool :=
  tt != 0 && (tt == ttPrimary s.mgmt.stepping || tt == ttAlt s.mgmt.stepping)

/-- Check 0x04: the header, then the first core whose TT-ID differs (R354). -/
def ttCheck (s : State) (tt : Nat) (xs : List Section) : Except LoadErr Unit :=
  let differ := (xs.filter fun x => x.kind == 1 && field x.data 0 2 != tt).map fun x => (x.inst, 0)
  match firstItem differ with
  | some (k, _) => .error { status := stTable, check := 0x04, inst := k, index := 0, core := k, code := 0x0B }
  | none =>
    if ttListed s (BitVec.ofNat 16 tt) then .ok ()
    else
      .error { status := stTable, check := 0x04, index := 6, core := 0, code := 0x0B }

/-- Check 0x05: missing or unexpected instances. -/
def instanceErrs (s : State) (xs : List Section) : List (Nat × Nat) :=
  let diff := fun (want got : List Nat) => want.filter (!got.contains ·) ++ got.filter (!want.contains ·)
  (diff s.allCores (instances xs 1)).map (·, 1) ++ (diff s.enabled (instances xs 2)).map (·, 2)

/-- Check 0x10: the fields of regions that extend past the local store, and a data region that overlaps the code region. -/
def regionErrs (k : Nat) (d : Bytes) : List (Nat × Nat) :=
  let cb := field d 4 2
  let cl := field d 6 2
  let db := field d 8 2
  let dl := field d 10 2
  ([(cb, 4095, 4), (cl, 4096, 6), (db, 4095, 8), (dl, 4096, 10)].filterMap fun e => if e.2.1 < e.1 then some (k, e.2.2) else none) ++
    (if cb < cl && db < dl && cb < dl && db < cl then [(k, 8)] else [])

/-- Check 0x11: links that break R51 or R98, or whose `ENABLE` is not that of the mask. -/
def linkErrs (k : Nat) (d : Bytes) : List (Nat × Nat) :=
  (List.range 16).filterMap fun n =>
    let w := imgLink d n
    let overlaps := linkEnabled w && (List.range n).any fun i => linkEnabled (imgLink d i) && linkOverlap w (imgLink d i)
    if linkCfgOk w && linkEnabled w == bitAt (field d 12 2) n && !overlaps then none else some (k, 64 + 8 * n)

/-- Check 0x12: rings that break R211 or R218. `prev` gives the rings of the previous job of the context. -/
def ringErrs (c : Nat) (prev : Nat → Ring) (d : Bytes) : List (Nat × Nat) :=
  (List.range 64).filterMap fun n =>
    let r := imgRing d n
    let overlaps := (List.range n).any fun i =>
      let q := imgRing d i
      q.mode != 0 && decide (q.base < r.base + r.size) && decide (r.base < q.base + q.size)
    let p := prev n
    let keepOk := !r.keep || (r.mode == 2 && p.mode == 2 && p.base == r.base && p.size == r.size)
    let ok := r.mode == 0 || (r.size != 0 && decide (r.base + r.size ≤ clRows) && !(r.mode == 1 && r.readers == 0) && !overlaps)
    if ok && keepOk then none else some (c, 16 * n)

/-- The size of each pool (R267). -/
def poolSize : Nat → Nat
  | 0 => 4096 | 1 => 65536 | 2 => 1024 | _ => 256

/-- The physical cell of an entry: scope, module, cluster and number. -/
def physCell (own : Nat) (e : Word) : Nat × Nat × Nat × Nat :=
  match xlScope e with
  | 0 => (0, own, xlCluster e, xlCell e)
  | 1 => (1, own, 0, xlCell e)
  | 2 => (2, own / 8 * 8 + xlHome e % 8, 0, xlCell e)
  | _ => (3, xlHome e, 0, xlCell e)

/-- An entry is one that R266 refuses by itself. -/
def entryBad (s : State) (b : LoadBlock) (e : Word) : Bool :=
  let p := physCell b.module e
  decide (poolSize p.1 ≤ xlCell e) || (p.1 == 0 && !s.enabled.contains (xlCluster e)) ||
    (p.1 != 0 && s.disRouters.contains (rtX (xlCell e % 96), rtY (xlCell e % 96))) ||
    (decide (2 ≤ p.1) && !b.members.contains p.2.1)

/-- Check 0x13. -/
def xlatCheckErrs (s : State) (b : LoadBlock) (inst : Nat) (d : Bytes) : List (Nat × Nat) :=
  ((imgXlat d).foldl (fun (acc : List (Nat × Nat × Nat × Nat) × Nat × List (Nat × Nat)) r =>
    let p := physCell b.module r.2
    let bad := entryBad s b r.2 || acc.1.contains p
    (p :: acc.1, acc.2.1 + 1, if bad then acc.2.2 ++ [(inst, 16 + 16 * acc.2.1)] else acc.2.2)) ([], 0, [])).2.2

/-- The used endpoints of all cores: core, endpoint, register value. -/
def usedEps (xs : List Section) (f : Bytes → Nat → Word) : List (Nat × Nat × Word) :=
  (xs.filter (·.kind == 1)).flatMap fun x =>
    (List.range 8).filterMap fun e => if chEnable (f x.data e) then some (x.inst, e, f x.data e) else none

/-- Check 0x14 (R277). -/
def channelErrs (s : State) (xs : List Section) : List (Nat × Nat) :=
  let txs := usedEps xs imgTx
  let rxs := usedEps xs imgRx
  let names := fun (a b : Nat × Nat × Word) => chPeer a.2.2 == b.1 && chPeerEp a.2.2 == b.2.1
  (rxs.filterMap fun r =>
    let d := sect xs 1 r.1
    let senders := txs.filter fun t => names t r
    let base := chBase r.2.2
    let size := chSize r.2.2
    let overlaps := rxs.any fun q =>
      q.1 == r.1 && decide (q.2.1 < r.2.1) && decide (chBase q.2.2 < base + size) && decide (base < chBase q.2.2 + chSize q.2.2)
    if senders.length == 1 && size != 0 && decide (field d 8 2 ≤ base) && decide (base + size ≤ field d 10 2) && !overlaps then
      none
    else some (r.1, 288 + 8 * r.2.1)) ++
  (txs.filterMap fun t =>
    let bound := rxs.filter fun r => names r t
    let matching := rxs.any fun r => names t r && names r t
    if decide (chPeer t.2.2 < s.allCores.length) && matching && decide (bound.length ≤ 1) then none
    else some (t.1, 224 + 8 * t.2.1))

/-- Check 0x15: the later of two slots with one stream ID. -/
def streamErrs (k : Nat) (d : Bytes) : List (Nat × Nat) :=
  let ids := imgStreams d
  (List.range ids.length).filterMap fun j =>
    if (ids.take j).contains ((ids[j]?).getD 0) then some (k, 192 + 2 * j) else none

/-- Check 0x16: a record whose modules do not all lie in the scope of its Proof (R59). -/
def reachCheckErrs (b : LoadBlock) (inst : Nat) (d : Bytes) : List (Nat × Nat) :=
  (List.range (recCount d)).filterMap fun i =>
    let o := 16 + 144 * i
    let mods := maskBits ((d.drop (o + 16)).take 128)
    let ok := fun (m : Nat) => match field d (o + 2) 1 with
      | 0 | 1 => m == b.module
      | 2 => b.members.contains m && m / 8 == b.module / 8
      | _ => b.members.contains m
    if mods.all ok then none else some (inst, o)

/-- The slot of a MAINT record. -/
def imgSlot (d : Bytes) (o : Nat) : MaintSlot :=
  { mask := BitVec.ofNat 24 (field d o 3), knead := field d (o + 3) 1 == 1, period := field d (o + 4) 4
    residue := field d (o + 8) 4, start := field d (o + 12) 4, length := field d (o + 16) 4, declared := field d (o + 20) 4 }

/-- Check 0x17. -/
def maintCheckErrs (inst : Nat) (d : Bytes) : List (Nat × Nat) :=
  (if 16 < recCount d then [(inst, 0)] else []) ++ (List.range (recCount d)).filterMap fun i =>
    let x := imgSlot d (16 + 32 * i)
    if x.period != 0 && decide (x.residue < x.period) && decide (x.start + x.length ≤ x.declared) then none
    else some (inst, 16 + 32 * i)

/-- The metered tokens of the module (R356). -/
def meteredTokens : Nat := 160896

/-- The budgets of a BUDGET section. -/
def imgShared (d : Bytes) : Nat := field d 0 4
def imgBudget (d : Bytes) (c : Nat) : Nat := field d (8 + 4 * c) 4

/-- Check 0x20 (R359). -/
def budgetErrs (s : State) (d : Bytes) : List (Nat × Nat) :=
  ((List.range nIslands).filterMap fun c =>
    if (imgBudget d c != 0) == s.enabled.contains c then none else some (c, 8 + 4 * c)) ++
  (if meteredTokens < (List.range nIslands).foldl (fun a c => a + imgBudget d c) (imgShared d) then [(noInst, 0)] else [])

/-- The figures at an offset of a PROFILE section that exceed 256 times their budgets. -/
def figureErrs (bud d : Bytes) (o : Nat) : List (Nat × Nat) :=
  (if 256 * imgShared bud < field d (o + 8) 4 then [(noInst, o + 8)] else []) ++
    (List.range nIslands).filterMap fun c =>
      if 256 * imgBudget bud c < field d (o + 16 + 4 * c) 4 then some (c, o + 16 + 4 * c) else none

/-- The Proof tags of the binary: those of its KNEAD_REACH records, one per Proof tag (R344, R361). -/
def imgTags (reach : Bytes) : List Nat := (List.range (recCount reach)).map fun i => field reach (16 + 144 * i) 2

/-- Check 0x21 (R361). -/
def profileCheckErrs (reach bud d : Bytes) : List (Nat × Nat) :=
  let es := (profileOf d).1
  let tags := es.map fun o => field d o 2
  ((imgTags reach).filterMap fun t => if tags.contains t then none else some (noInst, t)) ++ es.flatMap fun o =>
    figureErrs bud d o ++ (List.range (field d (o + 2) 2)).flatMap fun j => figureErrs bud d (o + 440 + 400 * j)

/-- The rings of the previous job of a context (R218). -/
def prevRing (s : State) (i c n : Nat) : Ring :=
  if s.onCores = some i && (s.ctx i).st ≠ .switched then (s.cluster c).ring n
  else
    match (s.ctx i).save with
    | some img => (mget img.clusters c {}).ring n
    | none => {}

/-- The checks in ascending check code, after FORMAT and the save size (R346, R347). -/
def checkBinary (s : State) (i : Nat) (b : LoadBlock) (hdr : Bytes) (xs : List Section) : Except LoadErr Unit := do
  let cores := xs.filter (·.kind == 1)
  let (xi, xd) := sole xs 3
  let (ri, rd) := sole xs 4
  let (mi, md) := sole xs 5
  let bud := (sole xs 6).2
  if bitAt (field hdr 16 4) 0 && !s.optionS then
    throw { status := stNotConf, check := 0x02, index := 16 }
  if BitVec.ofNat 64 (field hdr 8 8) ≠ s.shape then
    throw { status := stShape, check := 0x03, index := 8 }
  ttCheck s (field hdr 6 2) xs
  checkItems stBadPacket 0x05 (instanceErrs s xs)
  checkItems stBadParam 0x10 (cores.flatMap fun x => regionErrs x.inst x.data)
  checkItems stBadParam 0x11 (cores.flatMap fun x => linkErrs x.inst x.data)
  checkItems stBadParam 0x12 ((xs.filter (·.kind == 2)).flatMap fun x => ringErrs x.inst (prevRing s i x.inst) x.data)
  checkItems stBadParam 0x13 (xlatCheckErrs s b xi xd)
  checkItems stBadParam 0x14 (channelErrs s xs)
  checkItems stBadParam 0x15 (cores.flatMap fun x => streamErrs x.inst x.data)
  checkItems stBadParam 0x16 (reachCheckErrs b ri rd)
  checkItems stBadParam 0x17 (maintCheckErrs mi md)
  checkItems stBadParam 0x20 (budgetErrs s bud)
  checkItems stBadParam 0x21 (profileCheckErrs rd bud (sole xs 7).2)

/-! ### What a load writes (R72, R88, R218, R264) -/

/-- A core of the image: the sequencer at the base of its code, the regions, links, streams without keys, and endpoints;
`RSIZE` comes from the receiver. -/
def imageCore (xs : List Section) (k : Nat) : Core :=
  let d := sect xs 1 k
  let cb := field d 4 2
  let cl := field d 6 2
  let db := field d 8 2
  let dl := field d 10 2
  let code := (d.drop 384).take (64 * regionLines cb cl)
  let data := (d.drop (384 + 64 * regionLines cb cl)).take (64 * regionLines db dl)
  let ids := imgStreams d
  { seq := { pc := BitVec.ofNat 18 (64 * cb) }
    ls := memWrite (memWrite [] (64 * cb) code) (64 * db) data
    codeBase := cb, codeLimit := cl, dataBase := db, dataLimit := dl
    links := (List.range 16).filterMap fun n =>
      let w := imgLink d n
      if linkEnabled w then some (n, Link.reset { cfg := w }) else none
    lv := { slots := ids.mapIdx fun j id => (j, { valid := true, id := BitVec.ofNat 16 id }) }
    tx := (List.range 8).filterMap fun e =>
      let w := imgTx d e
      if chEnable w then
        let r := imgRx (sect xs 1 (chPeer w)) (chPeerEp w)
        some (e, { cfg := w ||| BitVec.ofNat 64 (chSize r) })
      else none
    rx := (List.range 8).filterMap fun e =>
      let w := imgRx d e
      if chEnable w then some (e, { cfg := w }) else none }

/-- A cluster of the image; a kept ring keeps its heads (R218). -/
def imageCluster (s : State) (i : Nat) (xs : List Section) (c : Nat) : Cluster :=
  let d := sect xs 2 c
  { rings := (List.range 64).filterMap fun n =>
      let r := imgRing d n
      if r.mode = 0 && r.readers = 0 && !r.keep && r.size = 0 && r.base = 0 then none
      else if r.keep then
        let p := prevRing s i c n
        some (n, { r with tail := p.tail, heads := p.heads })
      else some (n, r) }

/-- The rows that kept rings keep, of the cores' memories or of the context's previous save. -/
def keptRows (s : State) (i : Nat) (xs : List Section) : List Host.Cell :=
  let cells := if s.onCores = some i && (s.ctx i).st ≠ .switched then s.mem
    else
      match (s.ctx i).save with
      | some img => img.rows
      | none => []
  cells.filter fun e =>
    match windowOf e.1 with
    | some (c, o) =>
      let d := sect xs 2 c
      (List.range 64).any fun n =>
        let r := imgRing d n
        r.keep && r.mode != 0 && decide (r.base ≤ o / 512) && decide (o / 512 < r.base + r.size)
    | none => false

/-- The image of a fresh load. -/
def imageOf (s : State) (i : Nat) (xs : List Section) : SaveImage :=
  { cores := s.allCores.map fun k => (k, imageCore xs k)
    clusters := s.enabled.map fun c => (c, imageCluster s i xs c)
    rows := keptRows s i xs }

/-- What stays known of the binary. -/
def binInfo (b : LoadBlock) (bin hdr : Bytes) (xs : List Section) : BinInfo :=
  let md := (sole xs 5).2
  let bud := (sole xs 6).2
  { ttId := BitVec.ofNat 16 (field hdr 6 2), shape := BitVec.ofNat 64 (field hdr 8 8), saveAddr := b.saveAddr
    saveLen := b.saveLen, module := b.module, members := b.members
    maint := (List.range (recCount md)).map fun i => imgSlot md (16 + 32 * i)
    shared := imgShared bud, budgets := (List.range nIslands).map fun c => (c, imgBudget bud c)
    proofTags := imgTags (sole xs 4).2, digest := shake256 bin 64 }

/-- Extend a measurement register with the 64-byte SHAKE256 of the data (R454). -/
def extendMr (m : Nat) (digest : Bytes) (s : State) : State :=
  s.onSec fun x => { x with mr := mset x.mr m (shake256 (padTo 64 (mget x.mr m []) ++ digest) 64) }

/-- Clear a measurement register. -/
def clearMr (m : Nat) (s : State) : State := s.onSec fun x => { x with mr := mdel x.mr m }

/-- No context but `i` runs or is held (R88). -/
def coresFree (s : State) (i : Nat) : Bool := (List.range 4).all fun j => j == i || !(s.ctx j).st.active

/-- Write the loaded context: a key it still held is gone (R491); its measurement, its translation table, and its state, on the cores
or in its save area (R88). -/
def loadWrite (i : Nat) (b : LoadBlock) (bin : Bytes) (xs : List Section) (s : State) : State :=
  let info := binInfo b bin bin xs
  let img := imageOf s i xs
  let s1 := changeKeys i SecCtx.noKey (extendMr (4 + i) info.digest (clearMr (4 + i) s))
  let s2 := s1.onSync fun y => { y with xlat := mset y.xlat i (imgXlat (sole xs 3).2) }
  let s3 := s2.onCtx i fun c =>
    { abortAt := c.abortAt, abortEnd := c.abortEnd, abortOp := c.abortOp, bin := info, save := some img
      sec := { sealed := bitAt (field bin 16 4) 0, session := c.sec.session } }
  setCtxSt i .loaded (if coresFree s i then install i img (displace i s3) else keepImage i img s3)

/-- The binary in DRAM that a load block names. -/
def binBytes (s : State) (b : LoadBlock) : Bytes := memBytes s.mem b.binAddr b.binLen

/-- The result of a load: the save size in KiB, and the sections or the first failure (R346, R436). -/
def loadResult (s : State) (i : Nat) (b : LoadBlock) : Nat × Except LoadErr (List Section) :=
  match blockErrs s b with
  | x :: xs => (0, .error { status := stBadParam, check := 0, index := xs.foldl min x })
  | [] =>
    let bin := binBytes s b
    match parseBinary b.binLen bin with
    | .error e => (0, .error e)
    | .ok xs =>
      let need := saveNeed s (bitAt (field bin 16 4) 0) xs
      let kib := (need + 1023) / 1024
      if b.saveLen < need then (kib, .error { status := stBadParam, check := 0, index := 24 })
      else
        match checkBinary s i b bin xs with
        | .error e => (kib, .error e)
        | .ok _ => (kib, .ok xs)

/-- `PARAMS` of the completion of a load (R436), from header byte 12 on. -/
def loadParams (kib : Nat) (e : Option LoadErr) : Bytes :=
  match e with
  | some e =>
    leBytes 1 e.check ++ leBytes 3 0 ++ leBytes 4 e.inst ++ leBytes 4 e.index ++ leBytes 2 e.core ++ leBytes 1 e.code ++
      leBytes 1 0 ++ leBytes 4 kib
  | none => leBytes 16 0 ++ leBytes 4 kib

/-- The load of an operation is done: a refused load changes no state (R346). -/
def loadDone (o : Op) (s : State) : State :=
  let i := o.ctx.toNat
  let b := loadBlock o.data
  match loadResult s i b with
  | (kib, .error e) => complete o.id e.status (loadParams kib (some e)) [] s
  | (kib, .ok xs) => complete o.id stOk (loadParams kib none) [] (loadWrite i b (binBytes s b) xs s)

/-! ### Keys (R165) -/

/-- The key of a stream ID under a seed. -/
def streamKey (seed : BitVec 128) (id : BitVec 16) : Word × Word :=
  let d := shake256 (ascii "LVN1" ++ leBytes 16 seed.toNat ++ leBytes 2 id.toNat) 16
  (BitVec.ofNat 64 (field d 0 8), BitVec.ofNat 64 (field d 8 8))

/-- The draw base that a stream table gives (R389, R390). -/
def tableBase (t : SMap Word) (id : BitVec 16) : Word := mget t id.toNat 0

/-- The keys and draw bases of a launched context, on the cores or in its image. -/
def deriveCore (seed : BitVec 128) (t : SMap Word) (c : Core) : Core :=
  { c with lv := { c.lv with slots := c.lv.slots.map fun e =>
      if e.2.valid then
        let (k0, k1) := streamKey seed e.2.id
        (e.1, { e.2 with k0 := k0, k1 := k1, base := tableBase t e.2.id })
      else e } }

end Sys2Proof.Machine
end

