-- ==== Sys2Proof/Machine/Job.lean ====
section
/-! DEFINITION. Jobs on the host's command: loads, launches, aborts, switches, restores, frees, Starter captures, and the end
of a context (R86–R88, R383–R391, R433–R439, R460, R467, R471, R472, R510). -/

namespace Sys2Proof.Machine

/-! ### CTX_LOAD (R88, R435, R472) -/

/-- The `FLAGS` of the header of a binary carry `SEALED`. -/
def binSealed (s : State) (addr : Nat) : Bool := bitAt (memNat s.mem (addr + 16) 4) 0

/-- The states in which a context may be loaded. -/
def loadable (st : CtxState) : Bool := st == .empty || st == .done || st == .aborted

def execCtxLoad (s : State) : Host.Outcome State Fault Refusal :=
  takeAny 0x0201 (fun p s =>
    gate p
      { allowed := inStates [.ready, .running] s && loadable (s.ctx p.ctx).st
        denied := s.sec.locked && !binSealed s (loadBlock p.body).binAddr
        bad := badIf (!(unusedZero p []) || hLen p.hdr != 192) }
      (fun s => let (id, s1) := accept p kindOther s; s1.onOp id fun o => { o with data := p.body.take 192 }) s) s

/-! ### The launch block (R390, R437, R460) -/

/-- The 64 bytes of a launch block. -/
def launchBlock (d : Bytes) : Launch :=
  { seed := BitVec.ofNat 128 (field d 0 16), holdLimit := BitVec.ofNat 16 (field d 16 2), flags := BitVec.ofNat 16 (field d 18 2)
    traceBase := field d 24 8, traceSize := field d 32 8, snapBase := field d 40 8, snapSlots := field d 48 4
    streams := field d 52 4, tableAddr := field d 56 8 }

/-- `SEALED`, `DEBUG` and planned trace of a launch, its observation mode and its share. -/
def lnSealed (l : Launch) : Bool := l.flags.getLsbD 2
def lnDebug (l : Launch) : Bool := l.flags.getLsbD 1
def lnTrace (l : Launch) : Bool := l.flags.getLsbD 5
def lnMode (l : Launch) : Nat := bits l.flags.toNat 3 2
def lnShare (l : Launch) : Nat := bits l.flags.toNat 6 4

/-- A range of DRAM that holds no byte or lies in DRAM. -/
def inDram (a n : Nat) : Bool := n == 0 || decide (a + n ≤ dramEnd)

/-- Two ranges, each base and length, share a byte. -/
def overlaps (a n b m : Nat) : Bool := decide (a < b + m) && decide (b < a + n)

/-- The sealed ranges of every resident context. -/
def allRanges (s : State) : List (Nat × Nat) := (List.range 4).flatMap fun i => (s.ctx i).sec.ranges

/-- A range touches a sealed range of some context. -/
def hitsSealed (s : State) (a n : Nat) : Bool := (allRanges s).any fun r => overlaps a n r.1 r.2

/-- The lifecycle and the module allow the launch of a job on context `i` with this block (R395, R450, R460). -/
def launchAllowed (i : Nat) (l : Launch) (s : State) : Bool :=
  let c := s.ctx i
  s.sec.life != 0 && (decide (c.bin.members.length ≤ 1) || (s.fab.epoch != 0 && !s.fab.quar)) &&
    (!lnSealed l || (s.sec.life == 2 && c.sec.list.isSome && c.sec.session.isSome))

/-- Sealed mode denies the launch (R460, R467, R472, R510). -/
def launchDenied (i : Nat) (enc : Bool) (l : Launch) (s : State) : Bool :=
  (lnSealed l && (lnDebug l || !enc)) || ((s.ctx i).sec.sealed && !enc) || (s.sec.locked && !lnSealed l)

/-- The launch block breaks a rule of R437 or R460. -/
def launchBad (i : Nat) (l : Launch) (s : State) : Bool :=
  let c := s.ctx i
  lnSealed l != c.sec.sealed || lnMode l == 3 || (lnMode l == 1 && decide (64 < c.bin.members.length)) ||
    (lnTrace l && lnShare l == 0) || !inDram l.traceBase l.traceSize || !inDram l.snapBase (512 * l.snapSlots) ||
    (l.streams != 0 && !inDram l.tableAddr (64 + 16 * l.streams)) ||
    (lnSealed l && (hitsSealed s l.traceBase l.traceSize || hitsSealed s l.snapBase (512 * l.snapSlots)))

/-- The Starter table that a launch names, and the stream IDs declared on any core. -/
def starterTable (l : Launch) (s : State) : Bytes := memBytes s.mem l.tableAddr (64 + 16 * l.streams)

/-- Stream ID and draw base of each entry of the table. -/
def tableBases (l : Launch) (s : State) : SMap Word :=
  let d := starterTable l s
  (List.range l.streams).foldl (fun m j =>
    mset m (field d (64 + 16 * j) 2) (BitVec.ofNat 64 (field d (66 + 16 * j) 8))) []

/-- The cores of a context: those that carry it, or those of its image. -/
def ctxCores (i : Nat) (s : State) : SMap Core :=
  if s.onCores = some i && (s.ctx i).st ≠ .switched then s.cores
  else
    match (s.ctx i).save with
    | some img => img.cores
    | none => []

/-- The stream IDs declared on any core of a context. -/
def declared (i : Nat) (s : State) : List Nat :=
  (ctxCores i s).flatMap fun e => e.2.lv.slots.filterMap fun x => if x.2.valid then some x.2.id.toNat else none

/-- The digest of a seed (R388). -/
def seedDigest (seed : BitVec 128) : Bytes := shake256 (ascii "LSED" ++ leBytes 16 seed.toNat) 8

/-- What the Starter table answers: VERIFY_FAIL, BAD_PARAM, or nothing (R390, R438). -/
def tableStatus (i : Nat) (l : Launch) (s : State) : Option Nat :=
  if l.streams = 0 then none
  else
    let d := starterTable l s
    if (d.drop 16).take 8 ≠ seedDigest l.seed then some stVerify
    else if d.take 4 ≠ ascii "LSTR" || field d 4 2 ≠ 1 || field d 24 4 ≠ l.streams then some stBadParam
    else if (declared i s).any fun id => (mfind (tableBases l s) id).isNone then some stBadParam
    else none

/-- The keys and draw bases of a launch go to the context's stream slots (R165, R390, R438). -/
def deriveKeys (i : Nat) (l : Launch) (s : State) : State :=
  let t := if l.streams = 0 then [] else tableBases l s
  let derive := fun (cs : SMap Core) => cs.map fun e => (e.1, deriveCore l.seed t e.2)
  let s1 := s.onCtx i fun c => { c with save := c.save.map fun img => { img with cores := derive img.cores } }
  if s.onCores = some i then { s1 with cores := derive s1.cores } else s1

/-! ### JOB_LAUNCH (R437, R438) -/

def execJobLaunch (s : State) : Host.Outcome State Fault Refusal :=
  takeAny 0x0202 (fun p s =>
    let i := p.ctx
    let l := launchBlock p.body
    gate p
      { optS := lnSealed l
        allowed := inStates [.ready] s && (s.ctx i).st == .loaded && s.cur.isNone && launchAllowed i l s
        denied := launchDenied i p.enc l s
        bad := badIf (!(unusedZero p []) || hLen p.hdr != 64 || launchBad i l s) }
      (fun s =>
        match tableStatus i l s with
        | some st => replySt p st s
        | none =>
          let (id, s1) := accept p kindOther s
          startCtx i id ((deriveKeys i l s1).onCtx i fun c => { c with launch := l })) s) s

/-! ### The end of a job -/

/-- Every core is in DONE, and every transfer is complete (R383). -/
def doneCondition (s : State) : Bool :=
  !s.allCores.isEmpty && s.allCores.all (fun k => (s.core k).seq.st == .done && (s.core k).dma.all (·.done)) && s.xfers.isEmpty &&
    s.allCores.all fun k => stationsIdle s k allStations (s.coreTick k)

/-- The trace commands that still wait are answered, and the trace of the job ends (R415, R470). -/
def endTrace (status : Nat) (s : State) : State :=
  let s1 := s.obs.pendTrace.foldl (fun s r => replySt r.cmd status s) s
  let s2 := match s1.cur with
    | some i => s1.onCtx i fun c => { c with utrace := none }
    | none => s1
  traceKeyOff (s2.onObs fun o => { o with pendTrace := [], trace := 0 })

/-- A context is done. A switch that waits for its Proof takes place here (R439). -/
def contextDone (i : Nat) (s : State) : State :=
  let sw := (s.ctx i).switchAt
  let s1 := endTrace stRefused (traceFlush s)
  let s2 := setCtxSt i .done (s1.onCtx i fun c => { c with switchAt := none })
  match sw with
  | some (target, _, op) => startCtx target op s2
  | none => s2

/-- CONTEXT_DONE: the context meets the condition of R383. -/
def execContextDone (ctx : BitVec 2) (s : State) : Host.Outcome State Fault Refusal :=
  .next (if (s.ctx ctx.toNat).st = .running && doneCondition s then contextDone ctx.toNat s else s)

/-! ### Aborts (R274, R384, R385) -/

/-- A core that waits on a sync cell records SYNC_ORPHAN, before the abort reports its outcome (R82, R274). -/
def orphan (k : Nat) (s : State) : State :=
  let rec' := fun (vid : BitVec 20) (s : State) =>
    let c := s.core k
    let detail := packWord [(vid.toNat, 0)]
    if c.fault.valid then
      s.setCore k { c with fault := { c.fault with more := satAdd 127 c.fault.more 1 } }
    else
      let f : FaultRec :=
        { valid := true, code := 0x08, pcWord := BitVec.ofNat 16 (c.seq.pc.toNat / 4), phase := BitVec.ofNat 32 (s.phase k)
          superstep := BitVec.ofNat 32 s.superstep, detail := detail }
      crumb
        { severity := 3, source := 2, code := 0x0202, ctx := s.cur, site := siteBits s k
          detail := leBytes 8 0x08 ++ leBytes 8 detail.toNat } (s.setCore k { c with fault := f })
  match (s.core k).seq.wait with
  | .sync _ _ vid (.travelling _) => rec' vid s
  | .sync _ _ vid .queued => rec' vid s
  | _ => s

/-- Nothing of the job is left under way: transfers, packets, landed rows, signals, messages, waits at cells, Proofs, and the
causes its islands raised (R385). -/
def dropJob (s : State) : State :=
  let s1 : State := { s with
    cores := s.cores.map fun e => (e.1, { (stopCore .idle e.2) with dma := [] })
    clusters := s.clusters.map fun e =>
      (e.1, { e.2 with
        pend := [], resv := [], bankQ := e.2.bankQ.filter s.hostAcc, krecvs := []
        cells := e.2.cells.map fun x => (x.1, { x.2 with queue := [] }) })
    xfers := [], proof := { phaseStart := s.now } }
  let s2 := (s1.keepPkts fun p => p.bulk.isSome || p.kind == .writeRow && p.dstEnd == .stack).onSync fun y =>
    { y with
      sigs := [], msgs := [], mcells := y.mcells.map fun x => (x.1, { x.2 with queue := [] })
      tcells := y.tcells.map fun x => (x.1, { x.2 with queue := [] }), fcells := y.fcells.map fun x => (x.1, { x.2 with queue := [] }) }
  let s3 := s2.onFab fun f => { f with landed := [] }
  clearCause (fun r => match r.who with
    | .island _ => true
    | .core _ => true
    | _ => r.cause == causeDebug) s3

/-- Every core of the running context stops; one that waits on a cell records SYNC_ORPHAN. -/
def stopJob (s : State) : State :=
  let s1 := endTrace stAborted (traceFlush s)
  dropJob (s1.allCores.foldl (fun s k => orphan k s) s1)

/-- An abort takes effect. A context that does not run has nothing on the cores to stop. -/
def doAbort (i : Nat) (s : State) : State :=
  setCtxSt i .aborted (if (s.ctx i).st.active then stopJob s else s)

/-- A switch to context `i` that waits for its Proof ends with a status (R433). -/
def dropSwitchTo (i status : Nat) (s : State) : State :=
  (List.range 4).foldl (fun s j =>
    match (s.ctx j).switchAt with
    | some (t, _, op) =>
      if t = i then complete op status [] [] (s.onCtx j fun c => { c with switchAt := none }) else s
    | none => s) s

/-- The one reply of an abort, with its own ID in bytes 12 to 15 (R384); monitor 59 counts from its arrival. -/
def abortReply (i status : Nat) (s : State) : State :=
  let id := (s.ctx i).abortOp
  let s1 := match s.op id with
    | some o => monSample 59 (s.now - o.args.headD s.now) s
    | none => s
  complete id status (leBytes 4 id.toNat) [] (s1.onCtx i fun c => { c with abortAt := none, abortEnd := none, abortOp := 0 })

/-- A refused abort: its operation ends with the reply. -/
def abortRefused (p : Pending) (enc : Bool) (status : Nat) (shown id : BitVec 32) (s : State) : State :=
  endOp id 1 status (replyAs enc p status (leBytes 4 shown.toNat) [] true s)

/-- JOB_ABORT at take-up. -/
def jobAbort (p : Pending) (s : State) : State :=
  let i := p.ctx
  let (id, s0) := enterOp p kindOther s
  let s1 := s0.onOp id fun o => { o with args := [p.atT] }
  let c := s.ctx i
  let abortable := c.abortAt.isSome || c.st.active || c.st == .switched
  if !s.optionS && p.enc then abortRefused p false stNotConf id id s1
  else if !(inStates [.ready, .running] s && abortable) || (p.enc && c.sec.session.isNone) then
    abortRefused p false stRefused id id s1
  else if p.plain.isNone then abortRefused p false stVerify id id (endSession i s1)
  else if !(plainForm p []) then abortRefused p p.enc stBadParam id id s1
  else if c.abortAt.isSome then abortRefused p p.enc stBusy c.abortOp id s1
  else if c.st = .running then s1.onCtx i fun c => { c with abortAt := some (s.now + 64), abortOp := id }
  else doAbort i (dropSwitchTo i stAborted (s1.onCtx i fun c => { c with abortAt := some s.now, abortOp := id }))

def execJobAbort (s : State) : Host.Outcome State Fault Refusal := takeAny 0x0203 jobAbort s

/-- ABORT_POINT: the context completed at or before t_a, whatever became of it since, or the abort takes effect (R384). -/
def abortPoint (i : Nat) (s : State) : State :=
  let c := s.ctx i
  match c.abortAt with
  | some t =>
    if s.now < t then s
    else
      match c.abortEnd with
      | some true => abortReply i stDoneFirst s
      | some false => s
      | none =>
        if c.st = .running && doneCondition s then abortReply i stDoneFirst (contextDone i s)
        else doAbort i (dropSwitchTo i stAborted s)
  | none => s

def execAbortPoint (ctx : BitVec 2) (s : State) : Host.Outcome State Fault Refusal := .next (abortPoint ctx.toNat s)

/-- No transfer of the context that the cores carry remains, nor a row of one on its way to a stack (R385). -/
def transfersOver (s : State) : Bool :=
  s.xfers.isEmpty && s.pkts.all fun p => p.kind != .writeRow || p.bulk.isSome || p.dstEnd != .stack

/-- ABORT_REPLY: no transfer of the context remains. -/
def execAbortReply (ctx : BitVec 2) (s : State) : Host.Outcome State Fault Refusal :=
  .next (
    let c := s.ctx ctx.toNat
    if c.abortEnd = some false && c.abortAt.isSome && (transfersOver s || s.onCores != some ctx.toNat) then
      abortReply ctx.toNat stAborted s
    else s)

/-! ### CTX_SWITCH (R439) -/

/-- The running context lets a switch wait for its Proof: it is not FAULTED, no other switch waits, and its count has not
passed N. -/
def switchAllowed (n : Nat) (s : State) : Bool :=
  match s.cur with
  | some j =>
    let c := s.ctx j
    c.st != .faulted && c.switchAt.isNone && (n == 0 || decide (c.fabN < n))
  | none => true

/-- The running job has one module. -/
def soleJob (s : State) : Bool := decide (s.curCtx.bin.members.length ≤ 1)

def execCtxSwitch (s : State) : Host.Outcome State Fault Refusal :=
  takeAny 0x0204 (fun p s =>
    let i := p.ctx
    let n := field p.hdr 12 4
    let c := s.ctx i
    let fresh := c.st == .loaded
    let l := if fresh then launchBlock p.body else c.launch
    gate p
      { optS := fresh && lnSealed l
        allowed := inStates [.ready, .running] s && (fresh || c.st == .switched) && switchAllowed n s &&
          (!fresh || launchAllowed i l s)
        denied := fresh && launchDenied i p.enc l s
        bad := badIf (!(unusedZero p [(12, 4)]) || hLen p.hdr != (if fresh then 64 else 0) || (fresh && launchBad i l s) ||
          (s.cur.isSome && n == 0 && !soleJob s)) }
      (fun s =>
        match (if fresh then tableStatus i l s else none) with
        | some st => replySt p st s
        | none =>
          let (id, s1) := accept p kindOther s
          let s2 := if fresh then (deriveKeys i l s1).onCtx i fun c => { c with launch := l } else s1
          match s.cur with
          | some j => s2.onCtx j fun c => { c with switchAt := some (i, n, id) }
          | none => startCtx i id s2) s) s

/-! ### CTX_RESTORE (R87, R391, R471) -/

def execCtxRestore (s : State) : Host.Outcome State Fault Refusal :=
  takeAny 0x0205 (fun p s =>
    let a := field p.hdr 12 8
    let st := (s.ctx p.ctx).st
    gate p
      { allowed := inStates [.ready, .running] s && (st == .empty || st == .aborted)
        bad := badIf (!(plainForm p [(12, 8)]) || a % 512 ≠ 0 || !decide (a < dramEnd)) }
      (fun s => let (id, s1) := accept p kindOther s; s1.onOp id fun o => { o with args := [a] }) s) s

/-- The restore of an operation is done. An address that holds no image of this module's shape is refused as another shape
would be. -/
def restoreDone (o : Op) (s : State) : State :=
  let i := o.ctx.toNat
  match mfind s.images (o.args.headD 0) with
  | none => complete o.id stShape [] [] s
  | some x =>
    if !((s.ctx i).st == .empty || (s.ctx i).st == .aborted) then complete o.id stRefused [] [] s
    else if x.bin.shape ≠ s.shape then complete o.id stShape [] [] s
    else if !ttListed s x.bin.ttId then complete o.id stTable [] [] s
    else if x.isSealed && (x.keyId = 0 || x.keyId ≠ (s.ctx i).sec.keyId) then complete o.id stDenied [] [] s
    else
      let s1 := s.onCtx i fun c =>
        { c with
          bin := x.bin, launch := x.launch, launched := true, w := x.img.w, fabN := x.img.fab, save := some x.img
          firstFault := none, sec := { c.sec with sealed := x.isSealed } }
      let s2 := s1.onSync fun y => { y with xlat := mset y.xlat i x.xlat }
      complete o.id stOk [] [] (setCtxSt i .switched s2)

/-! ### CTX_FREE (R465, R468, R471) -/

/-- Every cluster-memory row, local store, link slot and register of the cores is zeroised. -/
def zeroCores (s : State) : State :=
  { s with
    cores := [], mem := s.mem.filter fun c => decide (c.1 < windowBase)
    clusters := s.clusters.map fun e => (e.1, { e.2 with rings := [], cells := [], pend := [], resv := [], krecvs := [] })
    onCores := none }

/-- A sealed context loses its key, its list, its session and its trace key; in residency its rows and stores too. -/
def freeSealed (i : Nat) (s : State) : State :=
  let s1 := changeKeys i SecCtx.noKey s
  let s2 := if s.sec.resident = some i then (zeroCores s1).onSec fun x => { x with resident := none } else s1
  s2.onCtx i fun c => { c with sec := {}, save := none }

/-- A context becomes EMPTY. -/
def freeCtx (i : Nat) (s : State) : State :=
  let s1 := clearMr (4 + i) (dropSwitchTo i stRefused s)
  let s2 := setCtxSt i .empty s1
  let s3 := if (s.ctx i).sec.sealed then freeSealed i s2 else s2
  s3.onCtx i fun c =>
    { c with
      bin := {}, launch := {}, launched := false, w := 0, fabN := 0, firstFault := none, launchOp := none, traced := []
      sec := { c.sec with session := none, sealed := false, list := none, releases := [], traceKey := none } }

/-- CTX_FREE: a protected one is answered under the session that it ends (R465, R466). -/
def execCtxFree (s : State) : Host.Outcome State Fault Refusal :=
  takeAny 0x0206 (fun p s =>
    let st := (s.ctx p.ctx).st
    gate p
      { allowed := inStates [.ready, .running] s && (st == .loaded || st == .switched || st == .done || st == .aborted)
        bad := badIf !(plainForm p []) }
      (fun s =>
        let s1 := (freeCtx p.ctx s).onCtx p.ctx fun c => { c with sec := { c.sec with session := (s.ctx p.ctx).sec.session } }
        endSession p.ctx (replySt p stOk s1)) s) s

/-! ### Starter captures (R387, R388) -/

def execStarterArm (s : State) : Host.Outcome State Fault Refusal :=
  takeAny 0x0208 (fun p s =>
    let c := s.ctx p.ctx
    let n := field p.hdr 12 4
    gate p
      { allowed := inStates [.ready, .running] s && (c.st == .loaded || c.st == .running || c.st == .switched) && c.arm.isNone &&
          decide (c.fabN < n)
        bad := badIf !(plainForm p [(12, 4), (16, 2)]), busy := conflict kStarter s }
      (fun s =>
        let (id, s1) := accept p kStarter s
        let a : Arm := { n := n, tag := BitVec.ofNat 16 (field p.hdr 16 2), op := id, cmdTag := hTag p.hdr, iface := p.iface }
        s1.onCtx p.ctx fun c => { c with arm := some a }) s) s

/-- The stream IDs of the cores, each once, in ascending order. -/
def streamIds (s : State) : List Nat :=
  ((s.allCores.flatMap fun k => (s.core k).lv.slots.filterMap fun e => if e.2.valid then some e.2.id.toNat else none).foldl
    (fun (m : SMap Unit) id => mset m id ()) []).map (·.1)

/-- The draw bases that the cores hold for a stream ID, the lowest core's first. -/
def streamBases (s : State) (id : Nat) : List Word :=
  s.allCores.filterMap fun k =>
    ((s.core k).lv.slots.find? fun e => e.2.valid && e.2.id.toNat == id).map (·.2.base)

/-- An entry of the summary. -/
def streamEntry (s : State) (id : Nat) : Bytes :=
  let bs := streamBases s id
  let first := bs.headD 0
  leBytes 2 id ++ leBytes 1 (bnat (bs.any (· != first))) ++ leBytes 5 0 ++ leBytes 8 first.toNat

/-- The capture summary. -/
def summary (i : Nat) (s : State) : Bytes :=
  let c := s.ctx i
  let (n, tag, orW, andW) := c.capture.getD (0, 0, 0, 0)
  let ids := streamIds s
  leBytes 4 n ++ leBytes 2 tag.toNat ++ leBytes 2 0 ++ leBytes 4 orW.toNat ++ leBytes 4 andW.toNat ++
    leBytes 4 s.fab.epoch.toNat ++ leBytes 4 ids.length ++ seedDigest c.launch.seed ++ ids.flatMap (streamEntry s)

def execStarterSummary (s : State) : Host.Outcome State Fault Refusal :=
  takeAny 0x0209 (fun p s =>
    let c := s.ctx p.ctx
    gate p
      { allowed := inStates [.ready, .running] s && c.st == .held, denied := c.sec.sealed && !p.enc, bad := badIf !(plainForm p []) }
      (fun s => reply p stOk [] (summary p.ctx s) true s) s) s

/-- The cores go on at phase tick 0, or the switch takes place that was due at the same release (R388, R439). -/
def starterRelease (i : Nat) (s : State) : State :=
  let s1 := match (s.ctx i).arm with
    | some a => endOp a.op 1 stOk s
    | none => s
  let s2 := setCtxSt i .running (s1.onCtx i fun c => { c with arm := none, capture := none })
  match (s2.ctx i).switchAt with
  | some (target, n, op) =>
    if n = 0 || n = (s2.ctx i).fabN then switchNow i target op s2 else s2.allCores.foldl (fun s k => beginPhase k s) s2
  | none => s2.allCores.foldl (fun s k => beginPhase k s) s2

def execStarterRelease (s : State) : Host.Outcome State Fault Refusal :=
  takeAny 0x020A (fun p s =>
    gate p
      { allowed := inStates [.ready, .running] s && (s.ctx p.ctx).st == .held, bad := badIf !(plainForm p []) }
      (fun s => replySt p stOk (starterRelease p.ctx s)) s) s

end Sys2Proof.Machine
end

