-- ==== Sys2Proof/Machine/Bulk.lean ====
section
/-! DEFINITION. Bulk transfers of the host, and TRACE_CTL (R415, R433, R440, R467, R468, R530, R534). A bulk
transfer sends its rows from the host router over the mesh, and is answered when every row is done. -/

namespace Sys2Proof.Machine

/-! ### Ranges (R204, R252, R440) -/

/-- The first address of `n` rows from `a` on that a bulk transfer may not name. -/
def bulkBad (s : State) (a n : Nat) : Option Nat :=
  if n = 0 || !s.rowOk a then some a
  else if isDram a then if a + 512 * n ≤ dramEnd then none else some dramEnd
  else
    match windowOf a with
    | some (c, o) => if o / 512 + n ≤ clRows then none else some (rowAddr c clRows)
    | none => some a

/-- The ranges cover every address from `a` to `stop`, given as many steps as there are ranges, and one more. -/
def covers (rs : List (Nat × Nat)) : Nat → Nat → Nat → Bool
  | 0, _, _ => false
  | n + 1, a, stop =>
    if stop ≤ a then true
    else
      match rs.find? fun r => decide (r.1 ≤ a) && decide (a < r.1 + r.2) with
      | some r => covers rs n (r.1 + r.2) stop
      | none => false

/-- Every one of `n` bytes from `a` on lies in these ranges. -/
def within (rs : List (Nat × Nat)) (a n : Nat) : Bool := covers rs (rs.length + 2) a (a + n)

/-- What a BULK_READ of a Sealed context may read: its release entries, its trace region, its snapshot ring. -/
def readable (i : Nat) (s : State) : List (Nat × Nat) :=
  let c := s.ctx i
  c.sec.releases.map (fun r => (r.2.1, r.2.2)) ++
    [(c.launch.traceBase, c.launch.traceSize), (c.launch.snapBase, 512 * c.launch.snapSlots)] ++ c.traced

/-- A range touches a cluster window while sealed residency belongs to another context (R467, R468). -/
def windowDenied (i a n : Nat) (s : State) : Bool :=
  s.sec.resident.isSome && s.sec.resident != some i && decide (a < windowBase + 96 * 0x1000000) && decide (windowBase < a + 512 * n)

/-- Sealed mode denies a bulk transfer (R467). -/
def bulkDenied (write : Bool) (p : Pending) (a n : Nat) (s : State) : Bool :=
  let i := p.ctx
  windowDenied i a n s ||
  if (s.ctx i).sec.sealed then
    !p.enc ||
      (if write then !((windowOf a).isSome || within (s.ctx i).sec.ranges a (512 * n)) else !within (readable i s) a (512 * n))
  else hitsSealed s a (512 * n)

/-- A REKEY that runs holds back every bulk command (R467). -/
def rekeyOp (s : State) : Option (BitVec 32) := (s.host.ops.find? fun o => opKind o == kRekey).map (·.id)

/-- `ADDR` of a bulk command. -/
def bulkAddr (p : Pending) : Nat := field p.hdr 12 8

/-- The checks of a bulk command of `n` rows; `form` says that its other parameters keep to R534. -/
def bulkGate (write form : Bool) (p : Pending) (n : Nat) (s : State) : Gate :=
  { allowed := inStates [.ready, .running] s, denied := bulkDenied write p (bulkAddr p) n s
    bad := if form then badAddr (bulkBad s (bulkAddr p) n) else badAddr (some (bulkAddr p))
    busy := rekeyOp s }

/-! ### Rows on the mesh (R440, R530) -/

/-- A bulk transfer begins: its rows leave from the next tick on. -/
def bulkStart (op : Option (BitVec 32)) (write : Bool) (p : Pending) (n : Nat) (data : Bytes) (s : State) : State :=
  let (id, s1) := s.fresh
  s1.onHost fun h =>
    { h with jobs := h.jobs ++ [{ id := id, cmd := p, op := op, write := write, addr := bulkAddr p, n := n, data := data }] }

/-- Row `k` of a transfer, as the packet that leaves the host router with it or with the request for it: it takes the way of a packet
of cluster 0, whichever router the host link has (R233, R236, R530). -/
def bulkPkt (s : State) (j : BulkJob) (k : Nat) : Pkt :=
  let a := j.addr + 512 * k
  { id := 0, src := s.hostRouter, dst := s.targetRouter 0 a, srcEnd := .host, dstEnd := memEnd a
    kind := if j.write then .writeRow else .readReq, plane := planeOf 0 k, vc := 0, core := none, row := k, addr := a
    data := if !j.write then [] else if j.op.isSome then padTo 512 j.data else padTo 512 (j.data.drop (512 * k)), bulk := some j.id }

/-- The next row of the oldest transfer that has one leaves, a row every 16 ticks: the link's 52.7 GB/s are 512 B in 15.5 ticks (R425,
R440, log entry 98). -/
def bulkSend (s : State) : State :=
  match s.host.jobs.find? fun j => decide (j.gone < j.n) with
  | some j =>
    if s.now < j.next then s
    else
      (s.sendPkt (bulkPkt s j j.gone)).onHost fun h =>
        { h with jobs := h.jobs.map fun x =>
            { x with next := s.now + 16, gone := if x.id = j.id then x.gone + 1 else x.gone } }
  | none => s

/-- What comes back to the host link: a row that has been read, or the acknowledgement of one that has been written. -/
def bulkBack (s : State) : State :=
  (s.pkts.filter fun p => p.bulk.isSome && p.dstEnd == .host && s.delivered p).foldl (fun s p =>
    bulkGot (p.bulk.getD 0) p.row p.data (s.dropPkt p.id)) s

/-- A transfer whose rows are all done is answered: BULK_READ with its rows in ascending address (R440). A BULK_FILL is complete as an
operation (R432). -/
def bulkDone (s : State) : State :=
  (s.host.jobs.filter fun j => decide (j.n ≤ j.got.length) && j.op.isNone).foldl (fun s j =>
    reply j.cmd stOk [] (if j.write then [] else j.got.flatMap (·.2)) true
      (s.onHost fun h => { h with jobs := h.jobs.filter fun x => x.id != j.id })) s

/-- One tick of the host's bulk transfers. -/
def bulkTick (s : State) : State := bulkSend (bulkDone (bulkBack s))

/-! ### BULK_WRITE, BULK_READ, BULK_FILL -/

def execBulkWrite (s : State) : Host.Outcome State Fault Refusal :=
  takeAny 0x0301 (fun p s =>
    let n := hLen p.hdr / 512
    let form := unusedZero p [(12, 8)] && hLen p.hdr % 512 == 0 && n != 0
    gate p (bulkGate true form p n s) (bulkStart none true p n (p.body.take (512 * n))) s) s

/-- BULK_READ. The outcome of each row's check comes when its stack or its bank reads it, not with the command. -/
def execBulkRead (ecc : List Ecc) (s : State) : Host.Outcome State Fault Refusal :=
  let _ := ecc
  takeAny 0x0302 (fun p s =>
    let n := field p.hdr 20 4
    let form := plainForm p [(12, 8), (20, 4)] && decide (1 ≤ n) && decide (n ≤ 2048)
    gate p (bulkGate false form p n s) (bulkStart none false p n []) s) s

def execBulkFill (s : State) : Host.Outcome State Fault Refusal :=
  takeAny 0x0303 (fun p s =>
    let n := field p.hdr 20 4
    let form := plainForm p [(12, 8), (20, 4), (24, 8)] && decide (1 ≤ n)
    gate p (bulkGate true form p n s)
      (fun s =>
        let (id, s1) := accept p kindOther s
        bulkStart (some id) true p n ((List.replicate 64 ((p.hdr.drop 24).take 8)).flatten) s1) s) s

/-- The rows of a BULK_FILL that have not left stay as they are; each that has left is written whole (R433). -/
def fillStop (id : BitVec 32) (s : State) : State :=
  s.onHost fun h => { h with jobs := h.jobs.filter fun j => j.op != some id }

/-- A BULK_FILL is complete once every row is. -/
def fillDone (o : Op) (s : State) : State :=
  if s.host.jobs.any fun j => j.op == some o.id && decide (j.got.length < j.n) then s
  else complete o.id stOk [] [] (fillStop o.id s)

/-! ### TRACE_CTL (R415, R467) -/

def execTraceCtl (s : State) : Host.Outcome State Fault Refusal :=
  takeAny 0x0401 (fun p s =>
    let b := field p.hdr 12 1
    let on := bitAt b 0
    let base := field p.hdr 16 8
    let size := field p.hdr 24 8
    let region := inDram base size && !(s.sealedJob && hitsSealed s base size)
    gate p
      { allowed := inStates [.running] s && s.obs.trace != 1
        denied := (s.sealedJob || (s.ctx p.ctx).sec.sealed) && !p.enc
        bad := badIf (!(plainForm p [(12, 1), (16, 8), (24, 8)]) || decide (4 ≤ b) || base % 512 != 0 || (on && !region)) }
      (fun s =>
        let r : TraceReq := { on := on, compat := bitAt b 1, base := base, size := size, cmd := p }
        s.onObs fun o => { o with pendTrace := o.pendTrace ++ [r] }) s) s

end Sys2Proof.Machine
end

