-- ==== Sys2Proof/Machine/Safe.lean ====
section
/-! DEFINITION. The main domain's power, SAFE, trips, and resets (R382, R395, R398–R401, R478–R480, R488–R493). -/

namespace Sys2Proof.Machine

/-! ### The main domain (R382, R401, R478, R493) -/

/-- A context loses its keys with the contents of DRAM. -/
def SecCtx.loseKey (x : SecCtx) : SecCtx := { x.noKey with traceKey := none }

/-- Every Lattice port is off. -/
def portsOff (s : State) : State := { (List.range 20).foldl (fun s p => setPort p .off s) s with ports := [] }

/-- What the main domain holds is gone: cores, clusters, mesh, stacks, cells, transfers, Holds, and the saved contexts. -/
def loseMain (s : State) : State :=
  let s1 := portsOff s
  { s1 with
    cores := [], clusters := [], mem := [], pkts := [], xfers := [], routers := [], drams := [], sync := {}, proof := {}
    hold := {}, meter := {}, fab := { ftime := s1.fab.ftime }, images := [], onCores := none
    obs := { evSeq := s1.obs.evSeq }
    ctxs := s1.ctxs.map fun e => (e.1, { e.2 with save := none, switchAt := none, sec := e.2.sec.loseKey }) }

/-- The main domain is powered down. -/
def powerDown (s : State) : State := (loseMain s).onMgmt fun g => { g with main := false, pwrGood := false }

/-! ### SAFE (R382) -/

/-- The cores of a context that stays FAULTED keep FAULTED; the others stop, without a fault record (R382). -/
def stopOthers (s : State) : State :=
  let faulted := s.allCores.filter fun k => (s.core k).seq.st == .faulted
  faulted.foldl (fun s k => s.onSeq k fun q => { q with st := .faulted }) (dropJob (endTrace stAborted (traceFlush s)))

/-- The host's bulk transfers end with the stacks' service, ABORTED (DESIGN CHOICE, log entry 12); a BULK_FILL ends as an operation. -/
def endJobs (s : State) : State :=
  let s1 := (s.host.jobs.filter fun j => j.op.isNone).foldl (fun s j => replySt j.cmd stAborted s) s
  let s2 : State := { s1 with
    clusters := s1.clusters.map fun e => (e.1, { e.2 with bankQ := e.2.bankQ.filter fun a => !s.hostAcc a })
    host := { s1.host with jobs := [] } }
  s2.keepPkts fun p => p.bulk.isNone

/-- The module enters SAFE: cores stop, a context that is RUNNING or HELD becomes ABORTED, the ports send only IDLE blocks
and the stacks refresh themselves. -/
def enterSafe (cause : BitVec 8) (s : State) : State :=
  let run := s.cur
  let faulted : Bool := match run with
    | some i => (s.ctx i).st == .faulted
    | none => false
  let s1 := if run.isNone then s else if faulted then stopOthers s else stopJob s
  let s2 := (setMod .safe s1).onMgmt fun g => { g with safeCause := cause }
  let s3 := match run with
    | some i => if faulted then s2 else setCtxSt i .aborted s2
    | none => s2
  let s4 := endJobs s3
  { s4 with
    ports := s4.ports.map fun e => (e.1, { e.2 with queue := [], transit := [], part := none })
    drams := s4.drams.map fun e => (e.1, { e.2 with selfRef := true }) }

/-- A FATAL record of the management controller (R500, R502). -/
def fatal (code : Nat) (detail : Bytes) (s : State) : State :=
  crumb { severity := 4, source := 0, code := code, detail := detail } s

/-- A trip: the record, the power-down, SAFE (R488). What it commits survives (R498). -/
def trip (cause : Nat) (reading : Nat) (s : State) : State :=
  let s1 := fatal 0x0107 (leBytes 1 cause ++ leBytes 3 0 ++ leBytes 4 reading) s
  let s2 := s1.onMgmt fun g => { g with trip := BitVec.ofNat 8 cause }
  crumbCommit (powerDown (enterSafe 3 s2))

/-! ### The rekey sweep (R399, R400, R473) -/

/-- The chunks of a sweep. -/
def rekeyChunks : Nat := 1920

/-- A key ID: a free value that is neither 0, which means no key, nor the one before it (R462, R473). -/
def newKeyId (old : Word) (s : State) : Word × State :=
  let (w, s1) := s.drawFree
  let v := if w = 0 then 1 else w
  (if v ≠ old then v else if v = 1 then 2 else 1, s1)

/-- A sweep ends: the old keys are zeroised, and each key ID changes (R473). -/
def dropOldKeys (s : State) : State :=
  (List.range 4).foldl (fun s i =>
    if (s.ctx i).sec.keyId = 0 then s
    else
      let (id, s1) := newKeyId (s.ctx i).sec.keyId s
      s1.onCtx i fun c => { c with sec := { c.sec with keyId := id, oldKey := [] } }) s

/-- The last chunk is journaled: the old keys are gone, and the module that resumed the sweep is READY. -/
def rekeyDone (s : State) : State :=
  let op := rekeyOp s
  let s1 := dropOldKeys (s.onSec fun x => { x with rekeyOpen := false, rekeyJournal := 0, rekeyRow := 0 })
  let s2 := if s.mgmt.st = .rekeyResume then
      setMod .ready (crumb { severity := 1, source := 1, code := 0x0507 } s1)
    else s1
  match op with
  | some id => complete id stOk [] [] s2
  | none => s2

/-- The sweep rewrites rows (R399, R400). -/
def sweeping (s : State) : Bool := s.sec.rekeyOpen && inStates [.ready, .running, .rekeyResume] s

/-- A chunk is journaled, and the next one begins (R399). -/
def chunkDone (s : State) : State :=
  if s.sec.rekeyJournal + 1 < rekeyChunks then s.onSec fun x => { x with rekeyJournal := x.rekeyJournal + 1, rekeyRow := 0 }
  else rekeyDone s

/-! ### What every reset does (R395, R418, R454, R465, R489) -/

/-- Operations end without a completion reply; what their status then reads as is a free value (log entry 2). An open sweep
does not end with a WARM reset. -/
def endOps (keepRekey : Bool) (s : State) : State :=
  s.host.ops.foldl (fun s o =>
    if keepRekey && opKind o = kRekey then s
    else let (w, s1) := s.drawFree; endOp o.id 2 (w.toNat % 15) s1) s

/-- The command queues and masks begin anew; the links stay up, and events already due still leave. -/
def HostSt.restart (h : HostSt) : HostSt :=
  { link := h.link, lanes := h.lanes, acked := h.acked, out := h.out, frames := h.frames, again := h.again, line := h.line, txSeq := h.txSeq
    rxSeq := h.rxSeq, waitFor := h.waitFor, nakDue := h.nakDue, ackAge := h.ackAge, fillAge := h.fillAge, downAt := h.downAt
    resume := h.resume, retries := h.retries, retryOf := h.retryOf, evR := h.evR, evM := h.evM, sent := h.sent, ops := h.ops,
      ended := h.ended, opSeq := h.opSeq
    eid := h.eid, eidBy := h.eidBy, arrN := h.arrN
    tags := h.ops.map fun o => (o.iface, o.tag) }

/-- The RESET record, committed before the reset takes effect, and what every kind does. -/
def resetCommon (keepRekey : Bool) (last : BitVec 4) (s : State) : State :=
  let s1 := crumb { severity := 1, source := 0, code := 0x0102, detail := leBytes 1 last.toNat }
    (s.onMgmt fun g => { g with lastReset := last })
  let s2 := (endOps keepRekey (portsOff (crumbCommit s1))).onHost HostSt.restart
  let s3 : State :=
    { s2 with
      crumb := { s2.crumb with cursor := 0 }
      mon := {}, fab := { ftime := s2.fab.ftime }, hold := {}, meter := {}, proof := {}, xfers := [], pkts := []
      obs := { evSeq := s2.obs.evSeq } }
  let s4 := s3.onSec fun x => { x with mr := [], selftest := false, resident := none, deniedEng := 0, deniedHost := 0 }
  s4.onMgmt fun g =>
    { g with
      safeCause := 0, active := 0, episodes := 0, record := none, inUse := 0, aStatus := 0, bStatus := 0, applyPend := none
      resume4 := false, fwBuf := [], trims := bootCrossings }

/-! ### WARM (R399, R491) -/

/-- The RESIDENT rings of a context, with their rows, that a WARM reset keeps for a `KEEP` ring of its next job. -/
def residentImage (img : SaveImage) : SaveImage :=
  let cl := img.clusters.map fun e => (e.1, ({ rings := e.2.rings.filter fun r => r.2.mode == 2 } : Cluster))
  { clusters := cl
    rows := img.rows.filter fun c =>
      match windowOf c.1 with
      | some (k, o) => (mget cl k {}).rings.any fun r => decide (r.2.base ≤ o / 512) && decide (o / 512 < r.2.base + r.2.size)
      | none => false }

/-- What a WARM reset leaves of a context: under sealed residency no ring, otherwise its RESIDENT rings; and the key of one that held
a key (R491). -/
def warmCtx (sealedRes : Bool) (i : Nat) (s : State) : Ctx :=
  let c := s.ctx i
  let img := if s.onCores = some i && c.st ≠ .switched then some (saveImage i s) else c.save
  { save := if sealedRes then none else img.map residentImage
    sec := if c.sec.keyId = 0 then {}
      else { keyId := c.sec.keyId, key := c.sec.key, oldKey := c.sec.oldKey, ranges := c.sec.ranges } }

/-- A stack through self-refresh: it keeps its contents and its passes. -/
def Stack.warm (t : Stack) : Stack := { powered := t.powered, trained := t.trained, selfRef := true, passes := t.passes, pos := t.pos }

/-- The row that a sweep is rewriting is finished, and the watermark moves past it; the last row of a chunk ends the chunk (R399). -/
def finishRow (s : State) : State :=
  if !sweeping s then s
  else if s.sec.rekeyRow < 2097151 then s.onSec fun x => { x with rekeyRow := x.rekeyRow + 1 }
  else chunkDone s

/-- A WARM reset: the row of an open sweep is finished, and under sealed residency the cluster memories and the cores are zeroised
first. The watermark is kept (R399, R491). -/
def resetWarm (last : BitVec 4) (s' : State) : State :=
  let s := finishRow s'
  let s1 := resetCommon s.sec.rekeyOpen last (if s.sec.resident.isSome then zeroCores s else s)
  let s3 : State :=
    { s1 with
      ctxs := (List.range 4).map fun i => (i, warmCtx s.sec.resident.isSome i s1), onCores := none, cores := [], sync := {}, routers := []
      clusters := [], drams := s1.drams.map fun e => (e.1, e.2.warm) }
  setMod .selfCheck (s3.onMgmt fun g => { g with warm := (s.stack 0).powered })

/-! ### COLD and SHUTDOWN -/

/-- Every context is EMPTY, with no key. -/
def resetCold (last : BitVec 4) (s : State) : State :=
  let s1 : State := { powerDown (resetCommon false last s) with ctxs := [] }
  s1.onMgmt fun g => { g with warm := false, coolantAck := false }

/-- An entry into POWERING samples SLOT_ID, whose level is the outside's: a free value (log entries 2 and 122); and it waits for
COOLANT_OK again (R480, R522). -/
def enterPowering (count : Bool) (s : State) : State :=
  let (w, s1) := s.drawFree
  setMod .powering (s1.onMgmt fun g =>
    { g with
      slotId := w.setWidth 3, slotUsed := w.setWidth 3, coolantAck := false
      cycles := if count then (g.cycles + 1) % 2 ^ 28 else g.cycles })

/-- A reset of a kind: 0 WARM, 1 COLD, 2 SHUTDOWN. A WARM one is performed as COLD when DRAM is not powered (R490). -/
def doReset (kind : Nat) (last : BitVec 4) (s : State) : State :=
  if kind = 0 && (s.stack 0).powered then resetWarm last s
  else if kind ≤ 1 then enterPowering true (resetCold last s)
  else setMod .off (resetCold last s)

/-! ### The RESET command and RESET_N (R434, R490) -/

/-- `KIND`. -/
def resetKind (p : Pending) : Nat := field p.hdr 12 1

/-- RESET: OK leaves before the reset takes effect. -/
def resetCmd (p : Pending) (s : State) : State :=
  let k := resetKind p
  gate p { bad := badIf (!(plainForm p [(12, 1)]) || decide (2 < k)) }
    (fun s => (doReset k (BitVec.ofNat 4 (2 + k)) (replySt p stOk s)).onMgmt fun g => { g with resetAt := some s.now }) s

/-- A RESET whose `KIND` is neither 1 nor 2; one above 2 is refused here. -/
def execResetWarm (s : State) : Host.Outcome State Fault Refusal :=
  takeUp 0x0105 (fun p => resetKind p != 1 && resetKind p != 2) resetCmd s

def execResetCold (s : State) : Host.Outcome State Fault Refusal := takeUp 0x0105 (fun p => resetKind p == 1) resetCmd s

def execResetShutdown (s : State) : Host.Outcome State Fault Refusal := takeUp 0x0105 (fun p => resetKind p == 2) resetCmd s

/-- The module resets for RESET_N. With a RESET of the same tick there is one reset: that of a RESET which has taken effect, or of a
COLD or SHUTDOWN that can be taken up now; otherwise WARM (R492; log entry 121). -/
def resetPin (s : State) : Host.Outcome State Fault Refusal :=
  if s.mgmt.resetAt = some s.now then .next s
  else
    match takeUp 0x0105 (fun p => resetKind p == 1 || resetKind p == 2) resetCmd s with
    | .next t => .next (if t.mgmt.resetAt = some s.now then t else doReset 0 1 s)
    | o => o

/-- RESET_N is released after a low time that the module recognises (R490, R521). -/
def execResetNRelease (s : State) : Host.Outcome State Fault Refusal :=
  if s.mgmt.aux then resetPin (s.onMgmt fun g => { g with resetN := true }) else .next s

end Sys2Proof.Machine
end

