-- ==== Sys2Proof/Machine/Security.lean ====
section
/-! DEFINITION. Attestation, sessions, release lists, the lifecycle, the Sealed-only lock, the rekey sweep, and the tamper
response (R399, R400, R447–R476). -/

namespace Sys2Proof.Machine

/-! ### The Tally store (R452, R453, R457) -/

/-- Numbers of the counters in a record: their order in R452 (DESIGN CHOICE, log entry 11). -/
def cntLife : Nat := 0
def cntLock : Nat := 1
def cntGrade : Nat := 2
def cntConfig : Nat := 3
def cntLeaf : Nat := 4

/-- A commit writes a NOTICE record with the counter and its new value. -/
def tallyCommit (counter value : Nat) (f : Tally → Tally) (s : State) : State :=
  crumb { severity := 1, source := 1, code := 0x0501, detail := leBytes 1 counter ++ leBytes 3 0 ++ leBytes 4 value }
    (s.onSec fun x => { x with tally := f x.tally })

/-- The number of XMSS leaves. -/
def leafLimit : Nat := 1048576

/-- A commit whose change is still to come (R453). -/
def commitFirst (counter value : Nat) (f : Tally → Tally) (s : State) : State :=
  tallyCommit counter value (fun t => { f t with intents := t.intents ++ [counter] }) s

/-- The change of a counter has been made. -/
def changeMade (counter : Nat) (s : State) : State :=
  s.onSec fun x => { x with tally := { x.tally with intents := x.tally.intents.filter (· != counter) } }

/-- The leaf of the next signature, committed as used and pending before it signs; none is left at the limit. -/
def takeLeaf (s : State) : Option (Nat × State) :=
  let i := s.sec.tally.next
  if leafLimit ≤ i then none
  else some (i, tallyCommit cntLeaf (i + 1) (fun t => { t with next := i + 1, pending := some i }) s)

/-- The signature is sent: no leaf is pending. -/
def leafSent (s : State) : State := s.onSec fun x => { x with tally := { x.tally with pending := none } }

/-- The device ID (R450). -/
def deviceId : Bytes := shake256 (padTo 68 Config.deviceKey) 32

/-! ### ATTEST (R456, R457) -/

/-- `WHAT`, and the nonce. -/
def attWhat (p : Pending) : Nat := field p.hdr 12 1
def attNonce (p : Pending) : Bytes := (p.hdr.drop 16).take 16

/-- Bytes 0 to 639 of a report. -/
def reportBody (leaf : Nat) (nonce : Bytes) (s : State) : Bytes :=
  let t := s.sec.tally
  padTo 128
    (ascii "LATT" ++ leBytes 2 1 ++ leBytes 1 s.sec.life.toNat ++
      leBytes 1 (bnat s.optionS + 2 * bnat s.sec.locked + 4 * bnat t.tamper) ++ deviceId ++ leBytes 8 s.shape.toNat ++
      leBytes 4 s.fab.epoch.toNat ++ leBytes 4 leaf ++ leBytes 4 s.mgmt.cycles ++ leBytes 4 0 ++ padTo 16 nonce ++
      leBytes 1 (modCode s.mgmt.st) ++ (List.range 4).flatMap (fun i => leBytes 1 (ctxCode (s.ctx i).st)) ++ leBytes 3 0 ++
      leBytes 8 (Config.imageVersion s.firmware) ++ leBytes 1 t.lifecycle ++ leBytes 1 (bnat t.lock) ++ leBytes 1 t.grade ++
      leBytes 1 0 ++ leBytes 2 t.config) ++
    (List.range 8).flatMap fun m => padTo 64 (mget s.sec.mr m [])

/-- ATTEST with `WHAT` other than 1: a report; a `WHAT` above 1 is refused. -/
def execAttestReport (s : State) : Host.Outcome State Fault Refusal :=
  takeUp 0x0501 (fun p => attWhat p != 1) (fun p s =>
    gate p { allowed := !s.sec.zeroised, bad := badIf (!(plainForm p [(12, 1), (16, 16)]) || attWhat p != 0) }
      (fun s => match takeLeaf s with
        | none => replySt p stExhausted s
        | some (i, s1) =>
          let body := reportBody i (attNonce p) s
          leafSent (reply p stOk [] (padTo 3488 (body ++ padTo 2820 (Config.xmssSign i body))) true s1)) s) s

/-- ATTEST with `WHAT` 1: the device certificate. -/
def execAttestCertificate (s : State) : Host.Outcome State Fault Refusal :=
  takeUp 0x0501 (fun p => attWhat p == 1) (fun p s =>
    gate p { allowed := s.sec.life != 0, bad := badIf !(plainForm p [(12, 1), (16, 16)]) }
      (fun s => reply p stOk [] (padTo 2976 s.sec.cert) true s) s) s

/-! ### Sessions (R465, R466) -/

/-- What the signature of a SESSION_OPEN covers. -/
def sessionDigest (ctx : Nat) (host module ct list : Bytes) : Bytes :=
  shake256 (deviceId ++ leBytes 1 ctx ++ host ++ module ++ ct ++ list) 64

/-- The owner's encapsulation key of a release list (R461). -/
def ownerKey (list : Bytes) : Bytes := (list.drop 64).take 1568

/-- A session opens: the shared secret is encapsulated to the owner key, and the reply is signed. -/
def openSession (p : Pending) (list : Bytes) (i : Nat) (s : State) : State :=
  let c := p.ctx
  let (w, s1) := s.drawFree
  let (nonce, s2) := drawBytes 4 s1
  let (ct, ss) := Config.kemEncaps (ownerKey list) w
  let ct' := padTo 1568 ct
  let keys := shake256 (ascii "LSES" ++ ss ++ attNonce p ++ nonce) 64
  let sig := padTo 2848 (Config.xmssSign i (sessionDigest c (attNonce p) nonce ct' list))
  leafSent (reply p stOk [] (nonce ++ ct' ++ sig) true
    (s2.onCtx c fun x => { x with sec := { x.sec with session := some (0, 0, keys.take 32, keys.drop 32) } }))

def execSessionOpen (s : State) : Host.Outcome State Fault Refusal :=
  takeAny 0x0502 (fun p s =>
    let c := s.ctx p.ctx
    gate p
      { optS := true
        allowed := inStates [.ready, .running] s && s.sec.life != 0 && !s.sec.zeroised && c.sec.list.isSome && c.st != .empty &&
          c.st != .aborted && c.sec.session.isNone
        bad := badIf !(plainForm p [(16, 16)]) }
      (fun s => match takeLeaf s, c.sec.list with
        | some (i, s1), some l => openSession p l i s1
        | _, _ => replySt p stExhausted s) s) s

/-- SESSION_CLOSE: the reply to a protected command is the last one of its session. -/
def execSessionClose (s : State) : Host.Outcome State Fault Refusal :=
  takeAny 0x0503 (fun p s =>
    gate p
      { optS := true
        allowed := inStates [.ready, .running] s && s.sec.life != 0 && (s.ctx p.ctx).sec.session.isSome
        bad := badIf !(plainForm p []) }
      (fun s => endSession p.ctx (replySt p stOk s)) s) s

/-! ### Release lists (R461, R462) -/

/-- Numbers of ranges and entries of a list, and where its signature begins. -/
def rlRanges (d : Bytes) : Nat := field d 56 2
def rlEntries (d : Bytes) : Nat := field d 58 2
def rlSig (d : Bytes) : Nat := (1632 + 16 * rlRanges d + 32 * rlEntries d + 31) / 32 * 32

/-- The sealed ranges of a list: base and length. -/
def rangesOf (d : Bytes) : List (Nat × Nat) :=
  (List.range (rlRanges d)).map fun j => (field d (1632 + 16 * j) 8, field d (1640 + 16 * j) 8)

/-- The release entries of a list: whether it is a cluster-window range, base, length. -/
def releasesOf (d : Bytes) : List (Bool × Nat × Nat) :=
  let o := 1632 + 16 * rlRanges d
  (List.range (rlEntries d)).map fun j =>
    (bitAt (field d (o + 32 * j + 4) 4) 0, field d (o + 32 * j + 8) 8, field d (o + 32 * j + 16) 8)

/-- Two ranges of a list overlap. -/
def selfOverlap : List (Nat × Nat) → Bool
  | [] => false
  | r :: rs => (rs.any fun q => overlaps r.1 r.2 q.1 q.2) || selfOverlap rs

/-- A sealed range is no whole number of granules in DRAM. -/
def rangeBad (r : Nat × Nat) : Bool := r.1 % 8192 != 0 || r.2 % 8192 != 0 || r.2 == 0 || decide (dramEnd < r.1 + r.2)

/-- A release entry lies where it may not. -/
def releaseBad (s : State) (rs : List (Nat × Nat)) (e : Bool × Nat × Nat) : Bool :=
  if e.1 then
    match windowOf e.2.1 with
    | some (c, o) => !s.enabled.contains c || decide (512 * clRows < o + e.2.2)
    | none => true
  else !within rs e.2.1 e.2.2

/-- The parameters of a list that verifies break R462. -/
def listBad (i : Nat) (d : Bytes) (s : State) : Bool :=
  let b := (s.ctx i).bin
  let rs := rangesOf d
  d.take 4 != ascii "LREL" || field d 4 2 != 1 || field d 6 2 != s.moduleIndex || rs.any rangeBad || selfOverlap rs ||
    rs.any (fun r => hitsSealed s r.1 r.2) || rs.any (fun r => overlaps b.saveAddr 8192 r.1 r.2) ||
    !within rs (b.saveAddr + 8192) (b.saveLen - 8192) || (releasesOf d).any (releaseBad s rs)

/-- The list verifies under the operator key, and names the loaded binary. -/
def listVerifies (i : Nat) (d : Bytes) (s : State) : Bool :=
  Config.xmssVerify s.sec.opKey (d.take (rlSig d)) ((d.drop (rlSig d)).take 2820) &&
    (d.drop 24).take 32 == (s.ctx i).bin.digest.take 32

/-- A 512-bit XTS key: 64 free bytes (R448, R462). -/
def newKey (s : State) : Bytes × State := drawBytes 8 s

/-- The list is accepted: the context's key and key ID are generated, and its ranges are read and written under the key (R462,
R463). -/
def acceptList (i : Nat) (d : Bytes) (s : State) : State :=
  let (id, s1) := newKeyId 0 s
  let (key, s2) := newKey s1
  changeKeys i (fun x => { x with list := some d, ranges := rangesOf d, releases := releasesOf d, keyId := id, key := key })
    (extendMr (4 + i) (shake256 d 64) s2)

def execReleaseList (s : State) : Host.Outcome State Fault Refusal :=
  takeAny 0x0504 (fun p s =>
    let i := p.ctx
    let d := p.body
    let c := s.ctx i
    let form := unusedZero p [] && decide (1632 ≤ hLen p.hdr) && decide (1 ≤ rlRanges d) && decide (rlRanges d ≤ 64) &&
      decide (rlEntries d ≤ 256) && hLen p.hdr == rlSig d + 2848
    gate p
      { optS := true
        allowed := inStates [.ready] s && s.sec.life == 2 && c.st == .loaded && c.sec.sealed && c.sec.list.isNone
        bad := badIf !form }
      (fun s =>
        if !listVerifies i d s then replySt p stVerify s
        else if listBad i d s then reply p stBadParam [] [] true s
        else replySt p stOk (acceptList i d s)) s) s

/-! ### LIFECYCLE and SEALED_LOCK (R450, R451, R472) -/

/-- The statement of an authorisation is the one that this module asks for. -/
def statementOk (kind used : Nat) (d : Bytes) : Bool :=
  d.take 64 == padTo 64 (ascii "LAUT" ++ leBytes 1 kind ++ leBytes 3 0 ++ leBytes 4 used ++ leBytes 4 0 ++ deviceId)

/-- Target state of a LIFECYCLE. -/
def lifeTarget (p : Pending) : Nat := field p.hdr 12 1

/-- Length of the payload of an authorisation. -/
def authLen : Nat → Nat
  | 1 => 3040
  | 2 => 160
  | _ => 2912

/-- The operator's signature over the statement verifies. -/
def operatorSigned (d : Bytes) (s : State) : Bool :=
  Config.xmssVerify s.sec.opKey (d.take 64) ((d.drop 64).take 2820)

/-- The signature that a target asks for verifies. -/
def authVerifies (target : Nat) (d : Bytes) (s : State) : Bool :=
  match target with
  | 1 => Config.xmssVerify Config.vendorKey ((d.drop 64).take 128) ((d.drop 192).take 2820)
  | 2 => true
  | _ => operatorSigned d s

/-- The limit of the lifecycle counter. -/
def lifeLimit : Nat := 3

/-- One step of the lifecycle. A module that is in SAFE by then stays there. -/
def advance (target : Nat) (d : Bytes) (s : State) : State :=
  match target with
  | 1 => s.onSec fun x => { x with life := 1, cert := (d.drop 64).take 2976 }
  | 2 => s.onSec fun x => { x with life := 2, opKey := (d.drop 64).take 68 }
  | _ =>
    let s1 := ((List.range 4).foldl (fun s i => changeKeys i (fun _ => {}) s) s).onSec fun x => { x with life := 3, opKey := [] }
    if s.mgmt.st = .safe then s1 else powerDown (setMod .retired s1)

/-- LIFECYCLE: one step forward, under its authorisation. Its count is committed now, and the step follows in the next tick (R453). A
count that a reset consumed is gone; with none left the answer is EXHAUSTED (DEDUCED, log entry 118). -/
def lifecycle (p : Pending) (s : State) : State :=
  let t := lifeTarget p
  let d := p.body
  let known := decide (1 ≤ t) && decide (t ≤ 3)
  let used := s.sec.tally.lifecycle + 1
  gate p
    { allowed := inStates [.ready] s && allEmpty s && (!known || t == s.sec.life.toNat + 1)
      bad := badIf (!(unusedZero p [(12, 1)]) || !known || hLen p.hdr != authLen t ||
        !statementOk t s.sec.tally.lifecycle d) }
    (fun s =>
      if !authVerifies t d s then replySt p stVerify s
      else if lifeLimit < used then replySt p stExhausted s
      else (commitFirst cntLife used (fun t => { t with lifecycle := used }) s).onHost fun h => { h with change := some (t, p) }) s

/-- LIFECYCLE with target 1; a target that is no state is refused here. -/
def execLifecycleProvision (s : State) : Host.Outcome State Fault Refusal :=
  takeUp 0x0505 (fun p => lifeTarget p != 2 && lifeTarget p != 3) lifecycle s

def execLifecycleDeploy (s : State) : Host.Outcome State Fault Refusal :=
  takeUp 0x0505 (fun p => lifeTarget p == 2) lifecycle s

def execLifecycleRetire (s : State) : Host.Outcome State Fault Refusal :=
  takeUp 0x0505 (fun p => lifeTarget p == 3) lifecycle s

/-- SEALED_LOCK: its count is committed now, and the lock takes effect in the next tick (R453, R472; log entry 118). -/
def execSealedLock (s : State) : Host.Outcome State Fault Refusal :=
  takeAny 0x0506 (fun p s =>
    let d := p.body
    gate p
      { optS := true, allowed := inStates [.ready] s && allEmpty s && s.sec.life != 0
        bad := badIf (!(unusedZero p []) || hLen p.hdr != 2912 || !statementOk 4 0 d) }
      (fun s =>
        if !operatorSigned d s then replySt p stVerify s
        else if s.sec.tally.lock then replySt p stExhausted s
        else (commitFirst cntLock 1 (fun t => { t with lock := true }) s).onHost fun h => { h with change := some (4, p) }) s) s

/-- The step to a state is the next one, and its count is committed. -/
def stepDue (t : Nat) (s : State) : Bool := t == s.sec.life.toNat + 1 && decide (s.sec.life.toNat < s.sec.tally.lifecycle)

/-- The change of a LIFECYCLE or a SEALED_LOCK, whose count is committed, takes effect, and the command is answered. -/
def makeChange (t : Nat) (p : Pending) (s : State) : State :=
  if t = 4 then replySt p stOk (changeMade cntLock (s.onSec fun x => { x with locked := x.tally.lock }))
  else if stepDue t s then replySt p stOk (changeMade cntLife (advance t p.body s))
  else s

/-- The tick after the commit. -/
def changeTick (s : State) : State :=
  match s.host.change with
  | some (t, p) => makeChange t p (s.onHost fun h => { h with change := none })
  | none => s

/-! ### REKEY (R399, R400, R473) -/

/-- A context holds a key. -/
def keyed (s : State) : Bool := (List.range 4).any fun i => (s.ctx i).sec.keyId != 0

/-- A sweep begins: every context that holds a key has a new one beside it (R473). -/
def newKeys (s : State) : State :=
  (List.range 4).foldl (fun s i =>
    if (s.ctx i).sec.keyId = 0 then s
    else
      let (key, s1) := newKey s
      s1.onCtx i fun c => { c with sec := { c.sec with key := key, oldKey := c.sec.key } }) s

def execRekey (s : State) : Host.Outcome State Fault Refusal :=
  takeAny 0x0507 (fun p s =>
    gate p
      { optS := true, allowed := inStates [.ready] s && s.cur.isNone && s.sec.life != 0, bad := badIf !(plainForm p [])
        busy := conflict kRekey s }
      (fun s =>
        let (id, s1) := accept p kRekey s
        if keyed s then (newKeys s1).onSec fun x => { x with rekeyOpen := true, rekeyJournal := 0, rekeyRow := 0 }
        else complete id stOk [] [] s1) s) s

/-- REKEY_CHUNK_COMPLETE. -/
def execRekeyChunkComplete (s : State) : Host.Outcome State Fault Refusal :=
  .next (if sweeping s then chunkDone s else s)

/-! ### The tamper response (R449) -/

/-- Every secret is zeroised, and the module enters SAFE. -/
def execTamperResponse (sensor : Nat) (s : State) : Host.Outcome State Fault Refusal :=
  .next (if !s.mgmt.aux then s else
    let s1 := (List.range 4).foldl (fun s i =>
      changeKeys i (fun x => { x.noKey with session := none, traceKey := none }) s) s
    let s2 := s1.onSec fun x => { x with zeroised := true, tally := { x.tally with tamper := true } }
    let s3 := crumb { severity := 4, source := 1, code := 0x0505, detail := leBytes 1 sensor } s2
    crumbCommit (if s.mgmt.st = .safe then s3 else enterSafe 6 s3))

end Sys2Proof.Machine
end

