-- ==== Sys2Proof/Machine/Maint.lean ====
section
/-! DEFINITION. Maintenance operations, fabric bring-up, and how long-running operations end or are cancelled (R396–R398,
R432–R434, R452, R453, R455, R484, R523, R529, R535). -/

namespace Sys2Proof.Machine

/-! ### SCRUB and MEMTEST -/

def execScrub (s : State) : Host.Outcome State Fault Refusal :=
  takeAny 0x0601 (fun p s =>
    gate p
      { allowed := inStates [.ready] s && s.cur.isNone, bad := badIf !(plainForm p []), busy := conflict kScrub s }
      (fun s => (accept p kScrub ((List.range 24).foldl (fun s i => s.onStack i fun t => { t with wrapped := false }) s)).2) s) s

/-- A full patrol scrub is complete: every stack has completed one pass, which counts now unless it has counted at the end of the
stack (R250, R396). -/
def scrubDone (s : State) : State :=
  (List.range 24).foldl (fun s i => s.onStack i fun t => { t with passes := satAdd max32 t.passes (bnat !t.wrapped) }) s

def execMemtest (s : State) : Host.Outcome State Fault Refusal :=
  takeAny 0x0602 (fun p s =>
    gate p
      { allowed := inStates [.ready] s && allEmpty s, bad := badIf !(plainForm p []), busy := conflict kMemtest s }
      (fun s => (accept p kMemtest s).2) s) s

/-- What the test leaves in memory is stated nowhere: every byte that was written before becomes a free value, and the others
read as memory that nothing has written (log entries 2 and 4). Saved contexts and kept rings are gone. -/
def memLost (s : State) : State :=
  let (m, s1) := scrambleCells [(0, windowBase + 96 * 0x1000000)] s.mem s
  { s1 with mem := m, images := [], onCores := none, ctxs := s1.ctxs.map fun e => (e.1, { e.2 with save := none }) }

/-! ### FW_UPDATE (R396, R434, R455, R534) -/

/-- `OFFSET` and `LAST`. -/
def fwOffset (p : Pending) : Nat := field p.hdr 12 4
def fwLast (p : Pending) : Bool := bitAt (field p.hdr 16 1) 0

/-- The update that runs and still takes chunks. -/
def fwOpen (s : State) : Option Op := s.host.ops.find? fun o => opKind o == kFw && o.args == []

/-- A chunk goes to its place in the image. What lies between the image so far and a chunk beyond its end is a free value (log entry 2). -/
def fwPut (o : Nat) (body buf : Bytes) (s : State) : State :=
  let (gap, s1) := drawBytes ((o - buf.length + 7) / 8) s
  s1.onMgmt fun g => { g with fwBuf := (buf ++ gap).take o ++ body ++ buf.drop (o + body.length) }

/-- A chunk joins the image; the last one ends the writing. -/
def fwChunk (id : BitVec 32) (buf : Bytes) (p : Pending) (s : State) : State :=
  let s1 := fwPut (fwOffset p) p.body buf s
  if fwLast p then s1.onOp id fun o => { o with args := [1] } else s1

/-- The first chunk is ACCEPTED; each later one is answered OK by itself, and the operation completes under the tag of the first. A chunk
at `OFFSET` 0, and any chunk while no update takes chunks, begins an update (DESIGN CHOICE, log entry 12). -/
def execFwUpdate (s : State) : Host.Outcome State Fault Refusal :=
  takeAny 0x0603 (fun p s =>
    let o := fwOffset p
    let later := if o = 0 then none else fwOpen s
    gate p
      { allowed := inStates [.waitHost, .ready, .running, .safe] s
        bad := badIf (!(unusedZero p [(12, 4), (16, 1)]) || o % 32 != 0 || decide (2 ≤ field p.hdr 16 1) || hLen p.hdr == 0)
        busy := if later.isSome then none else conflict kFw s }
      (fun s =>
        match later with
        | some x => replySt p stOk (fwChunk x.id s.mgmt.fwBuf p s)
        | none =>
          let (id, s1) := accept p kFw s
          fwChunk id [] p s1) s) s

/-- An update stands in the flash copy that is not in use. -/
def FlashImage.update (img : Bytes) (x : FlashImage) : FlashImage := { x with other := some img, fresh := true }

/-- The image verifies: it stands in the inactive flash copy and runs from the next reset on. -/
def fwDone (s : State) : State :=
  let img := s.mgmt.fwBuf
  s.onMgmt fun g =>
    if Config.imageMicrocode img then { g with uc := g.uc.update img, fwBuf := [] } else { g with fw := g.fw.update img, fwBuf := [] }

/-! ### Configuration records (R237, R325, R452, R529) -/

/-- A list has no repeated entry. -/
def distinct {α : Type} [BEq α] : List α → Bool
  | [] => true
  | x :: xs => !xs.contains x && distinct xs

/-- The core map gives every enabled cluster exactly sixteen sites, none of them bad, and maps no other cluster. -/
def mapOk (r : ConfigRecord) : Bool :=
  distinct r.coreMap && r.coreMap.all (fun e => r.enabled.contains e.1 && decide (e.2 < 18) && !r.badCores.contains e) &&
    r.enabled.all fun c =>
      (r.coreMap.filter fun e => e.1 == c).length == 16 && decide ((r.badCores.filter fun e => e.1 == c).length ≤ 2)

/-- Two routers lie within two columns and two rows of each other. -/
def nearRouters (a b : Nat × Nat) : Bool :=
  decide (max a.1 b.1 - min a.1 b.1 ≤ 2) && decide (max a.2 b.2 - min a.2 b.2 ≤ 2)

/-- The disabled-router list meets R237. -/
def routersOk (r : ConfigRecord) : Bool :=
  let ds := r.disRouters
  decide (ds.length ≤ 2) && (ds.isEmpty || r.grade != 96) &&
    ds.all (fun d => decide (d.1 < 12) && decide (d.2 < 8) && !r.enabled.contains (rtAt d.1 d.2)) &&
    match ds with
    | [a, b] => !nearRouters a b
    | _ => true

/-- A record is well formed (R529). It gives a k and a trim for each of the crossings (log entry 116). -/
def recordOk (r : ConfigRecord) : Bool :=
  (r.grade == 96 || r.grade == 80 || r.grade == 64) && distinct r.enabled && r.enabled.all (fun c => decide (c < nIslands)) &&
    r.enabled.length == r.grade && mapOk r && routersOk r && r.crossings.length == allCrossings &&
    r.crossings.all fun x => decide (1 ≤ x.k) && decide (x.trim ≤ 63)

/-- The limits of R452. -/
def configLimit : Nat := 1024
def gradeLimit : Nat := 8

/-- What is wrong with a record, if anything: the checks of R452 in their order, then the limits. -/
def configStatus (r : ConfigRecord) (s : State) : Option Nat :=
  let used := s.sec.tally.config
  let again := s.mgmt.st == .waitHost && r.version == used
  if !r.signed then some stVerify
  else if r.stepping != s.mgmt.stepping || !recordOk r then some stBadParam
  else if r.version != used + 1 && !again then some stBadParam
  else if !again && configLimit ≤ used then some stExhausted
  else if s.mgmt.record.isSome && r.grade != s.grade && gradeLimit ≤ s.sec.tally.grade then some stExhausted
  else none

/-- The commits of an accepted record, before its writes: the version, and a change of grade (R9, R453). -/
def configCommit (r : ConfigRecord) (s : State) : State :=
  let s1 := if r.version = s.sec.tally.config then s
    else commitFirst cntConfig r.version (fun t => { t with config := r.version }) s
  if s.mgmt.record.isSome && r.grade != s.grade then
    let n := s1.sec.tally.grade + 1
    commitFirst cntGrade n (fun t => { t with grade := n }) s1
  else s1

/-- CONFIG_WRITE: `r` is what the payload spells. -/
def execConfigWrite (r : ConfigRecord) (s : State) : Host.Outcome State Fault Refusal :=
  takeAny 0x0604 (fun p s =>
    gate p
      { allowed := inStates [.waitHost] s || (inStates [.ready] s && allEmpty s)
        bad := badIf (!(unusedZero p []) || hLen p.hdr == 0), busy := conflict kConfig s }
      (fun s => let (id, s1) := accept p kConfig s; s1.onOp id fun o => { o with cfg := some r }) s) s

/-- A CONFIG_WRITE ends: refused, or committed and measured; its writes and its reset follow (R454, R484). -/
def configDone (o : Op) (s : State) : State :=
  match o.cfg with
  | none => s
  | some r =>
    match configStatus r s with
    | some st => complete o.id st [] [] s
    | none =>
      let s1 := extendMr 3 (shake256 (Config.recordBytes (recordCode r)) 64) (configCommit r s)
      complete o.id stOk [] [] (s1.onMgmt fun g => { g with applyPend := some (r, false) })

/-- The record stands in copy B: the changes that its counters count are made (R453, R483, R484). -/
def writeCopyB (r : ConfigRecord) (s : State) : State :=
  changeMade cntGrade (changeMade cntConfig (s.onMgmt fun g => { g with copyB := .copy r, applyPend := some (r, true) }))

/-- Copy B is written first. In which tick is a free value (log entry 2); until then CONFIG_APPLY_RESET does it (log entry 119). -/
def applyTick (s : State) : State :=
  match s.mgmt.applyPend with
  | some (r, false) => let (w, s1) := s.drawFree; if w.getLsbD 0 then writeCopyB r s1 else s1
  | _ => s

/-- CONFIG_APPLY_RESET: the record stands in copy B, and goes to copy A; the module powers up again from WAIT_HOST, or performs a
WARM reset (R484). Its `LAST_RESET` is that of a WARM command (DESIGN CHOICE, log entry 12). -/
def execConfigApplyReset (s : State) : Host.Outcome State Fault Refusal :=
  .next (match s.mgmt.applyPend with
    | none => s
    | some (r, b) =>
      let s1 := (if b then s else writeCopyB r s).onMgmt fun g => { g with copyA := .copy r, applyPend := none }
      if s.mgmt.st = .waitHost then enterPowering false (s1.onMgmt fun g => { g with resume4 := true })
      else doReset 0 2 s1)

/-! ### FABRIC_BRINGUP and PORT_RETRAIN (R311–R315, R322, R434, R523) -/

def execFabricBringup (s : State) : Host.Outcome State Fault Refusal :=
  takeAny 0x0701 (fun p s =>
    let v := fun i => field p.hdr i 1
    let (x, y, z) := (v 12, v 13, v 14)
    let (ox, oy, oz) := (v 15, v 16, v 17)
    let dims := decide (1 ≤ x) && decide (x ≤ 8) && decide (1 ≤ y) && decide (y ≤ 4) && decide (1 ≤ z) && decide (z ≤ 4) &&
      decide (ox < x) && decide (oy < y) && decide (oz < z)
    gate p
      { allowed := inStates [.ready] s && s.cur.isNone
        bad := badIf (!(plainForm p [(12, 6)]) || !dims || bnat s.mgmt.trayId != ox % 2) }
      (fun s =>
        let s1 := (accept p kindOther s).2
        let s2 := s1.onFab fun f =>
          { f with
            index := some (indexAt ox oy oz s.mgmt.slotUsed.toNat), x := x, y := y, z := z, ox := ox, oy := oy, oz := oz }
        (List.range 20).foldl (fun s q =>
          if (portRole s q).1 = 0 then portOff q s else portTrain q s) s2) s) s

/-- The ports that should be up and are not. -/
def failedPorts (s : State) : List Nat := (List.range 20).filter fun q => (portRole s q).1 != 0 && !portUp (s.port q)

/-- The bring-up is over: fabric times are aligned to that of the fabric root, which keeps its own; to another module it is a free value
(R315, R316, log entry 2). No job runs at a bring-up, so R316 names no root: here it is the module of index 0 (DESIGN CHOICE, log entry
112). Failed ports are named by their `LAT.STATUS`. -/
def bringupDone (o : Op) (s : State) : State :=
  match failedPorts s with
  | [] =>
    let (w, s1) := s.drawFree
    complete o.id stOk [] [] (if s.moduleIndex = 0 then s else s1.onFab fun f => { f with ftime := w.toNat })
  | bad => complete o.id stFaulted [] (bad.flatMap fun q => leBytes 8 (latReg s q 0).toNat) s

/-- The running job uses a port: a packet between two of its modules leaves, comes or passes by it (R310, R313, R396). -/
def portInUse (s : State) (q : Nat) : Bool :=
  s.cur.isSome && s.jobModules.any fun m => s.jobModules.any fun n =>
    (s.pathPorts m n 0).contains q || (s.pathPorts m n 1).contains q

/-- PORT_RETRAIN; in REKEY_RESUME the ports stay OFF, and the operation ends FAULTED (R400). -/
def execPortRetrain (s : State) : Host.Outcome State Fault Refusal :=
  takeAny 0x0702 (fun p s =>
    let q := field p.hdr 12 1
    gate p
      { allowed := inStates [.ready, .running, .rekeyResume] s && !portInUse s q
        bad := badIf (!(plainForm p [(12, 1)]) || decide (20 ≤ q)), busy := conflict kRetrain s }
      (fun s =>
        let (id, s1) := accept p kRetrain s
        let s2 := s1.onOp id fun o => { o with args := [q] }
        if s.mgmt.st = .rekeyResume then s2 else portTrain q s2) s) s

/-- A retrain is over. -/
def retrainDone (o : Op) (s : State) : State :=
  let q := o.args.headD 0
  if portUp (s.port q) then complete o.id stOk [] [] s
  else complete o.id stFaulted [] (leBytes 8 (latReg s q 0).toNat) s

/-! ### How an operation ends (R432, R434) -/

/-- No port trains any more. -/
def trainingOver (s : State) : Bool := (List.range 20).all fun q => (s.port q).st != .training

/-- An operation that the main domain performs cannot end as it should once that domain is off or the module is in SAFE; it
ends ABORTED (DESIGN CHOICE, log entry 12). -/
def mainOff (s : State) : Bool := !s.mgmt.main || s.mgmt.st == .safe

/-- The end of MEMTEST: it found nothing, or a first failing address. -/
def memtestDone (o : Op) (e : OpEnd) (s : State) : State :=
  match e with
  | .ok => complete o.id stOk [] [] (memLost s)
  | .failed a => complete o.id stFaulted (leBytes 8 a) [] (memLost s)
  | .verifyFail => s

/-- The end of FW_UPDATE: the whole image verifies, or does not. -/
def fwEnd (o : Op) (e : OpEnd) (s : State) : State :=
  match e with
  | .ok => complete o.id stOk [] [] (fwDone s)
  | .verifyFail => complete o.id stVerify [] [] (s.onMgmt fun g => { g with fwBuf := [] })
  | .failed _ => s

/-- OPERATION_COMPLETE, by opcode. Launches, switches, captures and sweeps end with other events. -/
def operationComplete (o : Op) (e : OpEnd) (s : State) : State :=
  match o.opcode.toNat with
  | 0x0201 =>
    if mainOff s then complete o.id stAborted [] [] s
    else if loadable (s.ctx o.ctx.toNat).st then loadDone o s
    else complete o.id stRefused [] [] s
  | 0x0205 => if mainOff s then complete o.id stAborted [] [] s else restoreDone o s
  | 0x0303 => if mainOff s then complete o.id stAborted [] [] (fillStop o.id s) else fillDone o s
  | 0x0601 => if mainOff s then complete o.id stAborted [] [] s else complete o.id stOk [] [] (scrubDone s)
  | 0x0602 => if mainOff s then complete o.id stAborted [] [] s else memtestDone o e s
  | 0x0603 => if o.args = [] then s else fwEnd o e s
  | 0x0604 => configDone o s
  | 0x0701 =>
    if mainOff s then complete o.id stAborted [] [] s else if trainingOver s then bringupDone o s else s
  | 0x0702 =>
    if mainOff s then complete o.id stAborted [] [] s
    else if (s.port (o.args.headD 0)).st = .training then s
    else retrainDone o s
  | 0x0507 => if mainOff s then complete o.id stAborted [] [] s else s
  | _ => s

/-- The cancel point of an operation lies behind: it can no longer complete (R433). -/
def cancelPast (o : Op) (now : Nat) : Bool :=
  match o.cancel with
  | some (t, _) => decide (t < now)
  | none => false

def execOperationComplete (op : BitVec 32) (e : OpEnd) (s : State) : Host.Outcome State Fault Refusal :=
  .next (match s.op op with
    | some o => if cancelPast o s.now then s else operationComplete o e s
    | none => s)

/-! ### OP_CANCEL (R433) -/

/-- The kinds that cannot be cancelled. -/
def uncancellable (o : Op) : Bool := opKind o == kRekey || opKind o == kConfig || opKind o == kFw

/-- An operation has sent its completion reply and goes on: a STARTER whose capture stands (R387, R396). To a cancel it has completed
(DEDUCED, log entry 12). -/
def captured (o : Op) (s : State) : Bool := opKind o == kStarter && (s.ctx o.ctx.toNat).capture.isSome

/-- The cancel of an operation, which runs or has ended, is noted with its cancel point. -/
def noteCancel (id : BitVec 32) (p : Pending) (s : State) : State :=
  let f := fun (o : Op) => if o.id = id then { o with cancel := some (s.now + 64, p) } else o
  s.onHost fun h => { h with ops := h.ops.map f, ended := h.ended.map f }

def execOpCancel (s : State) : Host.Outcome State Fault Refusal :=
  takeAny 0x0606 (fun p s =>
    let o := namedOp p s
    let free := match o with
      | some o => !uncancellable o && o.cancel.isNone
      | none => true
    gate p { allowed := inStates [.ready, .running] s && free, bad := badIf (!(plainForm p [(12, 4)]) || o.isNone) }
      (fun s => match o with
        | some o => noteCancel o.id p s
        | none => s) s) s

/-- What a cancelled operation leaves behind. The cancel of a launch or of a switch that is under way is an abort; the cancel of an
abort calls it off, if it has not taken effect (R433, log entry 12). -/
def undo (o : Op) (s : State) : State :=
  let i := o.ctx.toNat
  match o.opcode.toNat with
  | 0x0201 => setCtxSt i .empty s
  | 0x0202 => doAbort i s
  | 0x0203 => s.onCtx i fun c => { c with abortAt := none, abortEnd := none, abortOp := 0 }
  | 0x0204 => if (s.ctx i).launchOp = some o.id then doAbort i s else dropSwitchTo i stAborted s
  | 0x0208 => s.onCtx i fun c => { c with arm := none }
  | 0x0303 => fillStop o.id s
  | 0x0602 => memLost s
  | _ => s

/-- Note that the cancel of an operation has been answered. -/
def dropCancel (id : BitVec 32) (s : State) : State :=
  let f := fun (o : Op) => if o.id = id then { o with cancel := none } else o
  s.onHost fun h => { h with ops := h.ops.map f, ended := h.ended.map f }

/-- CANCEL_POINT: the operation has completed, or is cancelled. -/
def cancelPoint (id : BitVec 32) (s : State) : State :=
  match s.op id with
  | some o =>
    match o.cancel with
    | some (t, p) =>
      if s.now < t then s
      else if captured o s then replySt p stDoneFirst (dropCancel id s)
      else complete id stAborted [] [] (undo o (replySt p stAborted s))
    | none => s
  | none =>
    match s.host.ended.find? fun o => o.id == id with
    | some o =>
      match o.cancel with
      | some (t, p) =>
        if s.now < t then s
        else replySt p stDoneFirst (dropCancel id s)
      | none => s
    | none => s

/-- Cancel points and abort points that lie behind take effect before anything else of a tick, so that nothing completes after them
(R384, R433). -/
def pointTick (s : State) : State :=
  let s1 := (s.host.ops.filter fun o => cancelPast o s.now).foldl (fun s o => cancelPoint o.id s) s
  (List.range 4).foldl (fun s i =>
    match (s.ctx i).abortAt with
    | some t => if t < s.now then abortPoint i s else s
    | none => s) s1

def execCancelPoint (op : BitVec 32) (s : State) : Host.Outcome State Fault Refusal := .next (cancelPoint op s)

end Sys2Proof.Machine
end

