-- ==== Sys2Proof/Machine/Power.lean ====
section
/-! DEFINITION. Input power, coolant, SELF_CHECK, the thermal guard, clock crossings, the watchdog, and the commit of the Crumb Log
(R325, R381, R400, R401, R448, R453–R455, R458, R477–R488, R498, R529). -/

namespace Sys2Proof.Machine

/-! ### Input power (R477, R478, R480, R488) -/

/-- Levels of the input, in mV. -/
def auxLevel : Nat := 36000
def runLevel : Nat := 40000
def maxLevel : Nat := 47500

/-- The auxiliary domain starts: the host link trains, and the count of operations begins at power-up. -/
def auxStart (mV : Nat) (s : State) : State :=
  (s.onMgmt fun g => { g with aux := true, mV := mV }).onHost fun h => { h with link := .training }

/-- AUXILIARY_DOMAIN_START: the input is at 36.0 V or above; the module stays in OFF. -/
def execAuxiliaryDomainStart (mV : Nat) (s : State) : Host.Outcome State Fault Refusal :=
  .next (if s.mgmt.st = .off && !s.mgmt.aux && auxLevel ≤ mV then auxStart mV s else s)

/-- INPUT_POWER_STABLE: 10 ms at 40.0 V or above since the input last stood below 36.0 V. A SHUTDOWN since then leaves the
module in OFF. -/
def execInputPowerStable (mV : Nat) (s : State) : Host.Outcome State Fault Refusal :=
  .next (if s.mgmt.st = .off && runLevel ≤ mV && s.mgmt.lastReset != 4 then
    let s1 := if s.mgmt.aux then s.onMgmt fun g => { g with mV := mV } else auxStart mV s
    enterPowering true (s1.onMgmt fun g => { g with lastReset := 0 })
  else s)

/-- The newest record of the log's flash copy. -/
def newestFlash (m : SMap CrumbRec) : Nat × Nat :=
  m.foldl (fun a e => if a.2 < e.2.seq then (e.1, e.2.seq) else a) (0, 0)

/-- INPUT_BELOW_AUX: the auxiliary domain stops. What package flash and the Tally store hold survives; records that were
not committed are lost (R401, R498). -/
def loseAux (mV : Nat) (s : State) : State :=
  let (slot, seq) := newestFlash s.crumb.flash
  let s1 := powerDown s
  let s2 : State :=
    { s1 with
      ctxs := [], host := {}, mon := {}, obs := {}, fab := {}
      crumb := { s1.crumb with slots := s1.crumb.flash, lastSlot := slot, lastSeq := seq, cursor := 0, fresh := [] } }
  let s3 := s2.onSec fun x =>
    { x with mr := [], selftest := false, resident := none, deniedEng := 0, deniedHost := 0, rekeyRow := 0 }
  s3.onMgmt fun g =>
    { copyA := g.copyA, copyB := g.copyB, stepping := g.stepping, cycles := g.cycles, hours0 := g.hours0, fw := g.fw, uc := g.uc
      trayId := g.trayId, slotId := g.slotId, slotUsed := g.slotUsed
      st := .off, prev := .off, aux := false, mV := mV }

def execInputBelowAux (mV : Nat) (s : State) : Host.Outcome State Fault Refusal :=
  .next (if s.mgmt.aux && mV < auxLevel then loseAux mV s else s)

/-- INPUT_OUT_OF_RANGE: 1 ms outside 40.0–47.5 V while the main domain is powered trips: cause 7 low, 8 high. -/
def execInputOutOfRange (mV : Nat) (s : State) : Host.Outcome State Fault Refusal :=
  .next (if s.mgmt.main && (mV < runLevel || maxLevel < mV) then
    trip (if mV < runLevel then 7 else 8) mV (s.onMgmt fun g => { g with mV := mV })
  else s)

/-! ### Coolant and the ramp (R480, R481, R488) -/

/-- 1 K and the limits of the plausibility check, in 1/16 °C. -/
def oneK : Int := 16

/-- The lowest-numbered condition of the plausibility check that fails. Means are compared doubled. -/
def plausible (r : Coolant) : Option Nat :=
  let all := [r.inlet0, r.inlet1, r.outlet0, r.outlet1]
  if all.any fun t => decide (t < 5 * oneK) || decide (45 * oneK < t) then some 1
  else if oneK < (r.inlet0 - r.inlet1).natAbs || oneK < (r.outlet0 - r.outlet1).natAbs then some 2
  else if 2 * 3 * oneK < (r.outlet0 + r.outlet1 - (r.inlet0 + r.inlet1)).natAbs then some 3
  else none

/-- A reading in two bytes. -/
def temp2 (t : Int) : Bytes := leBytes 2 (t % 65536).toNat

/-- The check passes and the main domain ramps, or an ERROR record names the condition. -/
def plausibility (r : Coolant) (s : State) : State :=
  match plausible r with
  | none => setMod .selfCheck (s.onMgmt fun g => { g with main := true, pwrGood := true })
  | some n =>
    crumb
      { severity := 3, source := 0, code := 0x0108
        detail := leBytes 1 n ++ leBytes 3 0 ++ temp2 r.inlet0 ++ temp2 r.inlet1 ++ temp2 r.outlet0 ++ temp2 r.outlet1 } s

/-- COOLANT_OK_STABLE: asserted for 100 ms in POWERING; the check follows. -/
def execCoolantOkStable (r : Coolant) (s : State) : Host.Outcome State Fault Refusal :=
  .next (if s.mgmt.st = .powering && s.mgmt.aux && !s.mgmt.coolantAck then
    plausibility r (s.onMgmt fun g => { g with coolant := true, coolantAck := true })
  else s)

/-- PLAUSIBILITY_RETRY: the check once every second while it fails. -/
def execPlausibilityRetry (r : Coolant) (s : State) : Host.Outcome State Fault Refusal :=
  .next (if s.mgmt.st = .powering && s.mgmt.aux && s.mgmt.coolantAck then plausibility r s else s)

/-- COOLANT_OK_LOSS: deasserted for 1 ms; with the main domain powered, a trip. -/
def execCoolantOkLoss (s : State) : Host.Outcome State Fault Refusal :=
  .next (
    let s1 := s.onMgmt fun g => { g with coolant := false, coolantAck := false }
    if s.mgmt.main then trip 6 0 s1 else s1)

/-! ### SELF_CHECK (R448, R453–R455, R458, R482–R484, R528, R529) -/

/-- A step fails: its record, and SAFE with a cause. -/
def checkFails (step : Nat) (cause : BitVec 8) (s : State) : State := enterSafe cause (fatal 0x0106 (leBytes 1 step) s)

/-- Status of a copy of the record: unreadable, bad, stale, or valid (R483, R529). -/
def copyStatus (c : FlashCopy) (s : State) : Nat :=
  match c with
  | .unreadable => 3
  | .copy r =>
    if !r.signed || r.stepping != s.mgmt.stepping || !recordOk r then 2
    else if r.version != s.sec.tally.config then 1
    else 0

/-- The record of a copy. -/
def copyRecord : FlashCopy → Option ConfigRecord
  | .unreadable => none
  | .copy r => some r

/-- The record that selection uses: copy A if it is valid, else copy B (R483, R529). -/
def chosen (s : State) : Option (Nat × ConfigRecord) :=
  let g := s.mgmt
  if copyStatus g.copyA s = 0 then (copyRecord g.copyA).map fun r => (1, r)
  else if copyStatus g.copyB s = 0 then (copyRecord g.copyB).map fun r => (2, r)
  else none

/-- The lowest version of an image that may run: that of the record in use (R455). -/
def leastVersion (s : State) : Nat :=
  match chosen s with
  | some (_, r) => r.minFw.toNat
  | none => 0

/-- A flash copy of an image may run: it verifies, and its version is not below the minimum (R455). -/
def copyRuns (n least : Nat) (o : CheckOutcome) (ran : Bool) (img : Option Bytes) : Bool :=
  !(o.badCopies.contains (n, ran)) && !decide (Config.imageVersion (img.getD (Config.image n)) < least)

/-- The copies of an image after the loader's choice: an update first, else the copy that ran last, and the other one if that fails; none
if both fail (R455). -/
def bootImage (n least : Nat) (o : CheckOutcome) (x : FlashImage) : Option FlashImage :=
  let other : FlashImage := { run := x.other, other := x.run }
  if x.fresh && copyRuns n least o false x.other then some other
  else if copyRuns n least o true x.run then some { x with fresh := false }
  else if copyRuns n least o false x.other then some other
  else none

/-- Step 2: the images that run are measured (R454). -/
def measure (fw uc : FlashImage) (s : State) : State :=
  let s1 := s.onMgmt fun g => { g with fw := fw, uc := uc }
  let ext := fun (m : Nat) (d : Bytes) => extendMr m (shake256 d 64)
  ext 2 s1.microcode (ext 1 s1.firmware (ext 0 (Config.image 1) (ext 0 (Config.image 0) s1)))

/-- Step 3: changes that their commits outlived, and a leaf that was pending, leave records (R453, R458). -/
def recoverTally (s : State) : State :=
  let note := fun (code : Nat) (d : Bytes) => crumb { severity := 1, source := 1, code := code, detail := d }
  let s1 := s.sec.tally.intents.foldl (fun s c => note 0x0502 (leBytes 1 c) s) s
  let s2 := match s.sec.tally.pending with
    | some i => note 0x0503 (leBytes 4 i) s1
    | none => s1
  s2.onSec fun x => { x with tally := { x.tally with intents := [], pending := none } }

/-- Step 4: the record is selected and measured; an invalid copy is rewritten from the other (R454, R483, R529). The statuses stay as
they were found: the example of R495 reports the bad copy with 2 (DEDUCED, log entry 117). -/
def selectRecord (n : Nat) (r : ConfigRecord) (s : State) : State :=
  let a := copyStatus s.mgmt.copyA s
  let b := copyStatus s.mgmt.copyB s
  let repair := fun (which : Nat) (s : State) =>
    crumb { severity := 1, source := 0, code := 0x0103, detail := leBytes 1 which } s
  let s1 := if a ≠ 0 then repair 1 (s.onMgmt fun g => { g with copyA := .copy r })
    else if b ≠ 0 then repair 2 (s.onMgmt fun g => { g with copyB := .copy r }) else s
  extendMr 3 (shake256 (Config.recordBytes (recordCode r)) 64) (s1.onMgmt fun g =>
    { g with record := some r, inUse := n, aStatus := a, bStatus := b, trims := r.crossings })

/-- Step 6: the stacks are powered and trained. -/
def stacksUp (s : State) : State :=
  { s with drams := (List.range 24).map fun i =>
      (i, { s.stack i with powered := true, trained := true, selfRef := false }) }

/-- Step 7, and the next state: a sweep that a WARM reset left open resumes, any other is void (R400, R401). -/
def finishCheck (s : State) : State :=
  if s.sec.life = 3 then powerDown (setMod .retired s)
  else if s.sec.rekeyOpen && s.mgmt.warm then setMod .rekeyResume s
  else if s.sec.rekeyOpen then
    setMod .ready (crumb
      { severity := 1, source := 1, code := 0x0508, detail := leBytes 2 (s.sec.rekeyJournal - 1) }
      (s.onSec fun x => { x with rekeyOpen := false, rekeyJournal := 0, rekeyRow := 0 }))
  else setMod .ready s

/-- Steps 4 to 7. -/
def lateSteps (o : CheckOutcome) (s : State) : State :=
  match chosen s with
  | none =>
    let a := copyStatus s.mgmt.copyA s
    let b := copyStatus s.mgmt.copyB s
    powerDown (setMod .waitHost (s.onMgmt fun g =>
      { g with aStatus := a, bStatus := b, inUse := 0, record := none, trims := bootCrossings, warm := false }))
  | some (n, r) =>
    let s1 := selectRecord n r s
    match o.marginFail with
    | some x => checkFails 5 1 (fatal 0x0105 (leBytes 2 x) s1)
    | none => if o.stacksOk then finishCheck (stacksUp s1) else checkFails 6 7 s1

/-- Steps 1 to 3. The images are numbered as in `Config.image` (log entry 11). -/
def earlySteps (o : CheckOutcome) (s : State) : State :=
  match o.katFail with
  | some a => checkFails 1 4 (crumb { severity := 4, source := 1, code := 0x0504, detail := leBytes 1 a } s)
  | none =>
    let s1 := s.onSec fun x => { x with selftest := true }
    let bad := fun (i : Nat) =>
      checkFails 2 5 (crumb { severity := 4, source := 1, code := 0x0506, detail := leBytes 1 i } s1)
    let least := leastVersion s
    match bootImage 1 least o {}, bootImage 2 least o s.mgmt.fw, bootImage 3 least o s.mgmt.uc with
    | none, _, _ => bad 1
    | _, none, _ => bad 2
    | _, _, none => bad 3
    | some _, some fw, some uc => lateSteps o (recoverTally (measure fw uc s1))

/-- SELF_CHECK: all steps; after a CONFIG_WRITE in WAIT_HOST from step 4 on (R484). -/
def selfCheck (o : CheckOutcome) (s : State) : State :=
  let s1 := s.onMgmt fun g => { g with resume4 := false }
  if s.mgmt.resume4 then lateSteps o s1 else earlySteps o s1

def execSelfCheck (o : CheckOutcome) (s : State) : Host.Outcome State Fault Refusal :=
  .next (if s.mgmt.st = .selfCheck && s.mgmt.main then selfCheck o s else s)

/-! ### The thermal guard (R486–R488) -/

/-- A group of sensors: its readings, and the levels of guard on, guard off and trip, in 1/16. -/
def guardGroups (r : GuardReading) : List (List Int × Int × Int × Int) :=
  [(r.junction, 1680, 1600, 1840), (r.stack, 1440, 1392, 1600), (r.regulator, 1840, 1760, 2000), ([r.inlet], 640, 608, 720),
    ([r.rise], 256, 224, 320)]

/-- The first group whose reading trips: its cause and the reading. -/
def guardTrip (r : GuardReading) : Option (Nat × Int) :=
  (guardGroups r).zipIdx.findSome? fun g => (g.1.1.find? fun t => g.1.2.2.2 ≤ t).map fun t => (g.2 + 1, t)

/-- The groups that are active after a reading. -/
def guardActive (old : BitVec 5) (r : GuardReading) : BitVec 5 :=
  BitVec.ofNat 5 (((guardGroups r).zipIdx.map fun g =>
    if (g.1.1.any fun t => g.1.2.1 ≤ t) || (old.getLsbD g.2 && !(g.1.1.all fun t => t < g.1.2.2.1)) then 2 ^ g.2 else 0).foldl
    (· + ·) 0)

/-- One raise of cause THERMAL; with no context running it only counts. -/
def thermalRaise (s : State) : State :=
  let s1 := s.onMgmt fun g => { g with episodes := satAdd 0xFFFF g.episodes 1, lastRaise := s.now }
  if s.cur.isSome then raiseService .mgmt causeThermal none s1 else s1

/-- THERMAL_GUARD_READING: the groups' states, and a raise by the reading that makes the first group active; a reading at a trip level
trips, unless the module is in SAFE after a trip already (R486–R488; log entry 120). -/
def execThermalGuardReading (r : GuardReading) (s : State) : Host.Outcome State Fault Refusal :=
  .next (if !s.mgmt.aux then s
  else
    let a := guardActive s.mgmt.active r
    let s1 := s.onMgmt fun g => { g with active := a }
    let s2 := if s.mgmt.active = 0 && a ≠ 0 then thermalRaise s1 else s1
    match guardTrip r with
    | some (cause, t) => if s.mgmt.st = .safe && s.mgmt.safeCause = 3 then s2 else trip cause (t % 4294967296).toNat s2
    | none => s2)

/-- THERMAL_RAISE: once every 196,608 ticks while a group is active. -/
def execThermalRaise (s : State) : Host.Outcome State Fault Refusal :=
  .next (if s.mgmt.aux && s.mgmt.active ≠ 0 && s.mgmt.lastRaise + 196608 ≤ s.now then thermalRaise s else s)

/-! ### Crossings, watchdog, log (R325, R381, R498) -/

/-- A crossing runs: its domain is powered (R478). -/
def crossingRuns (x : Nat) (s : State) : Bool :=
  decide (x < allCrossings) && (if x < mainCrossings then s.mgmt.main else s.mgmt.aux)

/-- CROSSING_MARGIN_LOST: SAFE, with a record that names the crossing. -/
def execCrossingMarginLost (x : Nat) (s : State) : Host.Outcome State Fault Refusal :=
  .next (if crossingRuns x s && s.mgmt.st ≠ .safe then crumbCommit (enterSafe 1 (fatal 0x0105 (leBytes 2 x) s)) else s)

/-- CROSSING_TRIM_STEP: a trim moves by 1/64 tick within its range; k never changes. -/
def execCrossingTrimStep (x : Nat) (up : Bool) (s : State) : Host.Outcome State Fault Refusal :=
  .next (if crossingRuns x s then
    s.onMgmt fun g =>
      { g with trims := g.trims.mapIdx fun i c =>
          if i = x then { c with trim := if up then min 63 (c.trim + 1) else c.trim - 1 } else c }
  else s)

/-- MGMT_WATCHDOG_EXPIRY: SAFE. -/
def execMgmtWatchdogExpiry (s : State) : Host.Outcome State Fault Refusal :=
  .next (if s.mgmt.aux && s.mgmt.st ≠ .safe then crumbCommit (enterSafe 2 (fatal 0x0104 [] s)) else s)

/-- CRUMB_FLASH_COMMIT: a record is in package flash, with the number that it has. -/
def execCrumbFlashCommit (seq : Nat) (s : State) : Host.Outcome State Fault Refusal :=
  .next (match s.crumb.slots.find? fun e => e.2.seq == seq with
    | some (n, r) =>
      if s.mgmt.aux then { s with crumb := { s.crumb with flash := mset s.crumb.flash n r, fresh := [] } } else s
    | none => s)

/-- 1 ms in real ticks. -/
def commitTicks : Nat := 1600000

/-- Every record that was written 1 ms ago is in package flash by now (R498). -/
def crumbTick (s : State) : State :=
  let due := s.crumb.slots.filter fun e => e.2.atT + commitTicks == s.now
  if due.isEmpty then s
  else { s with crumb := { s.crumb with flash := due.foldl (fun m e => mset m e.1 e.2) s.crumb.flash } }

end Sys2Proof.Machine
end

