-- ==== Sys2Proof/Machine/Retry.lean ====
section
/-! DEFINITION. Commands that waited in their station and go on: for a semaphore (R54), an interlock (R107, R163), the
station itself (R175) or an accumulation (R129, R189). Each event tries the oldest command that has not begun again. -/

namespace Sys2Proof.Machine

/-- The oldest command of MATRIX that has not begun, tried again. -/
def mxTry (k : Nat) (a : Acc) (s : State) : State :=
  match cmdOpcode a.cmd with
  | 0x01 => mxDoSetmode k a s
  | 0x02 => mxDoLoad k a s
  | 0x03 => mxDoLoadb k a s
  | 0x04 => mxDoLoadpair k a s
  | 0x05 => mxDoLoad32 k a s
  | 0x08 => mxDoStream k a s
  | 0x09 => mxDoStreami k a s
  | 0x0A => mxDoStream32 k a s
  | 0x0B => mxDoStreamc k a s
  | 0x10 => mxDoSetidx k a s
  | 0x11 => tryIssued k .matrix (mxDoDrain k) (drainTurn k .matrix s)
  | _ => s

/-- The same for VECTOR. -/
def vTry (k : Nat) (a : Acc) (s : State) : State :=
  match cmdOpcode a.cmd with
  | 0x01 => vDoAdd k a s | 0x02 => vDoSub k a s | 0x03 => vDoMul k a s | 0x04 => vDoAxpy k a s
  | 0x05 => vDoMax k a s | 0x06 => vDoMin k a s | 0x07 => vDoAbs k a s | 0x08 => vDoNeg k a s
  | 0x09 => vDoCmpgt k a s | 0x0A => vDoRcp k a s | 0x0B => vDoRsqrt k a s | 0x0C => vDoSqrt k a s
  | 0x0D => vDoExp2 k a s | 0x0E => vDoLog2 k a s | 0x0F => vDoSigmoid k a s | 0x10 => vDoSilu k a s
  | 0x11 => vDoTanh k a s | 0x18 => vDoRowdot k a s | 0x19 => vDoColsum k a s | 0x1A => vDoRowmax k a s
  | 0x1B => vDoRownorm k a s | 0x20 => vDoSmaxFwd k a s | 0x21 => vDoSmaxRescale k a s | 0x22 => vDoSmaxNorm k a s
  | 0x23 => vDoSmaxRecomp k a s | 0x24 => vDoSmaxDs k a s | 0x25 => vDoStatout k a s | 0x26 => vDoStatin k a s
  | 0x27 => vDoStatclr k a s | 0x28 => vDoLvbase k a s | 0x29 => vDoDropout k a s | 0x2A => vDoRandU k a s
  | 0x2B => vDoRandN k a s | 0x30 => vDoConvert k a s | 0x31 => vDoPackz k a s | 0x32 => vDoUnpackz k a s
  | 0x33 => vDoCompact k a s | 0x34 => vDoCopy k a s | 0x38 => vDoTapout k a s | 0x39 => vDoTapclr k a s
  | 0x3A => vDoSetidx k a s
  | _ => s

/-- The same for SPARSE. -/
def spTry (k : Nat) (a : Acc) (s : State) : State :=
  match cmdOpcode a.cmd with
  | 0x01 => spDoSetb k a s
  | 0x02 => spDoSxload k a s
  | 0x03 => spDoSpmm k a s
  | 0x04 => spDoSetidx k a s
  | 0x05 => tryIssued k .sparse (spDoDrain k) (drainTurn k .sparse s)
  | _ => s

/-- A DRAIN of MATRIX or SPARSE that waits, tried again. -/
def drainTry (k : Nat) (st : Station) (a : Acc) (s : State) : State :=
  match st with
  | .matrix => mxDoDrain k a s
  | .sparse => spDoDrain k a s
  | _ => s

/-- The same for any station. RD and ACC read rows later; the outcomes of their reads come with their own rows, and a
retry here reads clean rows. -/
def stTry (k : Nat) (st : Station) (a : Acc) (s : State) : State :=
  match st with
  | .matrix => mxTry k a s
  | .vector => vTry k a s
  | .sparse => spTry k a s
  | .fetch =>
    match cmdOpcode a.cmd with
    | 1 => rdDo k [] a s
    | 2 => fillDo k a s
    | 3 => rdropDo k a s
    | _ => s
  | .store =>
    match cmdOpcode a.cmd with
    | 1 => wrDo k a s
    | 2 => accDo k [] a s
    | 3 => wbackDo k a s
    | _ => s
  | .knead =>
    match cmdOpcode a.cmd with
    | 1 => ksendDo k a s
    | 2 => krecvDo k a s
    | 3 => binjDo k a s
    | _ => s

/-- Try the oldest command of a station that has not begun again, if it waits under one of the reasons that `p` picks. -/
def retryHead (k : Nat) (st : Station) (p : Acc → Nat → Bool) (s : State) : State :=
  match (s.stq k st).head with
  | some a =>
    match a.stage with
    | .stalled r => if stationsOn k s && p a r then stTry k st a s else s
    | _ => s
  | none => s

/-- Try the oldest DRAIN whose turn has come again. -/
def retryDrain (k : Nat) (st : Station) (p : Acc → Nat → Bool) (s : State) : State :=
  tryIssued k st (fun a s =>
    match a.stage with
    | .issued r => if p a r then drainTry k st a s else s
    | _ => s) s

/-- Try what waits in a station under one of the reasons that `p` picks: the oldest DRAIN whose turn has come, then the oldest
command that has not begun. -/
def retry (k : Nat) (st : Station) (p : Acc → Nat → Bool) (s : State) : State := retryHead k st p (retryDrain k st p s)

/-- STATION_WAIT_RELEASE: a station that waits on FILLED or FREE (R54). -/
def execStationWaitRelease (k : Nat) (st : Station) (s : State) : Host.Outcome State Fault Refusal :=
  .next (retry k st (fun _ r => r == 2 || r == 3) s)

/-- INTERLOCK_RELEASE: an in-order interlock clears (R107, R190, R403). -/
def execInterlockRelease (k : Nat) (st : Station) (s : State) : Host.Outcome State Fault Refusal :=
  .next (retry k st (fun _ r => r != 2 && r != 3) s)

/-- VECTOR_COMMAND_START: a VECTOR command starts after the busy ticks of the one before it (R175). -/
def execVectorCommandStart (k : Nat) (s : State) : Host.Outcome State Fault Refusal :=
  .next (retry k .vector (fun _ _ => true) s)

/-- ACCUMULATION_COMPLETE: a bank's accumulation is complete, and a drain of it that waited begins (R129). -/
def execAccumulationComplete (k a b : Nat) (s : State) : Host.Outcome State Fault Refusal :=
  let done := (((s.core k).mx.array a).bank (b == 1)).done
  .next (if done ≤ s.coreTick k then
    retry k .matrix (fun x _ => cmdOpcode x.cmd == 0x11 && mxMask x.cmd == a && mxBank x.cmd == (b == 1)) s
  else s)

/-- SPARSE_ACCUMULATION_COMPLETE: the accumulation of a set is complete, and a drain of its pair that waited begins
(R189, R194). -/
def execSparseAccumulationComplete (k set : Nat) (s : State) : Host.Outcome State Fault Refusal :=
  .next (if ((s.core k).sp.set set).done ≤ s.coreTick k then
    retry k .sparse (fun x _ => cmdOpcode x.cmd == 0x05 && spPair x.cmd == set / 2) s
  else s)

/-- DRAW_PHASE_START: the oldest draw phase whose first tick has come begins (R169). -/
def execDrawPhaseStart (k : Nat) (s : State) : Host.Outcome State Fault Refusal :=
  let t := s.coreTick k
  let due := fun (a : Acc) => match a.draw with
    | some d => !d.begun && decide (d.first ≤ t)
    | none => false
  let go := fun (q : StationQ) =>
    { q with acc := mapFirst due (fun a => { a with draw := a.draw.map fun d => { d with begun := true } }) q.acc }
  .next (if stationsOn k s then
    match [Station.matrix, .vector, .sparse].filterMap fun st =>
        ((s.stq k st).acc.find? due).bind fun a => a.draw.map fun d => (d.first, st) with
    | [] => s
    | x :: xs =>
      let st := (xs.foldl (fun b y => if y.1 < b.1 then y else b) x).2
      s.onStq k st go
  else s)

end Sys2Proof.Machine
end

