-- ==== Sys2Proof/Machine/Dispatch.lean ====
section
/-! DEFINITION. The meaning of every command, one arm per row of the table of operations and events. -/

namespace Sys2Proof.Machine

/-- The effect of a command on everything but the queue. -/
def exec (i : Instr) (s : State) : Host.Outcome State Fault Refusal :=
  match i with
  | .add k g rd ra rb => Sys2Proof.Machine.execAdd k g rd ra rb s
  | .sub k g rd ra rb => Sys2Proof.Machine.execSub k g rd ra rb s
  | .and k g rd ra rb => Sys2Proof.Machine.execAnd k g rd ra rb s
  | .or k g rd ra rb => Sys2Proof.Machine.execOr k g rd ra rb s
  | .xor k g rd ra rb => Sys2Proof.Machine.execXor k g rd ra rb s
  | .sll k g rd ra rb => Sys2Proof.Machine.execSll k g rd ra rb s
  | .srl k g rd ra rb => Sys2Proof.Machine.execSrl k g rd ra rb s
  | .sra k g rd ra rb => Sys2Proof.Machine.execSra k g rd ra rb s
  | .min k g rd ra rb => Sys2Proof.Machine.execMin k g rd ra rb s
  | .max k g rd ra rb => Sys2Proof.Machine.execMax k g rd ra rb s
  | .minu k g rd ra rb => Sys2Proof.Machine.execMinu k g rd ra rb s
  | .maxu k g rd ra rb => Sys2Proof.Machine.execMaxu k g rd ra rb s
  | .mul k g rd ra rb => Sys2Proof.Machine.execMul k g rd ra rb s
  | .mulh k g rd ra rb => Sys2Proof.Machine.execMulh k g rd ra rb s
  | .mulhu k g rd ra rb => Sys2Proof.Machine.execMulhu k g rd ra rb s
  | .addi k g rd ra imm => Sys2Proof.Machine.execAddi k g rd ra imm s
  | .andi k g rd ra imm => Sys2Proof.Machine.execAndi k g rd ra imm s
  | .ori k g rd ra imm => Sys2Proof.Machine.execOri k g rd ra imm s
  | .xori k g rd ra imm => Sys2Proof.Machine.execXori k g rd ra imm s
  | .slli k g rd ra sh => Sys2Proof.Machine.execSlli k g rd ra sh s
  | .srli k g rd ra sh => Sys2Proof.Machine.execSrli k g rd ra sh s
  | .srai k g rd ra sh => Sys2Proof.Machine.execSrai k g rd ra sh s
  | .ldimm k g rd ra imm => Sys2Proof.Machine.execLdimm k g rd ra imm s
  | .ld k g rd ra width off => Sys2Proof.Machine.execLd k g rd ra width off s
  | .lds k g rd ra width off => Sys2Proof.Machine.execLds k g rd ra width off s
  | .st k g rs ra width off => Sys2Proof.Machine.execSt k g rs ra width off s
  | .pcmp k g pd ra rb fn => Sys2Proof.Machine.execPcmp k g pd ra rb fn s
  | .plogic k g pd pa pb fn => Sys2Proof.Machine.execPlogic k g pd pa pb fn s
  | .pget k g rd pa => Sys2Proof.Machine.execPget k g rd pa s
  | .br k g off => Sys2Proof.Machine.execBr k g off s
  | .beqz k g ra off => Sys2Proof.Machine.execBeqz k g ra off s
  | .bnez k g ra off => Sys2Proof.Machine.execBnez k g ra off s
  | .bpt k g p off => Sys2Proof.Machine.execBpt k g p off s
  | .bpf k g p off => Sys2Proof.Machine.execBpf k g p off s
  | .call k g off => Sys2Proof.Machine.execCall k g off s
  | .ret k g => Sys2Proof.Machine.execRet k g s
  | .endProg k g => Sys2Proof.Machine.execEndProg k g s
  | .issue k g b ra off => Sys2Proof.Machine.execIssue k g b ra off s
  | .issuer k g b ra rb => Sys2Proof.Machine.execIssuer k g b ra rb s
  | .bundleIssueAfterWait k => Sys2Proof.Machine.execBundleIssueAfterWait k s
  | .waitTick k g t => Sys2Proof.Machine.execWaitTick k g t s
  | .drain k g mask => Sys2Proof.Machine.execDrain k g mask s
  | .drainComplete k => Sys2Proof.Machine.execDrainComplete k s
  | .flagclr k g => Sys2Proof.Machine.execFlagclr k g s
  | .flagclrExecute k => Sys2Proof.Machine.execFlagclrExecute k s
  | .linkcfg k g ra n => Sys2Proof.Machine.execLinkcfg k g ra n s
  | .proof k g scope orSrc andSrc orDst andDst tag => Sys2Proof.Machine.execProof k g scope orSrc andSrc orDst andDst tag s
  | .proofReach k => Sys2Proof.Machine.execProofReach k s
  | .proofRelease inst => Sys2Proof.Machine.execProofRelease inst s
  | .entryProofArrival root => Sys2Proof.Machine.execEntryProofArrival root s
  | .sig k g ra n1 => Sys2Proof.Machine.execSig k g ra n1 s
  | .wait k g ra n1 => Sys2Proof.Machine.execWait k g ra n1 s
  | .signalApply cell => Sys2Proof.Machine.execSignalApply cell s
  | .waitArrival k => Sys2Proof.Machine.execWaitArrival k s
  | .waiterResume k => Sys2Proof.Machine.execWaiterResume k s
  | .lateCtlHold c => Sys2Proof.Machine.execLateCtlHold c s
  | .send k g ep ra rb => Sys2Proof.Machine.execSend k g ep ra rb s
  | .channelMessageWrite k => Sys2Proof.Machine.execChannelMessageWrite k s
  | .sendComplete k => Sys2Proof.Machine.execSendComplete k s
  | .recv k g ep rd => Sys2Proof.Machine.execRecv k g ep rd s
  | .recvWake k => Sys2Proof.Machine.execRecvWake k s
  | .release k g ep => Sys2Proof.Machine.execRelease k g ep s
  | .halt k g => Sys2Proof.Machine.execHalt k g s
  | .undefinedOpcode k w => Sys2Proof.Machine.execUndefinedOpcode k w s
  | .faultClear c slot => Sys2Proof.Machine.execFaultClear c slot s
  | .resume c slot => Sys2Proof.Machine.execResume c slot s
  | .haltReq c slot => Sys2Proof.Machine.execHaltReq c slot s
  | .setmode k => Sys2Proof.Machine.execSetmode k s
  | .load k => Sys2Proof.Machine.execLoad k s
  | .loadb k => Sys2Proof.Machine.execLoadb k s
  | .loadpair k => Sys2Proof.Machine.execLoadpair k s
  | .load32 k => Sys2Proof.Machine.execLoad32 k s
  | .stream k => Sys2Proof.Machine.execStream k s
  | .streami k => Sys2Proof.Machine.execStreami k s
  | .stream32 k => Sys2Proof.Machine.execStream32 k s
  | .streamc k => Sys2Proof.Machine.execStreamc k s
  | .matrixSetidx k => Sys2Proof.Machine.execMatrixSetidx k s
  | .matrixDrain k => Sys2Proof.Machine.execMatrixDrain k s
  | .accumulationComplete k a b => Sys2Proof.Machine.execAccumulationComplete k a b s
  | .interlockRelease k stn => Sys2Proof.Machine.execInterlockRelease k stn s
  | .vectorCommandStart k => Sys2Proof.Machine.execVectorCommandStart k s
  | .vectorAdd k => Sys2Proof.Machine.execVectorAdd k s
  | .vectorSub k => Sys2Proof.Machine.execVectorSub k s
  | .vectorMul k => Sys2Proof.Machine.execVectorMul k s
  | .axpy k => Sys2Proof.Machine.execAxpy k s
  | .vectorMax k => Sys2Proof.Machine.execVectorMax k s
  | .vectorMin k => Sys2Proof.Machine.execVectorMin k s
  | .abs k => Sys2Proof.Machine.execAbs k s
  | .neg k => Sys2Proof.Machine.execNeg k s
  | .cmpgt k => Sys2Proof.Machine.execCmpgt k s
  | .rcp k => Sys2Proof.Machine.execRcp k s
  | .rsqrt k => Sys2Proof.Machine.execRsqrt k s
  | .sqrt k => Sys2Proof.Machine.execSqrt k s
  | .exp2 k => Sys2Proof.Machine.execExp2 k s
  | .log2 k => Sys2Proof.Machine.execLog2 k s
  | .sigmoid k => Sys2Proof.Machine.execSigmoid k s
  | .silu k => Sys2Proof.Machine.execSilu k s
  | .tanh k => Sys2Proof.Machine.execTanh k s
  | .rowdot k => Sys2Proof.Machine.execRowdot k s
  | .colsum k => Sys2Proof.Machine.execColsum k s
  | .rowmax k => Sys2Proof.Machine.execRowmax k s
  | .rownorm k => Sys2Proof.Machine.execRownorm k s
  | .smaxFwd k => Sys2Proof.Machine.execSmaxFwd k s
  | .smaxRescale k => Sys2Proof.Machine.execSmaxRescale k s
  | .smaxNorm k => Sys2Proof.Machine.execSmaxNorm k s
  | .smaxRecomp k => Sys2Proof.Machine.execSmaxRecomp k s
  | .smaxDs k => Sys2Proof.Machine.execSmaxDs k s
  | .statout k => Sys2Proof.Machine.execStatout k s
  | .statin k => Sys2Proof.Machine.execStatin k s
  | .statclr k => Sys2Proof.Machine.execStatclr k s
  | .lvbase k => Sys2Proof.Machine.execLvbase k s
  | .dropout k => Sys2Proof.Machine.execDropout k s
  | .randU k => Sys2Proof.Machine.execRandU k s
  | .randN k => Sys2Proof.Machine.execRandN k s
  | .convert k => Sys2Proof.Machine.execConvert k s
  | .packz k => Sys2Proof.Machine.execPackz k s
  | .unpackz k => Sys2Proof.Machine.execUnpackz k s
  | .compact k => Sys2Proof.Machine.execCompact k s
  | .copy k => Sys2Proof.Machine.execCopy k s
  | .tapout k => Sys2Proof.Machine.execTapout k s
  | .tapclr k => Sys2Proof.Machine.execTapclr k s
  | .vectorSetidx k => Sys2Proof.Machine.execVectorSetidx k s
  | .drawPhaseStart k => Sys2Proof.Machine.execDrawPhaseStart k s
  | .setb k => Sys2Proof.Machine.execSetb k s
  | .sxload k => Sys2Proof.Machine.execSxload k s
  | .spmm k => Sys2Proof.Machine.execSpmm k s
  | .sparseAccumulationComplete k set => Sys2Proof.Machine.execSparseAccumulationComplete k set s
  | .sparseSetidx k => Sys2Proof.Machine.execSparseSetidx k s
  | .sparseDrain k => Sys2Proof.Machine.execSparseDrain k s
  | .rd k ecc => Sys2Proof.Machine.execRd k ecc s
  | .fill k => Sys2Proof.Machine.execFill k s
  | .rdrop k => Sys2Proof.Machine.execRdrop k s
  | .wr k => Sys2Proof.Machine.execWr k s
  | .acc k ecc => Sys2Proof.Machine.execAcc k ecc s
  | .wback k => Sys2Proof.Machine.execWback k s
  | .dmaEntryRelease k id => Sys2Proof.Machine.execDmaEntryRelease k id s
  | .dmaRowArrival pid => Sys2Proof.Machine.execDmaRowArrival pid s
  | .dmaBankAccessStart c bank ecc => Sys2Proof.Machine.execDmaBankAccessStart c bank ecc s
  | .wbackAckArrival pid => Sys2Proof.Machine.execWbackAckArrival pid s
  | .tileFilled k stn => Sys2Proof.Machine.execTileFilled k stn s
  | .slotFreed k n => Sys2Proof.Machine.execSlotFreed k n s
  | .stationWaitRelease k stn => Sys2Proof.Machine.execStationWaitRelease k stn s
  | .transferRetire k stn => Sys2Proof.Machine.execTransferRetire k stn s
  | .ksend k => Sys2Proof.Machine.execKsend k s
  | .ksendRowAccept k target => Sys2Proof.Machine.execKsendRowAccept k target s
  | .krecv k => Sys2Proof.Machine.execKrecv k s
  | .kneadRowArrival pid => Sys2Proof.Machine.execKneadRowArrival pid s
  | .landingRowWrite lid => Sys2Proof.Machine.execLandingRowWrite lid s
  | .binj k => Sys2Proof.Machine.execBinj k s
  | .braidTileArrival k => Sys2Proof.Machine.execBraidTileArrival k s
  | .braidForward k => Sys2Proof.Machine.execBraidForward k s
  | .routerPacketArrival pid ecc => Sys2Proof.Machine.execRouterPacketArrival pid ecc s
  | .stackRequest n ecc => Sys2Proof.Machine.execStackRequest n ecc s
  | .dramRefresh n => Sys2Proof.Machine.execDramRefresh n s
  | .maintSlotOpen n => Sys2Proof.Machine.execMaintSlotOpen n s
  | .maintSlotClose n => Sys2Proof.Machine.execMaintSlotClose n s
  | .backgroundScrub n ecc => Sys2Proof.Machine.execBackgroundScrub n ecc s
  | .progressWatchdog pid => Sys2Proof.Machine.execProgressWatchdog pid s
  | .holdFreeze c => Sys2Proof.Machine.execHoldFreeze c s
  | .holdThaw c => Sys2Proof.Machine.execHoldThaw c s
  | .holdLimit => Sys2Proof.Machine.execHoldLimit s
  | .braidCreditCauseClear c => Sys2Proof.Machine.execBraidCreditCauseClear c s
  | .thermalCauseClear => Sys2Proof.Machine.execThermalCauseClear s
  | .powerOverdraw budget => Sys2Proof.Machine.execPowerOverdraw budget s
  | .overdrawCauseClear budget => Sys2Proof.Machine.execOverdrawCauseClear budget s
  | .latticeRow port h row => Sys2Proof.Machine.execLatticeRow port h row s
  | .latticeSig port h => Sys2Proof.Machine.execLatticeSig port h s
  | .latticeProofArrive port h => Sys2Proof.Machine.execLatticeProofArrive port h s
  | .latticeProofRelease port h => Sys2Proof.Machine.execLatticeProofRelease port h s
  | .fabricProofReleaseTime => Sys2Proof.Machine.execFabricProofReleaseTime s
  | .latticeAck port fseq credits => Sys2Proof.Machine.execLatticeAck port fseq credits s
  | .latticeNak port fseq => Sys2Proof.Machine.execLatticeNak port fseq s
  | .latticeStale port epoch => Sys2Proof.Machine.execLatticeStale port epoch s
  | .latticeIdle port => Sys2Proof.Machine.execLatticeIdle port s
  | .latticeCodewordUncorrectable port => Sys2Proof.Machine.execLatticeCodewordUncorrectable port s
  | .portTrainingComplete port t => Sys2Proof.Machine.execPortTrainingComplete port t s
  | .snapshotRecordArrival row => Sys2Proof.Machine.execSnapshotRecordArrival row s
  | .traceRowWrite k => Sys2Proof.Machine.execTraceRowWrite k s
  | .plannedTraceTurn k => Sys2Proof.Machine.execPlannedTraceTurn k s
  | .monitorLevelSample readings => Sys2Proof.Machine.execMonitorLevelSample readings s
  | .monitorWindowSample => Sys2Proof.Machine.execMonitorWindowSample s
  | .monLatch m => Sys2Proof.Machine.execMonLatch m s
  | .monClear m => Sys2Proof.Machine.execMonClear m s
  | .monLatchClear m => Sys2Proof.Machine.execMonLatchClear m s
  | .commandPacketArrival face pkt => Sys2Proof.Machine.execCommandPacketArrival face pkt s
  | .hostLinkAck fseq hdrCredits payCredits => Sys2Proof.Machine.execHostLinkAck fseq hdrCredits payCredits s
  | .hostLinkNak fseq => Sys2Proof.Machine.execHostLinkNak fseq s
  | .hostFillFrame => Sys2Proof.Machine.execHostFillFrame s
  | .hostCodewordUncorrectable => Sys2Proof.Machine.execHostCodewordUncorrectable s
  | .hostLinkRetrain trained => Sys2Proof.Machine.execHostLinkRetrain trained s
  | .identify => Sys2Proof.Machine.execIdentify s
  | .echo => Sys2Proof.Machine.execEcho s
  | .regRead => Sys2Proof.Machine.execRegRead s
  | .regWrite => Sys2Proof.Machine.execRegWrite s
  | .resetWarm => Sys2Proof.Machine.execResetWarm s
  | .resetCold => Sys2Proof.Machine.execResetCold s
  | .resetShutdown => Sys2Proof.Machine.execResetShutdown s
  | .events => Sys2Proof.Machine.execEvents s
  | .ctxLoad => Sys2Proof.Machine.execCtxLoad s
  | .jobLaunch => Sys2Proof.Machine.execJobLaunch s
  | .jobAbort => Sys2Proof.Machine.execJobAbort s
  | .abortPoint ctx => Sys2Proof.Machine.execAbortPoint ctx s
  | .abortReply ctx => Sys2Proof.Machine.execAbortReply ctx s
  | .ctxSwitch => Sys2Proof.Machine.execCtxSwitch s
  | .ctxRestore => Sys2Proof.Machine.execCtxRestore s
  | .ctxFree => Sys2Proof.Machine.execCtxFree s
  | .ctxStatus => Sys2Proof.Machine.execCtxStatus s
  | .starterArm => Sys2Proof.Machine.execStarterArm s
  | .starterSummary => Sys2Proof.Machine.execStarterSummary s
  | .starterRelease => Sys2Proof.Machine.execStarterRelease s
  | .bulkWrite => Sys2Proof.Machine.execBulkWrite s
  | .bulkRead ecc => Sys2Proof.Machine.execBulkRead ecc s
  | .bulkFill => Sys2Proof.Machine.execBulkFill s
  | .traceCtl => Sys2Proof.Machine.execTraceCtl s
  | .attestReport => Sys2Proof.Machine.execAttestReport s
  | .attestCertificate => Sys2Proof.Machine.execAttestCertificate s
  | .sessionOpen => Sys2Proof.Machine.execSessionOpen s
  | .sessionClose => Sys2Proof.Machine.execSessionClose s
  | .releaseList => Sys2Proof.Machine.execReleaseList s
  | .lifecycleProvision => Sys2Proof.Machine.execLifecycleProvision s
  | .lifecycleDeploy => Sys2Proof.Machine.execLifecycleDeploy s
  | .lifecycleRetire => Sys2Proof.Machine.execLifecycleRetire s
  | .sealedLock => Sys2Proof.Machine.execSealedLock s
  | .rekey => Sys2Proof.Machine.execRekey s
  | .rekeyChunkComplete => Sys2Proof.Machine.execRekeyChunkComplete s
  | .scrub => Sys2Proof.Machine.execScrub s
  | .memtest => Sys2Proof.Machine.execMemtest s
  | .fwUpdate => Sys2Proof.Machine.execFwUpdate s
  | .configWrite r => Sys2Proof.Machine.execConfigWrite r s
  | .configApplyReset => Sys2Proof.Machine.execConfigApplyReset s
  | .opStatus => Sys2Proof.Machine.execOpStatus s
  | .opCancel => Sys2Proof.Machine.execOpCancel s
  | .cancelPoint op => Sys2Proof.Machine.execCancelPoint op s
  | .operationComplete op e => Sys2Proof.Machine.execOperationComplete op e s
  | .fabricBringup => Sys2Proof.Machine.execFabricBringup s
  | .portRetrain => Sys2Proof.Machine.execPortRetrain s
  | .portDisable => Sys2Proof.Machine.execPortDisable s
  | .epochSet => Sys2Proof.Machine.execEpochSet s
  | .contextDone ctx => Sys2Proof.Machine.execContextDone ctx s
  | .setEndpointId src eid => Sys2Proof.Machine.execSetEndpointId src eid s
  | .getEndpointId src => Sys2Proof.Machine.execGetEndpointId src s
  | .getMctpVersionSupport src => Sys2Proof.Machine.execGetMctpVersionSupport src s
  | .getMessageTypeSupport src => Sys2Proof.Machine.execGetMessageTypeSupport src s
  | .getVendorDefinedMessageSupport src => Sys2Proof.Machine.execGetVendorDefinedMessageSupport src s
  | .inputPowerStable mV => Sys2Proof.Machine.execInputPowerStable mV s
  | .inputBelowAux mV => Sys2Proof.Machine.execInputBelowAux mV s
  | .inputOutOfRange mV => Sys2Proof.Machine.execInputOutOfRange mV s
  | .coolantOkStable r => Sys2Proof.Machine.execCoolantOkStable r s
  | .plausibilityRetry r => Sys2Proof.Machine.execPlausibilityRetry r s
  | .coolantOkLoss => Sys2Proof.Machine.execCoolantOkLoss s
  | .resetNRelease => Sys2Proof.Machine.execResetNRelease s
  | .selfCheck o => Sys2Proof.Machine.execSelfCheck o s
  | .thermalGuardReading r => Sys2Proof.Machine.execThermalGuardReading r s
  | .thermalRaise => Sys2Proof.Machine.execThermalRaise s
  | .crossingMarginLost x => Sys2Proof.Machine.execCrossingMarginLost x s
  | .crossingTrimStep x up => Sys2Proof.Machine.execCrossingTrimStep x up s
  | .mgmtWatchdogExpiry => Sys2Proof.Machine.execMgmtWatchdogExpiry s
  | .tamperResponse sensor => Sys2Proof.Machine.execTamperResponse sensor s
  | .crumbFlashCommit seq => Sys2Proof.Machine.execCrumbFlashCommit seq s
  | .auxiliaryDomainStart mV => Sys2Proof.Machine.execAuxiliaryDomainStart mV s
  | .portLaneLoss port lanes => Sys2Proof.Machine.execPortLaneLoss port lanes s
  | .latticeReplayFrame port fseq => Sys2Proof.Machine.execLatticeReplayFrame port fseq s
  | .hostReplayFrame fseq => Sys2Proof.Machine.execHostReplayFrame fseq s

end Sys2Proof.Machine
end

