-- ==== Sys2Proof/Machine/Tick.lean ====
section
/-! DEFINITION. One clock tick of the block, which a step takes when no command waits (log entry 13): what is counted at the end of
a tick, then the next tick with what happens in it by the clock alone (R13, R36, R206, R306, R321, R357, R403–R406, R409,
R413, R441). What the manual gives an event row of its own is left to that row, but for the freezing and the thawing of islands, which
the ticks of a Hold depend on. -/

namespace Sys2Proof.Machine

/-- Ticks in which an access of the DMA path that had arrived waited for a bank (R229). -/
def dmaWaitTick (s : State) : State :=
  s.enabled.foldl (fun s c =>
    if (s.cluster c).bankQ.all fun a => decide (s.now < a.atT) then s
    else s.onCluster c fun y => { y with dmaWait := satAdd max32 y.dmaWait 1 }) s

/-- CHANNEL_FULL ticks of the endpoint on which a core's SEND waits for room (R290, R403). -/
def fullTick (s : State) : State :=
  s.allCores.foldl (fun s k =>
    match (s.core k).seq.wait with
    | .send ep .travelling =>
      if (coreClass s k).isNone && seqClass s k = 10 then
        s.onCore k fun c => { c with tx := mmod c.tx ep.toNat {} fun e => { e with full := satAdd max32 e.full 1 } }
      else s
    | _ => s) s

/-- Rows that a sequential read has given back by now no longer hold a reader back (R215, R296). -/
def purgeTick (s : State) : State :=
  s.enabled.foldl (fun s c =>
    let t := s.ticks c
    let gone := fun (e : Nat × Nat × Nat × Nat) => e.2.2.2 != 0 && decide (e.2.2.2 ≤ t)
    if (s.cluster c).rings.any fun r => r.2.defer.any gone then
      s.onCluster c fun y =>
        { y with rings := y.rings.map fun r => (r.1, { r.2 with defer := r.2.defer.filter fun e => !gone e }) }
    else s) s

/-- A SYNC at every 4,096th phase tick of a core that takes part in the phase (R413). -/
def syncTick (s : State) : State :=
  if s.traced then
    s.allCores.foldl (fun s k =>
      let q := (s.core k).seq.st
      if (q == .running || q == .proofWait || q == .halted) && !s.coreFrozen k && s.phase k % 4096 == 0 && s.phase k != 0 then
        traceSync k s
      else s) s
  else s

/-- An island freezes in the very tick in which the propagation of a Hold reaches it, and thaws in the tick of R331, before anything
else of that tick takes place in it; HOLD_FREEZE and HOLD_THAW of that tick find it done (R330–R332). -/
def islandTick (s : State) : State :=
  if s.hold.eps.isEmpty then s else (List.range nIslands).foldl (fun s c => holdFreeze c (holdThaw c s)) s

/-- The reserved engine cycles of every island that runs (R206, R332). -/
def engineTick (s : State) : State :=
  s.enabled.foldl (fun s c => if s.frozen c then s else engineTidy c (engineRun c s)) s

/-- Events leave as soon as their interface carries them (R424, R442, R444). -/
def eventTick (s : State) : State :=
  s.onHost fun h => flushEvents .mgmt (if h.link = .up && h.out.isEmpty then flushEvents .renkai h else h)

/-- The re-encryption sweep goes on by a row at most; when it does is a free value (log entry 2, R399, R476). -/
def rekeyTick (s : State) : State :=
  if sweeping s then
    let (w, s1) := s.drawFree
    s1.onSec fun x => { x with rekeyRow := min 2097151 (x.rekeyRow + bnat (w.getLsbD 0)) }
  else s

/-- The accesses of the DMA path that are over in this tick, in every cluster (R207). -/
def dmaTick (s : State) : State := s.enabled.foldl (fun s c => dmaFinish c s) s

/-- Every KNEAD station reads on (R296). -/
def pumpTick (s : State) : State := s.allCores.foldl (fun s k => ksPump k s) s

/-- The samples of the tick that ends enter their monitors (R418). -/
def settleTick (s : State) : State := { s with mon := s.mon.settle }

/-- What is counted and recorded at the end of the tick in which the block stands. -/
def countTick (s : State) : State := settleTick (obsTick (meterTick (holdTick (dmaWaitTick (fullTick (censusTick (fineTick s)))))))

/-- The next tick begins: the module's clock and, while the main domain is powered, the fabric time (R13, R315). -/
def nextTick (s : State) : State :=
  { s with now := s.now + 1, fab := { s.fab with ftime := s.fab.ftime + bnat s.mgmt.main } }

/-- What comes first in a tick: Holds, a register access, a change that its commit preceded, and the points that lie behind (R18, R330,
R331, R384, R433, R441, R453). -/
def firstTick (s : State) : State := pointTick (changeTick (regTick (islandTick s)))

/-- What the cores and the cluster memories do by the clock: cycles that are over, faults, sends, engine cycles, messages. -/
def coreTicks (s : State) : State := ctlTick (engineTick (pumpTick (stopTick (faultTick (dmaTick s)))))

/-- What the links do by the clock. -/
def linkTicks (s : State) : State := portTick (sideTick (hostTick (bulkTick s)))

/-- What else goes by the clock. -/
def lastTicks (s : State) : State := crumbTick (applyTick (rekeyTick (eventTick (syncTick (purgeTick s)))))

/-- One tick. Without the auxiliary domain nothing runs (R478). -/
def tick (s : State) : State :=
  if s.mgmt.aux then lastTicks (linkTicks (coreTicks (firstTick (nextTick (countTick s))))) else s

end Sys2Proof.Machine
end

