-- ==== Sys2Proof/Safety.lean ====
section
/-! DEFINITION. The terms of the claims: when a command of each family acts, and what every step keeps: the step answers a
next state, and the Tally store, whose changes are for ever, stays within its ceilings (R452, R457). -/

namespace Sys2Proof.Machine

/-- The step stops with neither a fault nor a refusal. -/
def State.runs (s : State) : Prop := ∃ t, step s = .next t

/-! ### The sequencer -/

/-- The core fetches the instruction at its PC, outside a bundle: it is RUNNING, not frozen and not waiting, its tick has
come, and the word lies in the code region with good parity (R66, R68, R72, R73, R77). -/
def seqFetch (k : Nat) (s : State) : Bool :=
  seqFree k s && (s.core k).inCode (s.core k).seq.pc.toNat 4 && !(s.core k).parityBad (s.core k).seq.pc.toNat 4 &&
    (s.core k).seq.bundle.isEmpty

/-- The instruction executes: it is fetched, its guard is true, and its source registers are usable (R62, R66). -/
def seqRuns (k : Nat) (g : Guard) (srcs : List (BitVec 5)) (s : State) : Bool :=
  seqFetch k s && (s.core k).seq.guard g && (s.core k).seq.usable srcs (s.coreTick k)

/-- The state in which a guarded instruction acts: its outcome has entered the trace of a traced job (R413). -/
def guardTraced (k : Nat) (g : Guard) (s : State) : State := if guardAlways g then s else traceOutcome k true s

/-- A register result: the register has the value, usable `lat` ticks on; the PC is 4 further, and the next instruction may
execute one tick on (R60, R65, R66). -/
def withResult (k : Nat) (rd : BitVec 5) (v : Word) (lat : Nat) (s : State) : State :=
  s.onSeq k fun q =>
    { q with
      regs := if rd = 0 then q.regs else mset q.regs rd.toNat v
      regReady := if rd = 0 then q.regReady else mset q.regReady rd.toNat (s.coreTick k + lat)
      pc := q.pc + 4, ready := s.coreTick k + 1, tickAt := none }

/-- Ticks from a load or a multiply to the use of its result: 3, or 4 in a binary of table 0x0A01 (R66). -/
def slowResult (s : State) : Nat := if s.curCtx.bin.ttId = 0x0A01#16 then 4 else 3

/-- The core has stopped with this fault: FAULTED, and the record names the fault, the sequencer, and the instruction; no
earlier record was there (R79, R81, R94). -/
def seqFaulted (k : Nat) (code : BitVec 8) (detail : Word) (pcWord : BitVec 16) (t : State) : Prop :=
  (t.core k).seq.st = .faulted ∧ (t.core k).fault.valid = true ∧ (t.core k).fault.code = code ∧
    (t.core k).fault.detail = detail ∧ (t.core k).fault.pcWord = pcWord ∧ (t.core k).fault.station = 0 ∧
    (t.core k).fault.more = 0
/-- The local-store address of a load or store of `n` bytes: register plus offset in units of the width, modulo 2⁶⁴. -/
def lsPlace (base : Word) (n : Nat) (off : BitVec 10) : Nat := ((base.toInt + off.toInt * n) % 2 ^ 64).toNat

/-- What a load or store of core `k` does at the end of its access: the PC is 4 further and one tick has gone. -/
def seqPast (q : Seq) (tick : Nat) : Seq := { q with pc := q.pc + 4, ready := tick + 1, tickAt := none }

/-- Only core `k`, the Holds, the contexts, the host interface, the module state and the Crumb Log may differ. -/
def besideFault (k : Nat) (s t : State) : Prop :=
  (∀ j, j ≠ k → t.core j = s.core j) ∧ t.mem = s.mem ∧ t.pending = s.pending ∧ t.now = s.now ∧ t.sync = s.sync ∧
    t.ports = s.ports ∧ t.sec.tally = s.sec.tally ∧ t.drams = s.drams ∧ t.proof = s.proof
/-- The state of one station's queue after one more command is accepted: at its end, not begun, with the word address of its
instruction and the tick of acceptance; the other stations stand as they did (R50, R70). -/
def acceptsOne (k : Nat) (st : Station) (cmd : Cmd) (pcw : Nat) (s t : State) : Prop :=
  ∃ a : Acc, a.cmd = cmd ∧ a.pcw = pcw ∧ a.atT = s.coreTick k ∧ a.stage = .queued ∧ a.part = [] ∧ a.rest = [] ∧
    (t.core k).stn = (s.core k).stn.setQ st { s.stq k st with acc := (s.stq k st).acc ++ [a] }

/-- What the issue of station commands leaves: registers, predicates, local store, links, station state and results so far. -/
def issueKeeps (k : Nat) (s t : State) : Prop :=
  (t.core k).seq.regs = (s.core k).seq.regs ∧ (t.core k).seq.preds = (s.core k).seq.preds ∧
    (t.core k).seq.stack = (s.core k).seq.stack ∧ (t.core k).ls = (s.core k).ls ∧ (t.core k).links = (s.core k).links ∧
    (t.core k).mx = (s.core k).mx ∧ (t.core k).vec = (s.core k).vec ∧ (t.core k).sp = (s.core k).sp ∧
    (t.core k).slotMem = (s.core k).slotMem ∧ (∀ j, j ≠ k → t.core j = s.core j) ∧ t.mem = s.mem ∧ t.clusters = s.clusters ∧
    t.sync = s.sync ∧ t.proof = s.proof ∧ t.ctxs = s.ctxs

/-- The stations of a core that a mask names hold no outstanding transfer (R65). -/
def drained (k : Nat) (mask : BitVec 6) (s : State) : Prop :=
  ∀ st : Station, mask.getLsbD ((stCode st).toNat - 1) = true → (s.stq k st).outstanding (s.coreTick k) = []

/-- The core waits and can go on: RUNNING, not frozen (R77, R332). -/
def seqAwake (k : Nat) (s : State) : Prop := (s.core k).seq.st = .running ∧ s.coreFrozen k = false

/-! ### Bundles (R68–R70) -/

/-- The word at the PC is an ISSUE or ISSUER with this guard and `B`, whose guard is true, and it reads this command: ISSUE the
16 bytes at its register plus 16 times its offset, aligned, in the code or data region, with good parity; ISSUER its two registers
(R62, R66, R68, R73). -/
def issueReads (k : Nat) (g : Guard) (b : Bool) (cmd : Cmd) (i : Instr) (s : State) : Prop :=
  let c := s.core k
  s.names k i = true ∧ c.seq.guard g = true ∧
    ((∃ (ra : BitVec 5) (off : BitVec 16), i = .issue k g b ra off ∧ c.seq.usable [ra] (s.coreTick k) = true ∧
        let a := (c.seq.reg ra + BitVec.ofNat 64 (16 * off.toNat)).toNat
        a % 16 = 0 ∧ (c.inData a 16 || c.inCode a 16) = true ∧ c.parityBad a 16 = false ∧
          cmd = BitVec.ofNat 128 (leNat (memBytes c.ls a 16))) ∨
      ∃ ra rb : BitVec 5, i = .issuer k g b ra rb ∧ c.seq.usable [ra, rb] (s.coreTick k) = true ∧
        cmd = c.seq.reg ra ++ c.seq.reg rb)

/-- The word at the PC is an ISSUE or ISSUER with this guard and `B`, whose guard is false: it reads no template (R68). -/
def issueSkips (k : Nat) (g : Guard) (b : Bool) (i : Instr) (s : State) : Prop :=
  s.names k i = true ∧ (s.core k).seq.guard g = false ∧
    ((∃ (ra : BitVec 5) (off : BitVec 16), i = .issue k g b ra off) ∨ ∃ ra rb : BitVec 5, i = .issuer k g b ra rb)

/-- The core reads the ISSUE or ISSUER at its PC as one more instruction of its bundle, and what it adds: its word address, its
guard, and its command if the guard is true; `u` is the state with its outcome in the trace (R62, R68, R77, R413). -/
def bundleReads (k : Nat) (g : Guard) (b : Bool) (x : BundleItem) (i : Instr) (s u : State) : Prop :=
  let c := s.core k
  seqFree k s = true ∧ c.inCode c.seq.pc.toNat 4 = true ∧ c.parityBad c.seq.pc.toNat 4 = false ∧ x.pcw = c.seq.pc.toNat / 4 ∧
    ((x.guard = true ∧ (∃ cmd, x.cmd = some cmd ∧ issueReads k g b cmd i s) ∧ u = guardTraced k g s) ∨
      (x.guard = false ∧ x.cmd = none ∧ issueSkips k g b i s ∧ u = traceOutcome k false s))

/-- The core comes to the end of a bundle, at its last instruction, whose `B` is 0, or after the bundle has waited (R68, R70). -/
def bundleComes (k : Nat) (i : Instr) (items : List BundleItem) (s u : State) : Prop :=
  (∃ g x, bundleReads k g false x i s u ∧ items = (s.core k).seq.bundle ++ [x]) ∨
    (i = .bundleIssueAfterWait k ∧ (s.core k).seq.wait = .bundle items ∧ seqAwake k s ∧ u = s)

/-- The commands of a bundle that name a station code, each with the word address of its instruction. -/
def bundleNamed (items : List BundleItem) (code : Nat) : List (Cmd × Nat) :=
  items.filterMap fun x => x.cmd.bind fun c => if cmdStation c = code then some (c, x.pcw) else none

/-- The bundle obeys its limits, each station it names has a place, and its commands pass the checks (R68–R70). -/
def bundleFits (k : Nat) (items : List BundleItem) (s u : State) : Prop :=
  (∀ st : Station, (bundleNamed items (stCode st).toNat).length ≤ 1 ∧
    (bundleNamed items (stCode st).toNat ≠ [] → ((s.stq k st).outstanding (s.coreTick k)).length < 4)) ∧
  ∀ x ∈ items, ∀ c, x.cmd = some c → cmdError u k c = none

/-- The bundle has been issued: the sequencer is past it, one tick on, and each station has taken its command (R50, R68). -/
def bundleIssued (k : Nat) (b : BundleItem) (rest : List BundleItem) (s t : State) : Prop :=
  (t.core k).seq.pc = BitVec.ofNat 18 (4 * (b.pcw + rest.length + 1)) ∧ (t.core k).seq.ready = s.coreTick k + 1 ∧
    (t.core k).seq.wait = .none ∧ (t.core k).seq.bundle = [] ∧
    ∀ st : Station, (t.stq k st).acc.map (fun a => (a.cmd, a.pcw)) =
      (s.stq k st).acc.map (fun a => (a.cmd, a.pcw)) ++ bundleNamed (b :: rest) (stCode st).toNat
/-- A register names a virtual ID that the running context maps to a cell on which the core may make this operation (R268). -/
def syncNames (k : Nat) (ra : BitVec 5) (wait : Bool) (s : State) : Bool :=
  decide (((s.core k).seq.reg ra).toNat < 2 ^ 20) && xlValid (s.xlatEntry ((s.core k).seq.reg ra).toNat) &&
    syncAllowed s k (s.xlatEntry ((s.core k).seq.reg ra).toNat) wait

/-- One CTL packet has entered plane 0 at a router, for another one, with the next packet number (R233, R239). -/
def ctlLeaves (src dst units k : Nat) (s t : State) : Prop :=
  ∃ p : Pkt, t.pkts = s.pkts ++ [p] ∧ t.nextId = s.nextId + 1 ∧ p.id = s.nextId ∧ p.kind = .ctl ∧ p.plane = 0 ∧ p.vc = 2 ∧
    p.src = src ∧ p.dst = dst ∧ p.rows = units ∧ p.core = some k ∧ p.path = src :: s.route src dst ∧ p.ready = s.now + 3
/-- A core that waited at a Proof has been released with these words: it runs, past the PROOF, at phase tick 0,
and executes its next instruction in that tick if its island is not frozen; the two result registers hold the words; every
enabled link is empty, with all its slots free (R36, R41, R42, R75). -/
def coreReleased (k : Nat) (orW andW : BitVec 32) (s t : State) : Prop :=
  let q := (s.core k).seq
  (t.core k).seq.st = .running ∧ (t.core k).seq.pc = q.pc + 8 ∧ (t.core k).seq.phase0 = s.coreTick k ∧ t.phase k = 0 ∧
    (t.coreFrozen k = false → seqFree k t = true) ∧
    (t.core k).seq.wait = .none ∧ (t.core k).seq.preds = q.preds ∧ (t.core k).seq.stack = q.stack ∧
    (∀ r : BitVec 5, (t.core k).seq.reg r =
      if r = 0 then 0 else if r = q.proof.andDst then andW.zeroExtend 64 else if r = q.proof.orDst then orW.zeroExtend 64
      else q.reg r) ∧
    (∀ n l, mfind (s.core k).links n = some l → l.cfg.getLsbD 31 = true →
      (t.core k).link n = { cfg := l.cfg, filled := 0, free := linkDepth l.cfg, cons := 0, prod := 0, status := [] }) ∧
    (t.core k).ls = (s.core k).ls

/-- A core at a Proof, as a release finds it: it waits there, no halt is asked for, and its two results name two registers or
none. -/
def awaitsRelease (k : Nat) (s : State) : Prop :=
  (s.core k).seq.st = .proofWait ∧ (s.core k).seq.haltAt = false ∧
    ((s.core k).seq.proof.orDst ≠ (s.core k).seq.proof.andDst ∨ (s.core k).seq.proof.orDst = 0)

/-- A full ring holds units of a message in the routers (R284). -/
def ringHolds (s : State) : Prop := s.pkts.any (heldMsg s.msgRoom s) = true
/-! ### Stations -/

/-- The oldest command of a station that has not begun is `a`, with this opcode; the station works, the command's links let it
begin, and the station is free (R50, R54, R81). -/
def comesUp (k : Nat) (st : Station) (a : Acc) (opcode : Nat) (ins outs : List Nat) (s : State) : Prop :=
  (s.stq k st).head = some a ∧ stationsOn k s = true ∧ cmdOpcode a.cmd = opcode ∧ linkWait (s.core k) ins outs = none ∧
    (s.stq k st).busy ≤ s.coreTick k

/-- The oldest command of the station has begun and retires in this island tick; no other command changed (R50, R70). -/
def begun (k : Nat) (st : Station) (retire : Nat) (s t : State) : Prop :=
  (t.stq k st).acc = mapFirst Acc.waiting (fun a => { a with stage := .running retire }) (s.stq k st).acc ∧
    ∀ y, y ≠ st → t.stq k y = s.stq k y

/-- One slot was taken from each input link named, to be free again in tick `due`; and these tiles are on their way into the
slots of their links, each of which has one free slot less (R52, R53). -/
def linksMoved (k : Nat) (ins : List Nat) (due : Nat) (tiles : List OutTile) (s t : State) : Prop :=
  (t.core k).stn.frees = (s.core k).stn.frees ++ ins.map (fun n => (n, due)) ∧
    (t.core k).stn.outs = (s.core k).stn.outs ++ tiles ∧
    ∀ n, ((t.core k).link n).cfg = ((s.core k).link n).cfg ∧
      ((t.core k).link n).filled = ((s.core k).link n).filled - ins.count n ∧
      ((t.core k).link n).free = ((s.core k).link n).free - (tiles.map (·.link)).count n

/-- What a command of a computing station leaves: all but the links, the stations and the token meter of its core. -/
def stationKeeps (k : Nat) (s t : State) : Prop :=
  t = { s with cores := t.cores, meter := t.meter } ∧ (∀ j, j ≠ k → t.core j = s.core j) ∧
    t.core k = { s.core k with stn := (t.core k).stn, links := (t.core k).links, mx := (t.core k).mx, vec := (t.core k).vec
                               lv := (t.core k).lv, sp := (t.core k).sp }

/-- A MATRIX command of core `k` has begun, has taken its input slots, and no station but MATRIX changed. -/
def matrixActs (k : Nat) (ins : List Nat) (retire : Nat) (tiles : List OutTile) (s t : State) : Prop :=
  begun k .matrix retire s t ∧ linksMoved k ins retire tiles s t ∧ stationKeeps k s t ∧ (t.core k).vec = (s.core k).vec ∧
    (t.core k).lv = (s.core k).lv ∧ (t.core k).sp = (s.core k).sp

/-- No DRAIN of this bank waits (R121). -/
def noDrainOf (k n : Nat) (b : Bool) (s : State) : Prop :=
  ∀ y ∈ (s.stq k .matrix).acc, y.issued = true → ¬(mxMask y.cmd = n ∧ mxBank y.cmd = b)

/-- The station works, and `a` is the DRAIN it comes to: the oldest command that has not begun, while no DRAIN waits and the station
is free, or the oldest DRAIN that waits, while no other one comes to its turn (R50, R121, R195). -/
def drainComes (k : Nat) (st : Station) (a : Acc) (opcode : Nat) (s : State) : Prop :=
  stationsOn k s = true ∧ cmdOpcode a.cmd = opcode ∧
    (((s.stq k st).issued = none ∧ (s.stq k st).head = some a ∧ (s.stq k st).busy ≤ s.coreTick k) ∨
      ((s.stq k st).issued = some a ∧ ∀ h, (s.stq k st).head = some h → cmdOpcode h.cmd ≠ opcode))

/-- The queue of a station with this stage for the DRAIN it comes to. -/
def drainStage (q : StationQ) (x : Stage) : List Acc :=
  mapFirst (if q.issued.isNone then Acc.waiting else Acc.issued) (fun a => { a with stage := x }) q.acc

/-- The DRAIN that a station comes to has begun and retires in tick `due`, when its tile shows: the tile is on its way, and nothing
else of the core changed but what belongs to the station (R50, R52, R53). -/
def drainActs (k : Nat) (st : Station) (due : Nat) (tile : OutTile) (s t : State) : Prop :=
  (t.stq k st).acc = drainStage (s.stq k st) (.running due) ∧ (∀ y, y ≠ st → t.stq k y = s.stq k y) ∧
    linksMoved k [] due [tile] s t ∧ stationKeeps k s t ∧ (t.core k).lv = (s.core k).lv

/-- The DRAIN that a station comes to waits, for a free slot of its link or for a tick, and is no longer in the way of the commands
behind it (R121, R195, R403). -/
def drainWaits (k : Nat) (st : Station) (out : Nat) (s : State) : State :=
  s.onStq k st fun q => { q with acc := drainStage q (.issued ((linkWait (s.core k) [] [out]).getD 15)) }
/-- A VECTOR command of core `k` has begun: it has taken its input slots, its tile, if it writes one, is on its way into the
output slot with the encodings that its elements carry, if it is a tile of records, and the station is busy to the end of its busy
ticks. The tile is tapped as the command's `TAP` says, except that of STATOUT and TAPOUT (R52, R161, R175). -/
def vectorActsWith (k : Nat) (a : Acc) (out : Option (Bytes × TileStatus)) (kept : Option (List Nat)) (s t : State) : Prop :=
  let tick := s.coreTick k
  begun k .vector (vDone s a tick) s t ∧ (t.stq k .vector).busy = vBusyEnd s a tick ∧ stationKeeps k s t ∧
    (t.core k).mx = (s.core k).mx ∧ (t.core k).sp = (s.core k).sp ∧
    ∃ tiles, linksMoved k (vIns a.cmd) (vBusyEnd s a tick) tiles s t ∧
      match out with
      | none => tiles = []
      | some y => ∃ x : OutTile, tiles = [x] ∧ x.data = y.1 ∧ x.status = y.2 ∧ x.due = vDone s a tick ∧ x.st = .vector ∧
          x.link = cmdOut a.cmd ∧ x.slot = ((s.core k).link (cmdOut a.cmd)).prod ∧ x.layer = cmdLayer a.cmd ∧
          x.op = cmdOp a.cmd ∧ x.fmt.toNat = vFmtOut a.cmd ∧ x.kept = kept ∧
          x.tap = (if cmdOpcode a.cmd = 0x25 ∨ cmdOpcode a.cmd = 0x38 then 0 else BitVec.ofNat 2 (vTap a.cmd))

/-- A VECTOR command whose tile, if it writes one, is plain. -/
def vectorActs (k : Nat) (a : Acc) (out : Option (Bytes × TileStatus)) (s t : State) : Prop := vectorActsWith k a out none s t

/-- The VECTOR command comes up, and its statistics set, if it uses one, has its last update (R163, R175). -/
def vectorComesUp (k : Nat) (a : Acc) (opcode : Nat) (s : State) : Prop :=
  comesUp k .vector a opcode (vIns a.cmd) (vOuts a.cmd) s ∧
    (vUsesSet opcode = true → mget (s.core k).vec.setDone (vSet a.cmd) 0 ≤ s.coreTick k)

/-- The rows of a statistics set of VECTOR, after a command that updated them; the other sets, ORIGIN and PITCH stay. -/
def statsBecome (k : Nat) (a : Acc) (row : Nat → StatRow) (s t : State) : Prop :=
  let v := (s.core k).vec
  let v' := (t.core k).vec
  (∀ r, r < 32 → statRow v' (vSet a.cmd) r = row r) ∧
    (∀ n r, n ≠ vSet a.cmd → r < 32 → statRow v' n r = statRow v n r) ∧ v'.origin = v.origin ∧ v'.pitch = v.pitch ∧
    mget v'.setDone (vSet a.cmd) 0 = vDone s a (s.coreTick k) ∧ (t.core k).lv = (s.core k).lv
/-- The next `n` slots of a link of core `k`, in the order in which its consumer reads them. -/
def nextSlots (k link n : Nat) (s : State) : List Bytes :=
  (List.range n).map fun i =>
    (s.core k).slotData link ((((s.core k).link link).cons + i) % linkDepth ((s.core k).link link).cfg)

/-- The oldest command has begun, with the slots it has taken, the last of them read in island tick `readTo` (R161). -/
def begunWith (k : Nat) (st : Station) (part : List Bytes) (readTo retire : Nat) (s t : State) : Prop :=
  (t.stq k st).acc = mapFirst Acc.waiting (fun a => { a with part := part, readTo := readTo, stage := .running retire })
    (s.stq k st).acc ∧
    ∀ y, y ≠ st → t.stq k y = s.stq k y

/-- `n` slots of one link were taken, each free again `per` ticks after the one before it (R52, R161). -/
def slotsTaken (k link n per : Nat) (s t : State) : Prop :=
  (t.core k).stn.frees = (s.core k).stn.frees ++ (List.range n).map (fun i => (link, s.coreTick k + per * (i + 1))) ∧
    ∀ m, ((t.core k).link m).cfg = ((s.core k).link m).cfg ∧
      ((t.core k).link m).filled = ((s.core k).link m).filled - (if m = link then n else 0)

/-- A SPARSE command of core `k` has begun, and no station but SPARSE changed. -/
def sparseActs (k : Nat) (ins : List Nat) (due retire : Nat) (tiles : List OutTile) (s t : State) : Prop :=
  begun k .sparse retire s t ∧ linksMoved k ins due tiles s t ∧ stationKeeps k s t ∧ (t.core k).mx = (s.core k).mx ∧
    (t.core k).vec = (s.core k).vec ∧ (t.core k).lv = (s.core k).lv

/-- The row of the command that heads a station's queue. -/
def stationRow (k : Nat) (st : Station) (opcode : Nat) : Option Instr :=
  match st, opcode with
  | .fetch, 1 => some (.rd k []) | .fetch, 2 => some (.fill k) | .fetch, 3 => some (.rdrop k)
  | .matrix, 0x01 => some (.setmode k) | .matrix, 0x02 => some (.load k) | .matrix, 0x03 => some (.loadb k)
  | .matrix, 0x04 => some (.loadpair k) | .matrix, 0x05 => some (.load32 k) | .matrix, 0x08 => some (.stream k)
  | .matrix, 0x09 => some (.streami k) | .matrix, 0x0A => some (.stream32 k) | .matrix, 0x0B => some (.streamc k)
  | .matrix, 0x10 => some (.matrixSetidx k) | .matrix, 0x11 => some (.matrixDrain k)
  | .vector, 0x01 => some (.vectorAdd k) | .vector, 0x02 => some (.vectorSub k) | .vector, 0x03 => some (.vectorMul k)
  | .vector, 0x04 => some (.axpy k) | .vector, 0x05 => some (.vectorMax k) | .vector, 0x06 => some (.vectorMin k)
  | .vector, 0x07 => some (.abs k) | .vector, 0x08 => some (.neg k) | .vector, 0x09 => some (.cmpgt k)
  | .vector, 0x0A => some (.rcp k) | .vector, 0x0B => some (.rsqrt k) | .vector, 0x0C => some (.sqrt k)
  | .vector, 0x0D => some (.exp2 k) | .vector, 0x0E => some (.log2 k) | .vector, 0x0F => some (.sigmoid k)
  | .vector, 0x10 => some (.silu k) | .vector, 0x11 => some (.tanh k) | .vector, 0x18 => some (.rowdot k)
  | .vector, 0x19 => some (.colsum k) | .vector, 0x1A => some (.rowmax k) | .vector, 0x1B => some (.rownorm k)
  | .vector, 0x20 => some (.smaxFwd k) | .vector, 0x21 => some (.smaxRescale k) | .vector, 0x22 => some (.smaxNorm k)
  | .vector, 0x23 => some (.smaxRecomp k) | .vector, 0x24 => some (.smaxDs k) | .vector, 0x25 => some (.statout k)
  | .vector, 0x26 => some (.statin k) | .vector, 0x27 => some (.statclr k) | .vector, 0x28 => some (.lvbase k)
  | .vector, 0x29 => some (.dropout k) | .vector, 0x2A => some (.randU k) | .vector, 0x2B => some (.randN k)
  | .vector, 0x30 => some (.convert k) | .vector, 0x31 => some (.packz k) | .vector, 0x32 => some (.unpackz k)
  | .vector, 0x33 => some (.compact k) | .vector, 0x34 => some (.copy k) | .vector, 0x38 => some (.tapout k)
  | .vector, 0x39 => some (.tapclr k) | .vector, 0x3A => some (.vectorSetidx k)
  | .sparse, 0x01 => some (.setb k) | .sparse, 0x02 => some (.sxload k) | .sparse, 0x03 => some (.spmm k)
  | .sparse, 0x04 => some (.sparseSetidx k) | .sparse, 0x05 => some (.sparseDrain k)
  | .store, 1 => some (.wr k) | .store, 2 => some (.acc k []) | .store, 3 => some (.wback k)
  | .knead, 1 => some (.ksend k) | .knead, 2 => some (.krecv k) | .knead, 3 => some (.binj k)
  | _, _ => none
/-! ### Cluster memory -/

/-- Only core `k`, its cluster, its transfers and packets, and the counter of fresh numbers differ; the core's WBACK rows leave from
real tick `out` on (R240). -/
def ringKeepsTo (k out : Nat) (s t : State) : Prop :=
  t = { s with cores := t.cores, clusters := t.clusters, xfers := t.xfers, pkts := t.pkts, nextId := t.nextId } ∧
    (∀ j, j ≠ k → t.core j = s.core j) ∧ (∀ c, c ≠ s.clusterOf k → t.cluster c = s.cluster c) ∧
    t.core k = { s.core k with stn := (t.core k).stn, links := (t.core k).links, dma := (t.core k).dma, ks := (t.core k).ks
                               outAt := out }

/-- Only core `k`, its cluster, its transfers and packets, and the counter of fresh numbers differ. -/
def ringKeeps (k : Nat) (s t : State) : Prop := ringKeepsTo k (s.core k).outAt s t

/-- The oldest command of FETCH or STORE that has not begun is `a`, with this opcode; the station works, and the command's links let it
begin (R50, R54, R81). -/
def ringComes (k : Nat) (st : Station) (a : Acc) (opcode : Nat) (ins outs : List Nat) (s : State) : Prop :=
  (s.stq k st).head = some a ∧ stationsOn k s = true ∧ cmdOpcode a.cmd = opcode ∧ linkWait (s.core k) ins outs = none

/-- The tick from which the ticks of an RD, WR or ACC count: this one, or that in which the port and the station are free (R226). -/
def portFrom (k : Nat) (st : Station) (s : State) : Nat := max (s.coreTick k) (max (s.stq k st).port (s.stq k st).busy)

/-- No engine cycle on one of these rows has begun in this very tick: rows that become pending stop none (R214), and an access of
the DMA path collides with none (R221). -/
def engineClear (k : Nat) (rows : List Nat) (s : State) : Prop :=
  ∀ y ∈ (s.cluster (s.clusterOf k)).resv, y.start = s.coreTick k → y.done = true → y.row ∉ rows

/-- The rows that a new run of engine cycles reads or writes, each from its nominal tick on and at most `shift` ticks later
(R206–R208). -/
def cyclesFor (k : Nat) (kind : EngKind) (first : Nat) (rows : List Nat) (shift : Nat) (new : List Resv) : Prop :=
  new.map (·.row) = rows ∧ ∀ i x, new[i]? = some x → x.kind = kind ∧ x.core = k ∧ x.done = false ∧
    first + 2 * i ≤ x.start ∧ x.start ≤ first + 2 * i + shift

/-- The oldest command has begun, its engine cycles shifted from some tick on (R208). -/
def begunShifted (k : Nat) (st : Station) (retire shift : Nat) (s t : State) : Prop :=
  (∃ from', (t.stq k st).acc =
      mapFirst Acc.waiting (fun a => { a with stage := .running retire, shift := shift, shiftAt := from' }) (s.stq k st).acc) ∧
    ∀ y, y ≠ st → t.stq k y = s.stq k y

/-- A transfer may start: an entry is free, and no row of it is outside the map or another context's (R204, R215, R252, R464). -/
def transferMay (k : Nat) (a : Acc) (s : State) : Prop :=
  (s.core k).dma.length < 4 ∧ s.badRow (rgAddr a.cmd) (rgRows a.cmd) = none ∧ s.deniedRow (rgAddr a.cmd) (rgRows a.cmd) = none

/-- A transfer has begun: its record and its entry stand, and its rows are pending (R214, R215). -/
def transferBegun (k out : Nat) (st : Station) (a : Acc) (kd : XferKind) (rows : List Nat) (s t : State) : Prop :=
  let tick := s.coreTick k
  let id := s.nextId
  let worst := tick + worstOf s kd rows.length
  let b := max tick (s.stq k st).busy + 2
  begun k st b s t ∧ (t.stq k st).busy = b ∧ (t.stq k st).port = (s.stq k st).port ∧ ringKeepsTo k out s t ∧
    (∃ x : Xfer, t.xfers = s.xfers ++ [x] ∧ x.id = id ∧ x.kind = kd ∧ x.core = k ∧ x.rowsNo = rows ∧ x.addr = rgAddr a.cmd ∧
      x.worst = worst ∧ x.done = [] ∧ x.dead = []) ∧
    (t.core k).dma = (s.core k).dma ++ [⟨id, worst, false⟩] ∧
    (t.cluster (s.clusterOf k)).pend = (s.cluster (s.clusterOf k)).pend ++ rows.map fun r => ⟨r, id, false⟩
/-- Every landed row of a cluster that a receive matches has as many rows as the receive (R295). -/
def landedFit (c : Nat) (s : State) : Prop :=
  ∀ l ∈ s.fab.landed, l.dcluster = c → ∀ r, (s.cluster c).match' l.srcmod l.tag = some r → r.rowsNo.length = l.rows

/-- The oldest command has begun; another event retires it (R291, R296). -/
def begunOpen (k : Nat) (st : Station) (s t : State) : Prop :=
  (t.stq k st).acc = mapFirst Acc.waiting (fun a => { a with stage := .open }) (s.stq k st).acc ∧
    ∀ y, y ≠ st → t.stq k y = s.stq k y
/-- One more record of this severity entered the Crumb Log among those of its tick, or, where no slot could take it, counts as dropped
(R497, R499–R501). -/
def logs (sev : Nat) (s t : State) : Prop := ∃ r, r.severity = sev ∧ t.crumb = (s.crumb.add r s.now).2.2
/-! ### Host commands -/

/-- A command stands at the head of its queue and is taken up: the auxiliary domain is powered, the command that its queue took last
has moved its rows or words, and, before a barrier command, no bulk command owes a reply (R431, R441, R478). -/
def takenUp (opc : Nat) (p : Pending) (s : State) : Prop :=
  (∃ rest, queueOf opc s.host = p :: rest) ∧ s.mgmt.aux = true ∧ hOp p.hdr = opc ∧ queueFree opc s.host = true ∧
    (barrier opc = true → bulkOwed s p.num = false)

/-- The checks 2 to 4 of every command pass: protection is used only with option S and a session, and the payload, where it was
protected, has opened (R430, R466). -/
def opened (p : Pending) (s : State) : Prop :=
  (p.enc = true → s.optionS = true ∧ (s.ctx p.ctx).sec.session.isSome = true) ∧ p.plain.isSome = true

/-- The state in which a command that has been taken up acts: it has left its queue, and its credits are back (R431). -/
def State.taken (s : State) (opc : Nat) (p : Pending) : State := { s with host := dequeue opc p s.host }
/-! ### Operations, jobs and resets -/

/-- A reply with this status left for a command with this tag (R428). -/
def answered (i : Iface) (tag : BitVec 16) (status : Nat) (s t : State) : Prop :=
  ∃ y ∈ t.host.sent.drop s.host.sent.length, y.iface = i ∧ field y.hdr 2 2 = tag.toNat ∧ field y.hdr 6 1 = status

/-- The answer ACCEPTED left with the ID of an operation of this kind, which runs (R396, R428, R432). -/
def accepted (kind : Nat) (p : Pending) (s t : State) (o : Op) : Prop :=
  o ∈ t.host.ops ∧ o.id = BitVec.ofNat 32 (kind * 2 ^ 24 + (s.host.opSeq + 1) % 2 ^ 24) ∧ o.iface = p.iface ∧
    o.tag = hTag p.hdr ∧ o.opcode = BitVec.ofNat 16 (hOp p.hdr) ∧ o.ctx = BitVec.ofNat 2 (hCtx p.hdr) ∧
    t.host.opSeq = s.host.opSeq + 1 ∧ ∃ y ∈ t.host.sent.drop s.host.sent.length, y.iface = p.iface ∧
      field y.hdr 2 2 = (hTag p.hdr).toNat ∧ field y.hdr 6 1 = 1 ∧ field y.hdr 12 4 = o.id.toNat

/-- The image of a context stands on the cores, or is saved (R86, R88). -/
def standsReady (i : Nat) (s : State) : Prop :=
  if s.onCores = some i ∧ (s.ctx i).st ≠ .switched then ∀ k ∈ s.allCores, (mfind s.cores k).isSome = true
  else (s.ctx i).save.isSome = true

/-- A context runs from its entry Proof on (R438). -/
def startsRunning (i : Nat) (l : Launch) (s t : State) : Prop :=
  (t.ctx i).st = .running ∧ (t.ctx i).launch = l ∧ (t.ctx i).launched = true ∧ t.mgmt.st = .running ∧
    t.proof.entry = some i ∧ t.proof.entryAt = some (s.now + 4096) ∧
    t.sec.resident = (if lnSealed l then some i else none) ∧ t.obs.mode = BitVec.ofNat 2 (lnMode l) ∧
    t.obs.trace = (if lnTrace l then 1 else if (s.ctx i).launched = true ∧ (s.ctx i).utrace.isSome = true then 2 else 0) ∧
    ((s.ctx i).launched = false → t.obs.compat = l.flags.getLsbD 10) ∧ (∀ j, j ≠ i → (t.ctx j).st = (s.ctx j).st) ∧
    ∀ k ∈ s.allCores, (t.core k).seq.st = .running ∧ (t.core k).seq.wait = .proof (entryArg (s.ctx i))

/-- The launch conditions of R390, R437, R460, R467 and R472 hold for a LOADED context. -/
def launchable (p : Pending) (l : Launch) (s : State) : Prop :=
  (lnSealed l = true → s.optionS = true) ∧ (s.ctx p.ctx).st = .loaded ∧ launchAllowed p.ctx l s = true ∧
    launchDenied p.ctx p.enc l s = false ∧ launchBad p.ctx l s = false ∧ tableStatus p.ctx l s = none

/-- Nothing of a job is left on the cores; of its packets only rows that a stack has still to write whole are on their way (R385). -/
def jobGone (t : State) : Prop :=
  t.xfers = [] ∧ (∀ p ∈ t.pkts, p.bulk.isSome = true ∨ p.kind = .writeRow ∧ p.dstEnd = .stack) ∧ t.sync.sigs = [] ∧
    t.sync.msgs = [] ∧ t.fab.landed = [] ∧
    ∀ k, (t.core k).seq.st = .idle ∧ (t.core k).seq.wait = .none ∧ (t.core k).dma = []
/-- The module has tripped: its main domain is off, and with it went memory and every key (R382, R401, R488, R498). -/
def tripped (cause : BitVec 8) (s t : State) : Prop :=
  t.mgmt.st = .safe ∧ t.mgmt.safeCause = 3 ∧ t.mgmt.trip = cause ∧ t.mgmt.main = false ∧ t.mgmt.pwrGood = false ∧ t.mem = [] ∧
    t.cores = [] ∧ t.clusters = [] ∧ t.sec.tally = s.sec.tally ∧ t.crumb.flash = t.crumb.slots ∧
    ∀ i, i < 4 → (t.ctx i).sec.keyId = 0 ∧
      (t.ctx i).st = if s.cur = some i ∧ (s.ctx i).st ≠ .faulted then .aborted else (s.ctx i).st

/-- A reset has taken place: of kind 0 WARM with DRAM powered, 1 COLD (or WARM without that), 2 SHUTDOWN (R395, R418, R454,
R465, R489–R491). `u` is the state after a WARM one has finished the row that an open sweep is rewriting (R399). -/
def wasReset (kind : Nat) (last : BitVec 4) (s t : State) : Prop :=
  let warm := kind = 0 ∧ (s.stack 0).powered = true
  let u := if kind = 0 ∧ (s.stack 0).powered = true then finishRow s else s
  let zeroised := s.sec.resident.isSome = true
  t.mgmt.lastReset = last ∧ t.mgmt.st = (if warm then .selfCheck else if kind ≤ 1 then .powering else .off) ∧
    t.mgmt.cycles = (if warm ∨ 2 ≤ kind then s.mgmt.cycles else (s.mgmt.cycles + 1) % 2 ^ 28) ∧ t.mgmt.record = none ∧
    t.mgmt.trip = s.mgmt.trip ∧ t.mgmt.safeCause = 0 ∧ t.fab.epoch = 0 ∧ t.fab.quar = false ∧ t.ports = [] ∧ t.mon = {} ∧
    t.sec.mr = [] ∧ t.sec.tally = s.sec.tally ∧ t.sec.life = s.sec.life ∧ t.sec.rekeyOpen = u.sec.rekeyOpen ∧
    t.sec.rekeyJournal = u.sec.rekeyJournal ∧ t.sec.rekeyRow = u.sec.rekeyRow ∧ t.sec.resident = none ∧ t.host.control = [] ∧ t.host.bulk = [] ∧ t.host.maskR = 7 ∧ t.host.maskM = 7 ∧
    t.host.hdrCred = 64 ∧ t.host.payCred = 65536 ∧ t.host.link = s.host.link ∧ t.host.frames = s.host.frames ∧
    t.host.txSeq = s.host.txSeq ∧ t.host.rxSeq = s.host.rxSeq ∧ t.host.jobs = [] ∧ t.host.regJob = none ∧ t.cores = [] ∧
      t.xfers = [] ∧ t.pkts = [] ∧
    (∀ i, (t.ctx i).st = .empty ∧ (t.ctx i).sec.session = none ∧ (t.ctx i).sec.list = none) ∧
    (∀ o ∈ t.host.ops, warm ∧ u.sec.rekeyOpen = true ∧ opKind o = kRekey) ∧
    t.crumb.cursor = 0 ∧ t.mgmt.trims = bootCrossings ∧ (warm →
      t.mgmt.main = s.mgmt.main ∧ t.mem = (if zeroised then s.mem.filter (fun c => decide (c.1 < windowBase)) else s.mem) ∧
      ∀ i, i < 4 → (t.ctx i).sec.keyId = (u.ctx i).sec.keyId ∧
        (t.ctx i).sec.key = (if (u.ctx i).sec.keyId = 0 then [] else (s.ctx i).sec.key)) ∧
    (¬warm → t.mgmt.main = false ∧ t.mgmt.pwrGood = false ∧ t.mem = [] ∧ ∀ i, (t.ctx i).sec.keyId = 0 ∧ (t.ctx i).sec.key = [])
/-! ### The Tally store -/

/-- The counters keep to their limits, and the lifecycle state and the lock in effect do not run ahead of their counts (R450, R452,
R453, R457). -/
def TallyOk (s : State) : Prop :=
  s.sec.tally.lifecycle ≤ 3 ∧ s.sec.life.toNat ≤ s.sec.tally.lifecycle ∧ (s.sec.locked = true → s.sec.tally.lock = true) ∧
    s.sec.tally.next ≤ 1048576 ∧ s.sec.tally.grade ≤ 8 ∧ s.sec.tally.config ≤ 1024

/-- No counter of the first store is above that of the second: nothing moves back (R452). -/
def Tally.le (t u : Tally) : Prop :=
  t.lifecycle ≤ u.lifecycle ∧ (t.lock = true → u.lock = true) ∧ t.grade ≤ u.grade ∧ t.config ≤ u.config ∧ t.next ≤ u.next ∧
    (t.tamper = true → u.tamper = true)

end Sys2Proof.Machine
end

