-- ==== Sys2Proof/Certificates/Slice0/Obligations.lean ====
section
/-! DEFINITION. The statements for the provers. Each formalises rules of the manual, named in its docstring; where a statement
rests on a choice of the model, its docstring says so and names the log entry. -/

open Sys2Proof Sys2Proof.Machine

/-- R65, R66: the register arithmetic of the sequencer, when the word at the PC is the instruction, and everything it changes: the
destination register (none for s0), the tick its result is usable, and the PC. -/
def Claims.aluRegisterResults : Prop :=
  ∀ (k : Nat) (g : Guard) (rd ra rb : BitVec 5) (s : State), seqRuns k g [ra, rb] s = true →
    let does := fun (i : Instr) (t : State) => s.names k i = true → exec i s = .next t
    let u := guardTraced k g s
    let a := (s.core k).seq.reg ra
    let b := (s.core k).seq.reg rb
    let n := b.toNat % 64
    let fast := fun v => withResult k rd v 1 u
    let slow := fun v => withResult k rd v (slowResult s) u
    does (.add k g rd ra rb) (fast (BitVec.ofInt 64 (a.toInt + b.toInt))) ∧
    does (.sub k g rd ra rb) (fast (BitVec.ofInt 64 (a.toInt - b.toInt))) ∧
    does (.and k g rd ra rb) (fast (a &&& b)) ∧
    does (.or k g rd ra rb) (fast (a ||| b)) ∧
    does (.xor k g rd ra rb) (fast (a ^^^ b)) ∧
    does (.sll k g rd ra rb) (fast (BitVec.ofNat 64 (a.toNat * 2 ^ n))) ∧
    does (.srl k g rd ra rb) (fast (BitVec.ofNat 64 (a.toNat / 2 ^ n))) ∧
    does (.sra k g rd ra rb) (fast (BitVec.ofInt 64 (a.toInt / 2 ^ n))) ∧
    does (.min k g rd ra rb) (fast (if a.toInt ≤ b.toInt then a else b)) ∧
    does (.max k g rd ra rb) (fast (if a.toInt ≤ b.toInt then b else a)) ∧
    does (.minu k g rd ra rb) (fast (if a.toNat ≤ b.toNat then a else b)) ∧
    does (.maxu k g rd ra rb) (fast (if a.toNat ≤ b.toNat then b else a)) ∧
    does (.mul k g rd ra rb) (slow (BitVec.ofInt 64 (a.toInt * b.toInt))) ∧
    does (.mulh k g rd ra rb) (slow (BitVec.ofInt 64 (a.toInt * b.toInt / 2 ^ 64))) ∧
    does (.mulhu k g rd ra rb) (slow (BitVec.ofNat 64 (a.toNat * b.toNat / 2 ^ 64)))

/-- R65: the immediate arithmetic of the sequencer, when the word at the PC is the instruction, with its frame. -/
def Claims.aluImmediateResults : Prop :=
  ∀ (k : Nat) (g : Guard) (rd ra : BitVec 5) (imm : BitVec 12) (sh : BitVec 6) (s : State), seqRuns k g [ra] s = true →
    let does := fun (i : Instr) (t : State) => s.names k i = true → exec i s = .next t
    let u := guardTraced k g s
    let a := (s.core k).seq.reg ra
    let fast := fun v => withResult k rd v 1 u
    does (.addi k g rd ra imm) (fast (BitVec.ofInt 64 (a.toInt + imm.toInt))) ∧
    does (.andi k g rd ra imm) (fast (a &&& BitVec.ofInt 64 imm.toInt)) ∧
    does (.ori k g rd ra imm) (fast (a ||| BitVec.ofNat 64 imm.toNat)) ∧
    does (.xori k g rd ra imm) (fast (a ^^^ BitVec.ofInt 64 imm.toInt)) ∧
    does (.slli k g rd ra sh) (fast (BitVec.ofNat 64 (a.toNat * 2 ^ sh.toNat))) ∧
    does (.srli k g rd ra sh) (fast (BitVec.ofNat 64 (a.toNat / 2 ^ sh.toNat))) ∧
    does (.srai k g rd ra sh) (fast (BitVec.ofInt 64 (a.toInt / 2 ^ sh.toNat))) ∧
    does (.ldimm k g rd ra imm) (fast (BitVec.ofNat 64 (a.toNat * 4096 + imm.toNat)))

/-- R65, R66: the value a load leaves, bit by bit, and its frame: LD extends with zeros, LDS with the top bit. -/
def Claims.loadResults : Prop :=
  ∀ (k : Nat) (g : Guard) (rd ra : BitVec 5) (width : BitVec 2) (off : BitVec 10) (s : State),
    let n := 2 ^ width.toNat
    let a := lsPlace ((s.core k).seq.reg ra) n off
    let byte := fun (i : Nat) => memRead (s.core k).ls (a + i)
    let does := fun (i : Instr) (t : State) => s.names k i = true → exec i s = .next t
    let u := guardTraced k g s
    seqRuns k g [ra] s = true → a % n = 0 → (s.core k).inData a n = true → (s.core k).parityBad a n = false →
    ∃ z x : Word,
      (∀ i, i < 64 → z.getLsbD i = if i < 8 * n then (byte (i / 8)).getLsbD (i % 8) else false) ∧
      (∀ i, i < 64 → x.getLsbD i = (byte (min i (8 * n - 1) / 8)).getLsbD (min i (8 * n - 1) % 8)) ∧
      does (.ld k g rd ra width off) (withResult k rd z (slowResult s) u) ∧
      does (.lds k g rd ra width off) (withResult k rd x (slowResult s) u)

/-- R65, R72, R73: a store writes the low bytes of its register at its address, and nothing else in the core but the parity of
what it writes, which is good again, and the PC. -/
def Claims.storeResult : Prop :=
  ∀ (k : Nat) (g : Guard) (rs ra : BitVec 5) (width : BitVec 2) (off : BitVec 10) (s : State),
    let n := 2 ^ width.toNat
    let a := lsPlace ((s.core k).seq.reg ra) n off
    let u := guardTraced k g s
    seqRuns k g [rs, ra] s = true → s.names k (.st k g rs ra width off) = true → a % n = 0 → (s.core k).inData a n = true →
    ∃ (ls : List Host.Cell) (bad : List Nat),
      exec (.st k g rs ra width off) s = .next (u.setCore k
        { u.core k with ls := ls, lsBad := bad, seq := seqPast (s.core k).seq (s.coreTick k) }) ∧
      (∀ x, memRead ls x = if a ≤ x ∧ x < a + n then ((s.core k).seq.reg rs).extractLsb' (8 * (x - a)) 8
        else memRead (s.core k).ls x) ∧
      (∀ x, x ∈ bad ↔ x ∈ (s.core k).lsBad ∧ ¬(a ≤ x ∧ x < a + n))

/-- R73, R79, R80: a load or store that is misaligned, outside the data region, or meets bad parity stops the core with its
fault; no byte of the local store, of memory or of another core changes. An access that is both misaligned and out of bounds is
ILLEGAL_OP: R73 and R79 do not order the two (log entry 26). -/
def Claims.localStoreFaults : Prop :=
  ∀ (k : Nat) (g : Guard) (r ra : BitVec 5) (width : BitVec 2) (off : BitVec 10) (s : State),
    let n := 2 ^ width.toNat
    let a := lsPlace ((s.core k).seq.reg ra) n off
    let pcw := BitVec.ofNat 16 ((s.core k).seq.pc.toNat / 4)
    let stops := fun (i : Instr) (code : BitVec 8) (detail : Nat) => s.names k i = true →
      ∃ t, exec i s = .next t ∧ seqFaulted k code (BitVec.ofNat 64 detail) pcw t ∧ (t.core k).ls = (s.core k).ls ∧
        besideFault k s t
    let access := fun (i : Instr) (kind : Nat) =>
      (a % n ≠ 0 → stops i 0x01 (0x06 * 2 ^ 56 + a % 2 ^ 42)) ∧
      (a % n = 0 → (s.core k).inData a n = false → stops i 0x02 (kind * 2 ^ 60 + a % 2 ^ 18))
    let parity := fun (i : Instr) =>
      a % n = 0 → (s.core k).inData a n = true → (s.core k).parityBad a n = true → stops i 0x0C (5 * 2 ^ 60 + a % 2 ^ 18)
    (s.core k).fault.valid = false →
    (seqRuns k g [ra] s = true → access (.ld k g r ra width off) 1 ∧ access (.lds k g r ra width off) 1 ∧
      parity (.ld k g r ra width off) ∧ parity (.lds k g r ra width off)) ∧
    (seqRuns k g [r, ra] s = true → access (.st k g r ra width off) 2)

/-- R60, R65: the predicates, and the register that PGET writes, with their frame; p0 stays set. -/
def Claims.predicateResults : Prop :=
  ∀ (k : Nat) (g : Guard) (s : State),
    let u := guardTraced k g s
    let q := (s.core k).seq
    let put := fun (pd : BitVec 3) (b : Bool) => u.onSeq k fun q =>
      { q with preds := if pd = 0 then q.preds else if b then q.preds ||| (1#8 <<< pd.toNat) else q.preds &&& ~~~(1#8 <<< pd.toNat)
               pc := q.pc + 4, ready := s.coreTick k + 1, tickAt := none }
    let does := fun (i : Instr) (t : State) => s.names k i = true → exec i s = .next t
    (∀ (pd : BitVec 3) (ra rb : BitVec 5) (fn : Cmp), seqRuns k g [ra, rb] s = true →
      does (.pcmp k g pd ra rb fn) (put pd
        (match fn with
          | .eq => q.reg ra == q.reg rb
          | .ne => q.reg ra != q.reg rb
          | .lt => decide ((q.reg ra).toInt < (q.reg rb).toInt)
          | .ge => decide ((q.reg rb).toInt ≤ (q.reg ra).toInt)
          | .ltu => decide ((q.reg ra).toNat < (q.reg rb).toNat)
          | .geu => decide ((q.reg rb).toNat ≤ (q.reg ra).toNat)))) ∧
    (∀ (pd pa pb : BitVec 3) (fn : PLogic), seqRuns k g [] s = true →
      does (.plogic k g pd pa pb fn) (put pd
        (match fn, q.pred pa, q.pred pb with
          | .and, a, b => a && b
          | .or, a, b => a || b
          | .xor, a, b => xor a b
          | .andNot, a, b => a && !b
          | .not, a, _ => !a
          | .copy, a, _ => a))) ∧
    (∀ (rd : BitVec 5) (pa : BitVec 3), seqRuns k g [] s = true →
      does (.pget k g rd pa) (withResult k rd (if q.pred pa then 1 else 0) 1 u))

/-- R65, R66, R413: the branches, CALL and RET: where the PC goes, how long the branch takes, what the return stack holds,
and the outcome that a conditional branch leaves in the trace of a traced job. -/
def Claims.flowResults : Prop :=
  ∀ (k : Nat) (g : Guard) (s : State),
    let u := guardTraced k g s
    let q := (s.core k).seq
    let t := s.coreTick k
    let far := t + (if s.curCtx.bin.ttId = 0x0A01#16 then 3 else 2)
    let goal := fun (off : BitVec 17) => BitVec.ofInt 18 (q.pc.toNat + 4 * off.toInt)
    let go := fun (u : State) (pc : BitVec 18) => u.onSeq k fun q => { q with pc := pc, ready := far, tickAt := none }
    let does := fun (i : Instr) (t : State) => s.names k i = true → exec i s = .next t
    let cond := fun (i : Instr) (off : BitVec 17) (taken : Bool) =>
      does i (if taken then go (traceOutcome k true s) (goal off)
        else (traceOutcome k false s).onSeq k fun q => seqPast q t)
    (∀ off, seqRuns k g [] s = true → does (.br k g off) (go u (goal off))) ∧
    (∀ (ra : BitVec 5) off, seqRuns k g [ra] s = true → cond (.beqz k g ra off) off (q.reg ra == 0) ∧
      cond (.bnez k g ra off) off (q.reg ra != 0)) ∧
    (∀ (p : BitVec 3) off, seqRuns k g [] s = true → cond (.bpt k g p off) off (q.pred p) ∧
      cond (.bpf k g p off) off (!q.pred p)) ∧
    (∀ off, seqRuns k g [] s = true → q.stack.length < 16 →
      does (.call k g off) (go (u.onSeq k fun q => { q with stack := (q.pc + 4) :: q.stack }) (goal off))) ∧
    (∀ ret rest, seqRuns k g [] s = true → q.stack = ret :: rest →
      does (.ret k g) (traceRet k ret.toNat (go (u.onSeq k fun q => { q with stack := rest }) ret)))

/-- R62, R64, R65, R77, R79, R80: what stops a sequencer: END enters DONE; a guarded END, a CALL beyond sixteen entries and a
RET on an empty stack fault, and so does a word that names no instruction, with the word in its detail. That this word faults whatever
its guard is read from R64 (log entry 27), and that the PC stays at an END is a choice (log entry 89). -/
def Claims.sequencerStops : Prop :=
  ∀ (k : Nat) (g : Guard) (off : BitVec 17) (s : State),
    let q := (s.core k).seq
    let word := (s.fetched k).1
    let stops := fun (i : Instr) (detail : Nat) => (s.core k).fault.valid = false →
      ∃ t, exec i s = .next t ∧ seqFaulted k 0x01 (BitVec.ofNat 64 detail) (BitVec.ofNat 16 (q.pc.toNat / 4)) t ∧
        besideFault k s t
    (seqFetch k s = true → s.names k (.endProg k g) = true → g.pg = 0 → g.pn = false → exec (.endProg k g) s =
      .next (traceClose k (s.onSeq k fun q => { q with st := .done, ready := s.coreTick k + 1, tickAt := none }))) ∧
    (seqFetch k s = true → s.names k (.endProg k g) = true → ¬(g.pg = 0 ∧ g.pn = false) →
      stops (.endProg k g) (0x09 * 2 ^ 56 + word.toNat)) ∧
    (seqRuns k g [] s = true → s.names k (.call k g off) = true → 16 ≤ q.stack.length →
      stops (.call k g off) (0x0A * 2 ^ 56 + q.pc.toNat / 4)) ∧
    (seqRuns k g [] s = true → s.names k (.ret k g) = true → q.stack = [] →
      stops (.ret k g) (0x0A * 2 ^ 56 + q.pc.toNat / 4)) ∧
    (seqFetch k s = true → seqDecode k word (s.fetched k).2 = none → stops (.undefinedOpcode k word) (0x01 * 2 ^ 56 + word.toNat))

/-- R62: a sequencer instruction, named by the word at the PC, whose guard is false occupies its tick and changes nothing but the
PC and, in a traced job,
the trace: no operand is read or written. (ISSUE and ISSUER count in a bundle then, and have a statement of their own; WAIT_TICK too.) -/
def Claims.guardFalseChangesNothing : Prop :=
  ∀ (k : Nat) (g : Guard) (s : State), seqFetch k s = true → (s.core k).seq.guard g = false →
    let skip := fun (i : Instr) => s.names k i = true → exec i s =
      .next ((traceOutcome k false s).onSeq k fun q => seqPast q (s.coreTick k))
    (∀ rd ra rb, skip (.add k g rd ra rb) ∧ skip (.sub k g rd ra rb) ∧ skip (.and k g rd ra rb) ∧ skip (.or k g rd ra rb) ∧
      skip (.xor k g rd ra rb) ∧ skip (.sll k g rd ra rb) ∧ skip (.srl k g rd ra rb) ∧ skip (.sra k g rd ra rb) ∧
      skip (.min k g rd ra rb) ∧ skip (.max k g rd ra rb) ∧ skip (.minu k g rd ra rb) ∧ skip (.maxu k g rd ra rb) ∧
      skip (.mul k g rd ra rb) ∧ skip (.mulh k g rd ra rb) ∧ skip (.mulhu k g rd ra rb)) ∧
    (∀ rd ra imm, skip (.addi k g rd ra imm) ∧ skip (.andi k g rd ra imm) ∧ skip (.ori k g rd ra imm) ∧
      skip (.xori k g rd ra imm) ∧ skip (.ldimm k g rd ra imm)) ∧
    (∀ rd ra sh, skip (.slli k g rd ra sh) ∧ skip (.srli k g rd ra sh) ∧ skip (.srai k g rd ra sh)) ∧
    (∀ rd ra width off, skip (.ld k g rd ra width off) ∧ skip (.lds k g rd ra width off) ∧ skip (.st k g rd ra width off)) ∧
    (∀ pd ra rb fn, skip (.pcmp k g pd ra rb fn)) ∧ (∀ pd pa pb fn, skip (.plogic k g pd pa pb fn)) ∧
    (∀ rd pa, skip (.pget k g rd pa)) ∧ (∀ off, skip (.br k g off) ∧ skip (.call k g off)) ∧
    (∀ ra off, skip (.beqz k g ra off) ∧ skip (.bnez k g ra off)) ∧
    (∀ p off, skip (.bpt k g p off) ∧ skip (.bpf k g p off)) ∧
    skip (.ret k g) ∧ skip (.halt k g) ∧ skip (.flagclr k g) ∧ (∀ mask, skip (.drain k g mask)) ∧
    (∀ ra n, skip (.linkcfg k g ra n)) ∧ (∀ ra n1, skip (.sig k g ra n1) ∧ skip (.wait k g ra n1)) ∧
    (∀ ep ra rb, skip (.send k g ep ra rb)) ∧ (∀ ep rd, skip (.recv k g ep rd)) ∧ (∀ ep, skip (.release k g ep))

/-- R50, R67–R70: an ISSUE or ISSUER that is a bundle of its own has its command accepted, if the command passes the checks and
its station holds fewer than 4 outstanding transfers (a KRECV, which reserves rows with its acceptance, has a statement of its
own): the template is the 16 bytes at `ra` plus 16 times the offset, and ISSUER's command is the pair of its registers. -/
def Claims.issueAcceptsCommand : Prop :=
  ∀ (k : Nat) (g : Guard) (x : BundleItem) (i : Instr) (cmd : Cmd) (st : Station) (s u : State),
    bundleReads k g false x i s u → x.cmd = some cmd → (s.core k).seq.bundle = [] → (s.core k).seq.pc.toNat % 4 = 0 →
    ¬(st = .knead ∧ cmdOpcode cmd = 2) → cmdStation cmd = (stCode st).toNat → cmdError u k cmd = none →
    ((s.stq k st).outstanding (s.coreTick k)).length < 4 →
    ∃ t, exec i s = .next t ∧ acceptsOne k st cmd x.pcw s t ∧ issueKeeps k s t ∧
      (t.core k).seq.pc = (s.core k).seq.pc + 4 ∧ (t.core k).seq.ready = s.coreTick k + 1 ∧
      (t.core k).seq.lastLayer = cmdLayer cmd ∧ (t.core k).seq.lastOp = cmdOp cmd

/-- R49, R69, R80, R82: a command, of ISSUE or ISSUER, whose station field is none of 1 to 6, or whose opcode its station does not
define, stops the core with ILLEGAL_OP before anything is accepted; the record shows the command. That the record of an invalid
station has station 0 and the command's layer and operator is read from R82 and R94 (log entry 38). -/
def Claims.badCommandFaults : Prop :=
  ∀ (k : Nat) (g : Guard) (x : BundleItem) (i : Instr) (cmd : Cmd) (s u : State),
    let stops := fun (station : BitVec 3) (detail : Nat) => ∃ t, exec i s = .next t ∧
      (t.core k).seq.st = .faulted ∧ (t.core k).fault.code = 0x01 ∧ (t.core k).fault.detail = BitVec.ofNat 64 detail ∧
      (t.core k).fault.station = station ∧ (t.core k).fault.layer = cmd.extractLsb' 100 12 ∧
      (t.core k).fault.op = cmd.extractLsb' 88 12 ∧ (t.core k).fault.cmd = cmd ∧ (t.core k).stn = (s.core k).stn ∧ besideFault k s t
    let station := (cmd.extractLsb' 112 8).toNat
    let opcode := (cmd.extractLsb' 120 8).toNat
    let defined := fun (n : Nat) => match n with
      | 2 => [0x01, 0x02, 0x03, 0x04, 0x05, 0x08, 0x09, 0x0A, 0x0B, 0x10, 0x11]
      | 3 => vOpcodes
      | 4 => [0x01, 0x02, 0x03, 0x04, 0x05]
      | _ => [1, 2, 3]
    bundleReads k g false x i s u → x.cmd = some cmd → (s.core k).seq.bundle = [] → (s.core k).fault.valid = false →
    (station = 0 ∨ 6 < station → stops 0 (0x02 * 2 ^ 56 + station)) ∧
    (∀ st : Station, station = (stCode st).toNat → ((s.stq k st).outstanding (s.coreTick k)).length < 4 →
      opcode ∉ defined station → stops (stCode st) (0x03 * 2 ^ 56 + opcode))

/-- R68: an ISSUE or ISSUER with `B` set only collects its command, or, if its guard is false, its place: the bundle is one longer,
the PC 4 further, no tick passes and nothing is accepted. A bundle longer than six is BUNDLE; that it names, and stops before, its
first instruction is read from R80 and R94 (log entry 23). -/
def Claims.bundleCollects : Prop :=
  ∀ (k : Nat) (g : Guard) (x : BundleItem) (i : Instr) (s u : State), bundleReads k g true x i s u →
    let q := (s.core k).seq
    (q.bundle.length < 5 → exec i s = .next (u.onSeq k fun q =>
      { q with pc := q.pc + 4, bundle := q.bundle ++ [x], tickAt := none })) ∧
    (∀ b rest, q.bundle = b :: rest → 5 ≤ q.bundle.length → (s.core k).fault.valid = false → b.pcw < 2 ^ 16 →
      ∃ t, exec i s = .next t ∧
        seqFaulted k 0x01 (BitVec.ofNat 64 (0x0B * 2 ^ 56 + b.pcw)) (BitVec.ofNat 16 b.pcw) t ∧
        (t.core k).seq.pc = BitVec.ofNat 18 (4 * b.pcw) ∧ (t.core k).stn = (s.core k).stn)

/-- R68–R70: a bundle, of one instruction or several, that has come to its end at once or has waited: if it obeys its limits, each
station it names has a place and its commands pass the checks, it is accepted whole in one tick: each named station takes its
command and no other station changes; an instruction whose guard is false counts for its place alone (bundles without a
KRECV). If a named station is full, the whole bundle waits, at its first instruction. If two of its commands name one station, it is
BUNDLE, at its first instruction (log entry 23). -/
def Claims.bundleEnds : Prop :=
  ∀ (k : Nat) (i : Instr) (b : BundleItem) (rest : List BundleItem) (s u : State), bundleComes k i (b :: rest) s u →
    let named := bundleNamed (b :: rest)
    (bundleFits k (b :: rest) s u → (∀ x ∈ named 6, cmdOpcode x.1 ≠ 2) →
      ∃ t, exec i s = .next t ∧ issueKeeps k s t ∧ bundleIssued k b rest s t) ∧
    ((∀ code, (named code).length ≤ 1) → (∃ st : Station, named (stCode st).toNat ≠ [] ∧
        4 ≤ ((s.stq k st).outstanding (s.coreTick k)).length) →
      exec i s = .next (u.onSeq k fun q =>
        { q with pc := BitVec.ofNat 18 (4 * b.pcw), bundle := [], wait := .bundle (b :: rest) })) ∧
    ((∃ st : Station, 2 ≤ (named (stCode st).toNat).length) → (s.core k).fault.valid = false → b.pcw < 2 ^ 16 →
      ∃ t, exec i s = .next t ∧
        seqFaulted k 0x01 (BitVec.ofNat 64 (0x0B * 2 ^ 56 + b.pcw)) (BitVec.ofNat 16 b.pcw) t ∧
        (t.core k).seq.pc = BitVec.ofNat 18 (4 * b.pcw) ∧ (t.core k).stn = (s.core k).stn)

/-- R71: WAIT_TICK takes no tick of its own. The next instruction executes once the phase tick has reached the one it names, or at
once if that tick is past, and then `LATE_COUNT` rises and `LATE_FIRST` keeps the first such instruction. -/
def Claims.waitTickResult : Prop :=
  ∀ (k : Nat) (g : Guard) (arg : TickArg) (s : State),
    let u := guardTraced k g s
    let n := match arg with
      | .imm v => v.toNat
      | .reg r => ((s.core k).seq.reg r).toNat
    seqFetch k s = true → s.names k (.waitTick k g arg) = true →
    ((s.core k).seq.guard g = false → exec (.waitTick k g arg) s =
      .next ((traceOutcome k false s).onSeq k fun q => { q with pc := q.pc + 4 })) ∧
    (seqRuns k g (match arg with | .imm _ => [] | .reg r => [r]) s = true →
      exec (.waitTick k g arg) s = .next (u.setCore k { u.core k with
        lateCount := if n < s.phase k then min 0xFFFFFFFF ((s.core k).lateCount + 1) else (s.core k).lateCount
        lateFirst := if n < s.phase k ∧ (s.core k).lateCount = 0 then BitVec.ofNat 16 ((s.core k).seq.pc.toNat / 4)
          else (s.core k).lateFirst
        seq := { (s.core k).seq with
          pc := (s.core k).seq.pc + 4, ready := s.coreTick k, tickTo := n
          tickAt := if s.phase k < n then some (s.core k).seq.pc else none } })) ∧
    ∀ t : State, seqFree k t = true → (t.core k).seq.tickTo ≤ t.phase k

/-- R65, R78: DRAIN waits for the stations it names, and goes on once these hold no outstanding transfer. FLAGCLR waits for the last
retirement of MATRIX, VECTOR and SPARSE, and clears the non-finite flag in the tick after it, before the tiles of that tick. That DRAIN
goes on in the tick of the last retirement is read from R70 and R78 (log entry 41). -/
def Claims.drainAndFlagclr : Prop :=
  ∀ (k : Nat) (g : Guard) (mask : BitVec 6) (s : State),
    let u := guardTraced k g s
    let t := s.coreTick k
    let does := fun (i : Instr) (t : State) => s.names k i = true → exec i s = .next t
    let idle := ∀ st ∈ [Station.matrix, .vector, .sparse],
      (s.stq k st).outstanding (t - 1) = [] ∧ ((s.stq k st).last < t ∨ (s.stq k st).last = 0)
    let cleared := fun (c : Core) =>
      { c with nf := if c.nfNow.1 = t then c.nfNow.2 else {}, seq := { seqPast c.seq t with wait := .none } }
    (seqRuns k g [] s = true → (drained k mask s → does (.drain k g mask) (u.onSeq k fun q => seqPast q t)) ∧
      (¬drained k mask s → does (.drain k g mask) (u.onSeq k fun q => { q with wait := .drain mask, tickAt := none }))) ∧
    (seqAwake k s → (s.core k).seq.wait = .drain mask → drained k mask s →
      exec (.drainComplete k) s = .next (s.onSeq k fun q => { seqPast q t with wait := .none })) ∧
    (seqRuns k g [] s = true → idle → does (.flagclr k g) (u.onCore k cleared)) ∧
    (seqRuns k g [] s = true → ¬idle →
      does (.flagclr k g) (u.onSeq k fun q => { q with wait := .flagclr, tickAt := none })) ∧
    (seqAwake k s → (s.core k).seq.wait = .flagclr → idle → exec (.flagclrExecute k) s = .next (s.onCore k cleared))

/-- R51, R74, R98: LINKCFG gives a link at rest a configuration that obeys the rules, and resets it; otherwise it stops the core
with LINKCFG. It occupies two ticks. -/
def Claims.linkConfiguration : Prop :=
  ∀ (k : Nat) (g : Guard) (ra : BitVec 5) (n : BitVec 4) (s : State), seqRuns k g [ra] s = true →
    s.names k (.linkcfg k g ra n) = true →
    let u := guardTraced k g s
    let v := (s.core k).seq.reg ra &&& 0x877F307F#64
    let fits := linkAtRest u k n.toNat && linkFits (u.core k) n.toNat v
    (fits = true → ∃ l : Link, exec (.linkcfg k g ra n) s = .next (u.setCore k { u.core k with
        links := mset (s.core k).links n.toNat l
        seq := { (s.core k).seq with pc := (s.core k).seq.pc + 4, ready := s.coreTick k + 2, tickAt := none } }) ∧
      l.cfg = v ∧ l.filled = 0 ∧ l.free = (v.extractLsb' 16 4).toNat ∧ l.cons = 0 ∧ l.prod = 0 ∧
      l.status = []) ∧
    (fits = false → (s.core k).fault.valid = false → ∃ t, exec (.linkcfg k g ra n) s = .next t ∧
      seqFaulted k 0x01 (BitVec.ofNat 64 (0x08 * 2 ^ 56 + n.toNat)) (BitVec.ofNat 16 ((s.core k).seq.pc.toNat / 4)) t ∧
      (t.core k).links = (s.core k).links)

/-- R233, R260, R264, R268, R269: SIG sends its signal towards its cell and goes on in the next tick; WAIT travels to its cell and
stops the sequencer; neither touches a cell yet. Outside CLUSTER scope a CTL packet carries it. An ID that the rules do not allow
stops the core with SYNC_UNMAPPED. A signal to a TRAY or FABRIC cell of the own module is due as one of MODULE scope, where R269 gives
a bound (log entry 53), and a packet is ready three ticks on (log entry 95). -/
def Claims.signalAndWaitLeave : Prop :=
  ∀ (k : Nat) (g : Guard) (ra : BitVec 5) (n1 : BitVec 16) (s : State), seqRuns k g [ra] s = true →
    let id := (s.core k).seq.reg ra
    let e := s.xlatEntry id.toNat
    let here := s.clusterOf k
    let home := homeOf (xlRef e)
    let local' := match xlRef e with
      | .cluster .. => True
      | _ => False
    let out := match xlRef e with
      | .cluster .. => 4
      | _ => 20 + s.latency here home
    let due := match xlRef e with
      | .cluster .. => 2
      | _ => 8 + s.latency here home
    let unmapped := fun (i : Instr) => s.names k i = true → (s.core k).fault.valid = false → ∃ t, exec i s = .next t ∧
      seqFaulted k 0x07 (BitVec.ofNat 64 (id.toNat % 2 ^ 20)) (BitVec.ofNat 16 ((s.core k).seq.pc.toNat / 4)) t ∧
      besideFault k s t
    (syncNames k ra false s = true → s.names k (.sig k g ra n1) = true →
      ∃ (t : State) (x : SigFly), exec (.sig k g ra n1) s = .next t ∧
      t.sync = { s.sync with sigs := s.sync.sigs ++ [x] } ∧ x.cell = xlRef e ∧ x.amount = n1.toNat + 1 ∧
      x.due = s.coreTick k + out ∧ x.home = home ∧ x.core = some k ∧ x.vid = id.setWidth 20 ∧
      x.away = decide (xlModule s e ≠ s.moduleIndex) ∧ (t.core k).seq = seqPast (s.core k).seq (s.coreTick k) ∧
      t.clusters = s.clusters ∧ t.mem = s.mem ∧ t.ports = s.ports ∧ (∀ j, j ≠ k → t.core j = s.core j) ∧
      (xlModule s e = s.moduleIndex → local' → x.pkt = none ∧ t.pkts = s.pkts) ∧
      (xlModule s e = s.moduleIndex → ¬local' → x.pkt = some s.nextId ∧ ctlLeaves here home 1 k s t) ∧
      (∀ p, xlModule s e ≠ s.moduleIndex → s.portTo (xlModule s e) 0 = some p →
        x.pkt = some s.nextId ∧ ∃ y ∈ t.pkts, y.id = s.nextId ∧ y.kind = .ctl ∧ y.vc = 2 ∧ y.src = here ∧ y.dst = s.portRouter p ∧
          y.lat = some (p, { s.header (xlModule s e) with vid := id.setWidth 20, amount1 := n1 }))) ∧
    (syncNames k ra true s = true → s.names k (.wait k g ra n1) = true → ∃ t, exec (.wait k g ra n1) s = .next t ∧
      t.sync = s.sync ∧ t.clusters = s.clusters ∧ t.mem = s.mem ∧ (∀ j, j ≠ k → t.core j = s.core j) ∧
      (local' → t.pkts = s.pkts) ∧ (¬local' → ctlLeaves here home 1 k s t) ∧ ∃ w, (t.core k).seq = { (s.core k).seq with
        wait := .sync (xlRef e) (n1.toNat + 1) (id.setWidth 20) (.travelling (s.coreTick k + due)), wpkt := w, tickAt := none } ∧
        (local' → w = none) ∧ (¬local' → w = some s.nextId)) ∧
    (syncNames k ra false s = false → unmapped (.sig k g ra n1)) ∧ (syncNames k ra true s = false → unmapped (.wait k g ra n1))

/-- R261, R263: at its due tick a signal is added to its cell, whose count stops at 2³² − 1 and then sets OVF; signals due in one
tick count as their sum; the waiter at the head is released if its amount does not exceed the count, and takes that amount.
A signal whose packet is still under way is not applied (R327). -/
def Claims.signalApplied : Prop :=
  ∀ (r : CellRef) (x : SigFly) (xs : List SigFly) (s : State), firstSigs s r = x :: xs →
    let h := homeOf r
    let total := ((x :: xs).map (·.amount)).sum
    let sum := (s.cell r).count + total
    let past := decide (0xFFFFFFFF < sum)
    let count := min 0xFFFFFFFF sum
    s.frozen h = false → x.dueAt (s.ticks h) ≤ s.ticks h → (∀ y ∈ x :: xs, s.arrived y.pkt = true) →
    ∃ t, exec (.signalApply r) s = .next t ∧ t.sync.sigs = s.sync.sigs.filter (fun y => !(x :: xs).contains y) ∧
      (∀ r', r' ≠ r → t.cell r' = s.cell r') ∧ t.ports = s.ports ∧
      t.sync.overflows = (if past then min 0xFFFFFFFF (s.sync.overflows + 1) else s.sync.overflows) ∧
      (∀ j, (t.core j).fault = (s.core j).fault) ∧
      ((s.cell r).queue = [] → t.cell r = { count := count, ovf := (s.cell r).ovf || past, queue := [] } ∧
        t.cores = s.cores ∧ t.mem = s.mem ∧ t.pkts = s.pkts.filter fun p => (x :: xs).all fun y => y.pkt != some p.id) ∧
      (∀ j a c m v, (s.cell r).queue = [(j, a)] → (s.core j).seq.wait = .sync c m v .queued → t.mem = s.mem ∧
        (a ≤ count → t.cell r = { count := count - a, ovf := (s.cell r).ovf || past, queue := [] } ∧
          (t.core j).seq.wait = .sync c m v (.released (s.ticks h +
            (match r with | .cluster .. => 8 | _ => 24 + s.latency h (s.clusterOf j))))) ∧
        (count < a → t.cell r = { count := count, ovf := (s.cell r).ovf || past, queue := [(j, a)] } ∧
          t.core j = s.core j))

/-- R260, R261, R269: a WAIT that reaches its cell is released at once if the queue is empty and the count covers it, and joins the
end of the queue otherwise; a released waiter's next instruction executes when the release reaches it. -/
def Claims.waitArrivesAndResumes : Prop :=
  ∀ (k : Nat) (r : CellRef) (a : Nat) (v : BitVec 20) (due : Nat) (s : State),
    let h := homeOf r
    let x := s.cell r
    let q := (s.core k).seq
    let local' := match r with
      | .cluster .. => True
      | _ => False
    (q.wait = .sync r a v (.travelling due) → s.frozen h = false → due ≤ s.ticks h → s.arrived q.wpkt = true →
      waitIsNext s k r due = true →
      ∃ t, exec (.waitArrival k) s = .next t ∧ (∀ r', r' ≠ r → t.cell r' = s.cell r') ∧ t.mem = s.mem ∧
        (∀ j, j ≠ k → t.core j = s.core j) ∧
        (x.queue = [] → a ≤ x.count → t.cell r = { x with count := x.count - a, queue := [] } ∧
          ∃ w, (t.core k).seq = { q with wpkt := w, wait := .sync r a v (.released (s.ticks h +
            (match r with | .cluster .. => 8 | _ => 24 + s.latency h (s.clusterOf k)))) } ∧
            (local' → w = none) ∧ (¬local' → w = some s.nextId)) ∧
        (x.queue ≠ [] ∨ x.count < a → t.cell r = { x with queue := x.queue ++ [(k, a)] } ∧
          (t.core k).seq = { q with wpkt := none, wait := .sync r a v .queued })) ∧
    (q.wait = .sync r a v (.released due) → seqAwake k s → due ≤ s.coreTick k → s.arrived q.wpkt = true →
      ∃ t, exec (.waiterResume k) s = .next t ∧ (t.core k).seq =
        { q with wait := .none, wpkt := none, pc := q.pc + 4, ready := s.coreTick k, tickAt := none } ∧
        t = { s with cores := t.cores, pkts := s.pkts.filter fun p => q.wpkt != some p.id } ∧ ∀ j, j ≠ k → t.core j = s.core j)

/-- R327: a CTL packet that is absent at its due tick freezes the island that awaits it, under cause 4, as the last raiser of the
episode in progress, unless the propagation of an episode that is over has still to reach the island. -/
def Claims.lateControlHolds : Prop :=
  ∀ (c : Nat) (s : State), s.frozen c = false → ctlDue s c = true → passing c s = none →
    ∃ (t : State) (e : Episode) (r : Raiser), exec (.lateCtlHold c) s = .next t ∧ t.hold.eps.getLast? = some e ∧
      e.raisers.getLast? = some r ∧ r.who = .island c ∧ r.cause = 4 ∧ r.s = s.now ∧ r.clear = none ∧
      mfind e.froze c = some s.now ∧ t.frozen c = true ∧ (t.island c).frozen = (s.island c).frozen ∧
      t = { s with hold := t.hold }

/-- R278–R281, R283: a SEND that passes its checks takes its first unit out of the local store, puts its header in place of the first
8 bytes, sends its packet, ready three ticks on (log entry 95), and stops the sequencer; a SEND that fails one stops the core, in the
order of the checks; that an endpoint no channel uses skips the length check is read from R280 (log entry 52). -/
def Claims.sendLeaves : Prop :=
  ∀ (k : Nat) (g : Guard) (ep : BitVec 3) (ra rb : BitVec 5) (s : State), seqRuns k g [ra, rb] s = true →
    s.names k (.send k g ep ra rb) = true →
    let u := guardTraced k g s
    let x := (s.core k).txEp ep.toNat
    let a := ((s.core k).seq.reg ra).toNat
    let n := ((s.core k).seq.reg rb).toNat % 64 + 1
    let on := x.cfg.getLsbD 63
    let room := (x.cfg.extractLsb' 0 12).toNat
    let peer := (x.cfg.extractLsb' 32 11).toNat
    let stops := fun (code : BitVec 8) (detail : Nat) => (s.core k).fault.valid = false →
      ∃ t, exec (.send k g ep ra rb) s = .next t ∧ seqFaulted k code (BitVec.ofNat 64 detail)
        (BitVec.ofNat 16 ((s.core k).seq.pc.toNat / 4)) t ∧ t.sync = s.sync ∧ besideFault k s t
    (on = true → n ≤ room → a % 64 = 0 → (s.core k).inData a (64 * n) = true → (s.core k).parityBad a 64 = false →
      ∃ (t : State) (m : Msg), exec (.send k g ep ra rb) s = .next t ∧ t.sync = { s.sync with msgs := s.sync.msgs ++ [m] } ∧
        m.src = k ∧ m.ep = ep ∧ m.dst = peer ∧ m.dstEp = x.cfg.extractLsb' 24 3 ∧ m.n = n ∧ m.atT = s.coreTick k ∧
        m.lat = s.latency (s.clusterOf k) (s.clusterOf peer) ∧ m.from' = a ∧ m.wr = none ∧ m.pkt = s.nextId ∧
        ctlLeaves (s.clusterOf k) (s.clusterOf peer) n k s t ∧ m.data.drop 8 = (memBytes (s.core k).ls a 64).drop 8 ∧
        leNat (m.data.take 8) = k % 2048 * 2 ^ 53 + ep.toNat * 2 ^ 50 + x.seq.toNat * 2 ^ 16 + n ∧
        t = { (u.setCore k { u.core k with
                tx := mset (s.core k).tx ep.toNat { x with seq := x.seq + 1, busy := true }
                seq := { (s.core k).seq with wait := .send ep .travelling, wpkt := some s.nextId, tickAt := none } }) with
          sync := t.sync, pkts := t.pkts, nextId := s.nextId + 1 }) ∧
    (on = true → n ≤ room → a % 64 = 0 → (s.core k).inData a (64 * n) = true → (s.core k).parityBad a 64 = true →
      stops 0x0C (5 * 2 ^ 60 + a % 2 ^ 18)) ∧
    (on = true → room < n → stops 0x09 (n * 2 ^ 8 + ep.toNat)) ∧
    ((on = false ∨ n ≤ room) → a % 64 ≠ 0 → stops 0x01 (0x06 * 2 ^ 56 + a % 2 ^ 42)) ∧
    ((on = false ∨ n ≤ room) → a % 64 = 0 → (s.core k).inData a (64 * n) = false → stops 0x02 (4 * 2 ^ 60 + a % 2 ^ 18)) ∧
    (on = false → a % 64 = 0 → (s.core k).inData a (64 * n) = true → stops 0x01 (0x04 * 2 ^ 56 + ep.toNat))

/-- R278, R279, R281, R283: a message takes its place at TAIL of its ring once the ring has room, or at unit 0 behind a skip record
where it would wrap; the acknowledgement reaches its sender, which goes on. -/
def Claims.messageWrittenAndAcknowledged : Prop :=
  ∀ (k : Nat) (m : Msg) (s : State),
    let c := s.clusterOf m.dst
    let t0 := s.ticks c
    let r := (s.core m.dst).rxEp m.dstEp.toNat
    let size := chSize r.cfg
    let wraps := size - r.tail < m.n
    let first := if wraps then 0 else r.tail
    let skip := if wraps then size - r.tail else 0
    let at' := 64 * (chBase r.cfg + r.tail)
    let head := msgHeader m.src m.ep.toNat skip 0 0
    let next := fun (m : Msg) => m.src == k && m.wr.isNone && s.arrived (some m.pkt) &&
      decide (m.atT + 7 + m.lat ≤ s.ticks (s.clusterOf m.dst)) && s.msgRoom m
    (s.sync.msgs.find? next = some m → s.frozen c = false → (s.core k).seq.wait = .send m.ep .travelling →
      (s.core k).seq.wpkt = some m.pkt →
      ∃ t, exec (.channelMessageWrite k) s = .next t ∧ t.pkts = s.pkts.filter (fun p => p.id != m.pkt) ∧
        t.sync = { s.sync with msgs := s.sync.msgs.map fun x =>
          if x.pkt = m.pkt then { x with wr := some t0, first := first } else x } ∧
        (∀ x, memRead (t.core m.dst).ls x =
          if wraps ∧ at' ≤ x ∧ x < at' + 8 then head.extractLsb' (8 * (x - at')) 8 else memRead (s.core m.dst).ls x) ∧
        ((t.core m.dst).rxEp m.dstEp.toNat).tail = (if first + m.n = size then 0 else first + m.n) ∧
        ((t.core m.dst).rxEp m.dstEp.toNat).seq = r.seq + 1 ∧ ((t.core m.dst).rxEp m.dstEp.toNat).head = r.head ∧
        ((t.core m.dst).rxEp m.dstEp.toNat).msgs =
          r.msgs ++ (if wraps then [(size - r.tail, true, t0 + 1)] else []) ++ [(m.n, false, t0 + 1 + m.n)] ∧
        (m.dst ≠ k → (t.core m.dst).seq = (s.core m.dst).seq) ∧
        (t.core k).seq = { (s.core k).seq with wait := .send m.ep (.written (t0 + 9 + m.lat + m.n)) } ∧
        (∀ j, j ≠ k → j ≠ m.dst → t.core j = s.core j) ∧ t.mem = s.mem ∧ t.clusters = s.clusters) ∧
    (∀ ep due p, (s.core k).seq.wait = .send ep (.written due) → (s.core k).seq.wpkt = some p → seqAwake k s → due ≤ s.coreTick k →
      s.arrived (some p) = true → (∀ m ∈ s.sync.msgs, m.pkt ≠ p) →
      ∃ t, exec (.sendComplete k) s = .next t ∧ t = { s with cores := t.cores, pkts := s.pkts.filter fun x => x.id != p } ∧
        t.core k = { s.core k with
          tx := mset (s.core k).tx ep.toNat { (s.core k).txEp ep.toNat with busy := false }
          seq := { (s.core k).seq with
            wait := .none, wpkt := none, pc := (s.core k).seq.pc + 4, ready := s.coreTick k, tickAt := none } } ∧
        ∀ j, j ≠ k → t.core j = s.core j)

/-- R281, R283: a SEND reads one unit in a tick of its island; each unit that has been read is written into the ring in its turn, from
the tick after the ring had room; with the last one the acknowledgement leaves for the sender. -/
def Claims.messageUnitsMove : Prop :=
  ∀ (m : Msg) (s : State),
    let i := m.data.length / 64
    let c := s.clusterOf m.dst
    let unit := 64 * (chBase ((s.core m.dst).rxEp m.dstEp.toNat).cfg + m.first + m.put)
    let waits := (s.core m.src).seq
    (m.data.length % 64 = 0 → 1 ≤ i → i < m.n → seqAwake m.src s → m.atT + i ≤ s.coreTick m.src →
      (s.core m.src).parityBad (m.from' + 64 * i) 64 = false →
      msgRead m s = s.onMsg m.pkt fun m => { m with data := m.data ++ memBytes (s.core m.src).ls (m.from' + 64 * i) 64 }) ∧
    (∀ w, m.wr = some w → s.frozen c = false → w + 1 + m.put ≤ s.ticks c → 64 * (m.put + 1) ≤ m.data.length →
      (∀ x, memRead ((msgPut m s).core m.dst).ls x =
        if unit ≤ x ∧ x < unit + 64 then m.data.getD (64 * m.put + (x - unit)) 0 else memRead (s.core m.dst).ls x) ∧
      (m.put + 1 < m.n → (msgPut m s).sync = (s.onMsg m.pkt fun m => { m with put := m.put + 1 }).sync ∧
        (msgPut m s).pkts = s.pkts) ∧
      (m.n ≤ m.put + 1 → (msgPut m s).sync = { s.sync with msgs := s.sync.msgs.filter fun x => x.pkt != m.pkt } ∧
        (∀ ep due, waits.wait = .send ep (.written due) → waits.wpkt = some m.pkt →
          ctlLeaves c (s.clusterOf m.src) 1 m.src s (msgPut m s) ∧ ((msgPut m s).core m.src).seq.wpkt = some s.nextId)))

/-- R282, R283: RECV returns the address of the message at HEAD without consuming it, and waits while there is none; a waiting
RECV looks again; RELEASE moves HEAD past the message; an endpoint that no channel uses, or a RELEASE of an empty ring, stops the
core with LINK. -/
def Claims.receiveAndRelease : Prop :=
  ∀ (k : Nat) (g : Guard) (ep : BitVec 3) (rd : BitVec 5) (s : State),
    let u := guardTraced k g s
    let t := s.coreTick k
    let r := (s.core k).rxEp ep.toNat
    let on := r.cfg.getLsbD 63
    let place := BitVec.ofNat 64 (64 * ((r.cfg.extractLsb' 12 12).toNat + r.head))
    let named := s.names k (.recv k g ep rd) = true
    let named' := s.names k (.release k g ep) = true
    let stops := fun (i : Instr) => s.names k i = true → (s.core k).fault.valid = false → ∃ t', exec i s = .next t' ∧
      seqFaulted k 0x01 (BitVec.ofNat 64 (0x04 * 2 ^ 56 + ep.toNat)) (BitVec.ofNat 16 ((s.core k).seq.pc.toNat / 4)) t' ∧
      (t'.core k).rx = (s.core k).rx
    (∀ n vis rest, r.msgs = (n, false, vis) :: rest → vis ≤ t → on = true →
      (seqRuns k g [] s = true → named → ∃ t', exec (.recv k g ep rd) s = .next t' ∧
        (t'.core k).rxEp ep.toNat = r ∧ (t'.core k).seq = ((withResult k rd place 3 u).core k).seq ∧
        (∀ j, j ≠ k → t'.core j = s.core j)) ∧
      ((s.core k).seq.wait = .recv ep rd → seqAwake k s → ∃ t', exec (.recvWake k) s = .next t' ∧
        (t'.core k).rxEp ep.toNat = r ∧ (t'.core k).seq = { ((withResult k rd place 3 s).core k).seq with wait := .none }) ∧
      (seqRuns k g [] s = true → named' → ∃ t', exec (.release k g ep) s = .next t' ∧
        (t'.core k).rxEp ep.toNat = { r with
          head := if r.head + n = (r.cfg.extractLsb' 0 12).toNat then 0 else r.head + n
          msgs := rest, freed := r.freed ++ [(n, t + 2)] } ∧
        (t'.core k).seq = seqPast (s.core k).seq t ∧ (t'.core k).ls = (s.core k).ls ∧ ∀ j, j ≠ k → t'.core j = s.core j)) ∧
    (∀ n vis rest, r.msgs = (n, true, vis) :: rest → vis ≤ t → on = true → seqRuns k g [] s = true → named →
      ∃ t', exec (.recv k g ep rd) s = .next t' ∧
        (t'.core k).rxEp ep.toNat = { r with head := 0, msgs := rest, freed := r.freed ++ [(n, t + 2)] }) ∧
    (seqRuns k g [] s = true → named → on = true → r.msgs = [] → ∃ t', exec (.recv k g ep rd) s = .next t' ∧
      (t'.core k).seq = { (s.core k).seq with wait := .recv ep rd, tickAt := none } ∧ (t'.core k).rxEp ep.toNat = r) ∧
    (seqRuns k g [] s = true → on = false → stops (.recv k g ep rd) ∧ stops (.release k g ep)) ∧
    (seqRuns k g [] s = true → r.msgs = [] → stops (.release k g ep))

/-- R84: HALT is a no-op unless the job was launched with debug enabled; then the core enters HALTED behind it, under a DEBUG
cause. -/
def Claims.haltResult : Prop :=
  ∀ (k : Nat) (g : Guard) (s : State), seqRuns k g [] s = true → s.names k (.halt k g) = true →
    let q := seqPast (s.core k).seq (s.coreTick k)
    (s.debugJob = false → exec (.halt k g) s = .next ((guardTraced k g s).onSeq k fun _ => q)) ∧
    (s.debugJob = true → ∃ t r, exec (.halt k g) s = .next t ∧ (t.core k).seq = { q with st := .halted } ∧
      r ∈ t.hold.eps.flatMap Episode.raisers ++ t.hold.next ∧ r.who = .core k ∧ r.cause = 8 ∧ r.clear = none ∧
      (t.core k).ls = (s.core k).ls ∧ (∀ j, j ≠ k → t.core j = s.core j) ∧ t.mem = s.mem)

/-- R8, R83, R84, R90, R468, R510: what a write of `CORE.CTRL` does at a site. FAULT_CLEAR clears the record in IDLE, HALTED and
FAULTED; RESUME makes a HALTED core run and clears its DEBUG cause; HALT_REQ halts a running core of a debug job, at once, or, if it
executes a PROOF, in the tick of its release; a WAIT_TICK that the halt meets keeps its own address, and goes on with its wait after
RESUME; in every other state (for HALT_REQ in IDLE, DONE and FAULTED, log entry 25), at a site without a core, and in sealed
residency, each leaves all as it was. -/
def Claims.coreControl : Prop :=
  ∀ (c slot : Nat) (s : State),
    (s.coreAt c slot = none ∨ s.sec.resident.isSome = true → exec (.faultClear c slot) s = .next s ∧ exec (.resume c slot) s = .next s ∧
      exec (.haltReq c slot) s = .next s) ∧
    (∀ k, s.coreAt c slot = some k → s.sec.resident = none →
      let x := s.core k
      let inProof := x.seq.st = .proofWait ∨ (x.seq.st = .running ∧ ∃ p, x.seq.wait = .proof p)
      let on := { x.seq with st := .running, pc := if x.seq.tickAt.isSome then x.seq.pc + 4 else x.seq.pc }
      let off := match s.tickWait k with
        | some a => { x.seq with st := .halted, pc := a }
        | none => { x.seq with st := .halted, tickAt := none }
      ((x.seq.st = .idle ∨ x.seq.st = .halted ∨ x.seq.st = .faulted) →
        exec (.faultClear c slot) s = .next (s.setCore k { x with fault := {} })) ∧
      ((x.seq.st = .running ∨ x.seq.st = .proofWait ∨ x.seq.st = .done) → exec (.faultClear c slot) s = .next s) ∧
      (x.seq.st = .halted → ∃ t, exec (.resume c slot) s = .next t ∧ t.core k = { x with seq := on } ∧
        (∀ e ∈ t.hold.eps, ∀ r ∈ e.raisers, r.who = .core k → r.clear ≠ none) ∧
        t = { s.setCore k { x with seq := on } with hold := t.hold }) ∧
      (x.seq.st ≠ .halted → exec (.resume c slot) s = .next s) ∧
      (s.debugJob = true → x.seq.st = .running → ¬inProof → ∃ t r, exec (.haltReq c slot) s = .next t ∧
        (t.core k).seq = off ∧ r ∈ t.hold.eps.flatMap Episode.raisers ++ t.hold.next ∧
        r.who = .core k ∧ r.cause = 8 ∧ r.clear = none) ∧
      (s.debugJob = true → inProof → x.seq.haltAt = false → ∃ t r, exec (.haltReq c slot) s = .next t ∧
        t.core k = { x with seq := { x.seq with haltAt := true } } ∧ r ∈ t.hold.eps.flatMap Episode.raisers ++ t.hold.next ∧
        r.who = .core k ∧ r.cause = 8 ∧ r.clear = none) ∧
      (s.debugJob = true → inProof → x.seq.haltAt = true → exec (.haltReq c slot) s = .next s) ∧
      ((s.debugJob = false ∨ (x.seq.st ≠ .running ∧ x.seq.st ≠ .proofWait)) → exec (.haltReq c slot) s = .next s))

/-- R37, R41–R43: a core that executes PROOF, or looks again at its arrival conditions, reaches the Proof once they hold: it waits
there, its PC still at the PROOF (log entry 89), and its cluster's instance has its arrival, with the non-finite flag in bit 0 of its
OR word. The last arrival of a CLUSTER Proof sets the release 12 ticks on; one that names another scope or tag faults with
PROOF_MISMATCH. -/
def Claims.proofArrivalJoins : Prop :=
  ∀ (k : Nat) (g : Guard) (p : ProofArg) (i : Instr) (s : State),
    let c := s.clusterOf k
    let q := (s.core k).seq
    let pc := q.pc.toNat
    let x := mget s.proof.inst c {}
    let a : Arrival :=
      { core := k, arg := p, andW := (q.reg p.andSrc).setWidth 32, atT := s.coreTick k, real := s.now
        orW := ((q.reg p.orSrc).setWidth 32 &&& 0xFFFFFFFE#32) ||| BitVec.ofNat 32 (bnat (s.core k).nf.flag) }
    let here := { q with st := .proofWait, wait := .none, proof := p, lastTag := p.tag, tickAt := none }
    (i = .proof k g p.scope p.orSrc p.andSrc p.orDst p.andDst p.tag ∧ s.names k i = true ∧ g.pg = 0 ∧ g.pn = false ∧
        seqRuns k g [p.orSrc, p.andSrc] s = true ∧ (s.core k).inCode (pc + 4) 4 = true ∧
        (s.core k).parityBad (pc + 4) 4 = false) ∨
      (i = .proofReach k ∧ q.wait = .proof p ∧ seqAwake k s) →
    s.proof.entry = none → mayArrive s k = true → residue (s.core k) = none → (s.core k).braid.buf = [] →
    (s.core k).braid.forward = [] →
    x.differ = none → s.proof.wDiffer = none →
    ((∀ y ∈ x.arrivals, y.arg.scope = p.scope ∧ y.arg.tag = p.tag) →
      (x.arrivals.length + 1 < (s.coresOf c).length → ∃ t, exec i s = .next t ∧ (t.core k).seq = here ∧
        mget t.proof.inst c {} = { x with arrivals := x.arrivals ++ [a] } ∧ t.mem = s.mem ∧
        ∀ j, j ≠ k → t.core j = s.core j) ∧
      (x.arrivals.length + 1 = (s.coresOf c).length → p.scope = 0 → ∃ t, exec i s = .next t ∧ (t.core k).seq = here ∧
        mget t.proof.inst c {} = { x with arrivals := x.arrivals ++ [a], release := some (s.now + 12) } ∧ t.mem = s.mem)) ∧
    (∀ y rest, x.arrivals = y :: rest → (∀ z ∈ rest, z.arg.scope = y.arg.scope ∧ z.arg.tag = y.arg.tag) →
      ¬(y.arg.scope = p.scope ∧ y.arg.tag = p.tag) → (s.core k).fault.valid = false → k ∈ s.coresOf c →
      ∃ t, exec i s = .next t ∧ (t.core k).seq.st = .faulted ∧ (t.core k).fault.code = 0x01 ∧
        (t.core k).fault.detail = BitVec.ofNat 64 (0x05 * 2 ^ 56 + p.scope.toNat * 2 ^ 16 + p.tag.toNat))

/-- R37, R62, R76, R80, R294, R300: a PROOF whose core still has work outstanding waits, and one whose KRECVs have not retired raises
their Hold; one that finds a filled link slot, or a Braid tile, be it one that waits for a credit, stops the core with LINK_RESIDUE; a
guarded PROOF stops it with GUARDED. While it waits, the PC stays at the PROOF (log entry 89). -/
def Claims.proofWaitsOrFaults : Prop :=
  ∀ (k : Nat) (g : Guard) (p : ProofArg) (s : State),
    let q := (s.core k).seq
    let pc := q.pc.toNat
    let i : Instr := .proof k g p.scope p.orSrc p.andSrc p.orDst p.andDst p.tag
    let pcw := BitVec.ofNat 16 (pc / 4)
    let always := g.pg = 0 ∧ g.pn = false
    let stops := fun (detail : Nat) => (s.core k).fault.valid = false →
      ∃ t, exec i s = .next t ∧ seqFaulted k 0x01 (BitVec.ofNat 64 detail) pcw t ∧ besideFault k s t
    let reads := always ∧ s.names k i = true ∧ seqRuns k g [p.orSrc, p.andSrc] s = true ∧ (s.core k).inCode (pc + 4) 4 = true ∧
      (s.core k).parityBad (pc + 4) 4 = false ∧ s.proof.entry = none
    (reads → mayArrive s k = false → (∀ r ∈ (s.cluster (s.clusterOf k)).krecvs, r.core ≠ k) →
      exec i s = .next (s.onSeq k fun q => { q with wait := .proof p, tickAt := none })) ∧
    (∀ r, reads → (s.cluster (s.clusterOf k)).krecvs = [r] → r.core = k → s.hold.eps = [] →
      ∃ t e, exec i s = .next t ∧ (t.core k).seq = { q with wait := .proof p, tickAt := none } ∧ t.coreFrozen k = true ∧
        t.hold.eps = [e] ∧ ∃ x, e.raisers = [x] ∧ x.who = .island (s.clusterOf k) ∧ x.item = some (recvItem r.id) ∧
          x.s = s.now ∧ x.core = none) ∧
    (∀ n, reads → mayArrive s k = true → residue (s.core k) = some n → n < 2 ^ 16 → stops (0x07 * 2 ^ 56 + n)) ∧
    (reads → mayArrive s k = true → residue (s.core k) = none → ((s.core k).braid.buf ≠ [] ∨ (s.core k).braid.forward ≠ []) →
      stops (0x07 * 2 ^ 56 + 0x10)) ∧
    (seqFetch k s = true → s.names k i = true → ¬always → stops (0x09 * 2 ^ 56 + (s.fetched k).1.toNat))

/-- R39, R40, R42, R75, R284, R531: at the end of its turnaround a CLUSTER Proof releases every core of its cluster that waits, with
the OR and the AND of all arrivals; no other core changes, and the superstep count stays. While a full ring holds units of a message in
the mesh, the Proof traffic may wait behind them: that is a free value (log entry 95). The zeros above a result word are read from R75
(log entry 44), and the PC, which stood at the PROOF, is 8 further (log entry 89). -/
def Claims.clusterProofReleases : Prop :=
  ∀ (c due : Nat) (s : State),
    let x := mget s.proof.inst c {}
    x.release = some due → due ≤ s.now →
    ∃ t, exec (.proofRelease (.cluster c)) s = .next t ∧ ((ringHolds s ∧ t = s.drawFree.2) ∨
      (∀ k ∈ s.coresOf c, awaitsRelease k s →
        coreReleased k ((x.arrivals.map (·.orW)).foldl (· ||| ·) 0) ((x.arrivals.map (·.andW)).foldl (· &&& ·) 0xFFFFFFFF#32) s t ∧
        (t.core k).mx = (s.core k).mx ∧ (t.core k).vec = (s.core k).vec ∧ (t.core k).sp = (s.core k).sp) ∧
      (∀ k, k ∉ s.coresOf c → t.core k = s.core k) ∧ mfind t.proof.inst c = none ∧ t.ctxs = s.ctxs ∧ t.sync = s.sync ∧
      t.mem = s.mem ∧ (∀ d, (t.cluster d).cells = (s.cluster d).cells))

/-- R39, R42, R75, R123, R272, R284, R531: at the end of its turnaround a MODULE Proof of a running job releases every core that
waits, clears the CLUSTER and MODULE cells and the stations' state, and counts one more release of MODULE scope or wider; TRAY and
FABRIC cells stay. (The instance is that of a Proof with nothing else due at it: no snapshot, trace command, arm or switch.) Units
that a full ring holds may hold it back (log entry 95); the result words and the PC are as for CLUSTER (log entries 44 and 89). -/
def Claims.moduleProofReleases : Prop :=
  ∀ (i due : Nat) (s : State),
    let p := s.proof
    p.release = some due → due ≤ s.now → s.cur = some i → (s.ctx i).st = .running → p.entry = none →
    (s.ctx i).arm = none → (s.ctx i).switchAt = none → s.obs.pendTrace = [] → s.obs.mode ≠ 1 →
    ∃ t, exec (.proofRelease .module) s = .next t ∧ ((ringHolds s ∧ t = s.drawFree.2) ∨
      (∀ k ∈ s.allCores, awaitsRelease k s →
        coreReleased k ((p.wArgs.map (·.orW)).foldl (· ||| ·) 0) ((p.wArgs.map (·.andW)).foldl (· &&& ·) 0xFFFFFFFF#32) s t ∧
        (t.core k).mx = {} ∧ (t.core k).vec = {} ∧ (t.core k).sp = {} ∧ (t.core k).braid.buf = []) ∧
      t.ctx i = { s.ctx i with w := (s.ctx i).w + 1 } ∧ (∀ d, (t.cluster d).cells = []) ∧ t.sync.mcells = [] ∧
      t.sync.tcells = s.sync.tcells ∧ t.sync.fcells = s.sync.fcells ∧ t.mem = s.mem ∧
      t.proof = { phaseStart := s.now, trayIn := p.trayIn, fabIn := p.fabIn })

/-- R316, R317, R531: a TRAY or FABRIC Proof takes effect when fabric time reaches its release time: the cores that wait are
released with its words, and a FABRIC Proof counts as one; if it differed they fault with PROOF_MISMATCH instead. (A release that
came late has a statement of its own; the result words and the PC are as for CLUSTER, log entries 44 and 89.) -/
def Claims.fabricProofReleases : Prop :=
  ∀ (i : Nat) (r : FabRelease) (s : State),
    s.proof.fab = some r → r.time ≤ s.fab.ftime → r.late = false →
    (r.mismatch = false → r.scope ≠ 0 → r.scope ≠ 1 → s.cur = some i → (s.ctx i).st = .running → s.proof.entry = none →
      (s.ctx i).arm = none → (s.ctx i).switchAt = none → s.obs.pendTrace = [] → s.obs.mode ≠ 1 →
      ∃ t, exec .fabricProofReleaseTime s = .next t ∧
        (∀ k ∈ s.allCores, awaitsRelease k s → coreReleased k r.orW r.andW s t) ∧
        t.ctx i = { s.ctx i with w := (s.ctx i).w + 1, fabN := (s.ctx i).fabN + (if r.scope = 3 then 1 else 0) } ∧
        t.sync.mcells = [] ∧ t.sync.tcells = [] ∧ t.sync.fcells = (if r.scope = 3 then [] else s.sync.fcells) ∧
        t.proof.fab = none ∧ t.mem = s.mem) ∧
    (r.mismatch = true → ∃ t, exec .fabricProofReleaseTime s = .next t ∧ t.proof.fab = none ∧
      ∀ k ∈ s.allCores, (s.core k).seq.st = .proofWait → (s.core k).fault.valid = false →
        (t.core k).seq.st = .faulted ∧ (t.core k).fault.code = 0x01 ∧
        (t.core k).fault.detail = BitVec.ofNat 64 (0x05 * 2 ^ 56 + r.scope.toNat * 2 ^ 16 + r.tag.toNat))

/-- R40, R57, R317, R331: the Hold of a release that comes `d` ticks late: one episode that began when the release was due, or with the
end of the last one, of cause LINK_RETRY at every island, which stands frozen since then; its cause ends in this tick. That every island
raises it, and from when, is read from R317 (log entry 46). -/
def Claims.lateReleaseIsAHold : Prop :=
  ∀ (d : Nat) (s : State), s.hold.eps = [] → ∃ e : Episode,
    (lateRelease d s).hold.eps = [e] ∧ e.u0 = max (s.now - d) s.hold.lastEnd ∧
    (∀ c, c < nIslands → (∃ x ∈ e.raisers, x.who = .island c ∧ x.cause = 2 ∧ x.s = e.u0 ∧ x.clear = some s.now) ∧
      ((lateRelease d s).island c).since = some e.u0 ∧ mfind e.froze c = some e.u0) ∧
    lateRelease d s = { s with hold := (lateRelease d s).hold }

/-- R334, R438, R511: 4,096 ticks after take-up, with no core frozen, every core arrives at the entry Proof; in a job of one
module it is released 160 ticks
later. A module whose TT-ID differs from the fabric root's completes its launch with TIMING_TABLE, and one whose flags or Hold
limit differ with BAD_PARAM; its context is LOADED again. -/
def Claims.entryProofArrives : Prop :=
  ∀ (i due : Nat) (root : Option RootLaunch) (s : State),
    let c := s.ctx i
    s.proof.entry = some i → s.proof.entryAt = some due → due ≤ s.now → (∀ k ∈ s.allCores, s.coreFrozen k = false) →
    ((entryArg c).scope = 1 → ∃ t, exec (.entryProofArrival root) s = .next t ∧ t.proof.release = some (s.now + 160) ∧
      t.proof.entryAt = none ∧ t.proof.entry = some i ∧ t.ctxs = s.ctxs ∧
      ∀ k x, mfind s.cores k = some x → t.core k = { x with seq := { x.seq with st := .proofWait, wait := .none } }) ∧
    (∀ (r : RootLaunch) (op : BitVec 32) (o : Op), root = some r → (entryArg c).scope ≠ 1 → c.launchOp = some op →
      s.op op = some o → o.enc = false → o.iface = .renkai → c.st = .running →
      (r.ttId ≠ c.bin.ttId ∨ (r.flags.extractLsb' 0 11 ≠ c.launch.flags.extractLsb' 0 11 ∨ r.holdLimit ≠ c.launch.holdLimit)) →
      ∃ t, exec (.entryProofArrival root) s = .next t ∧ (t.ctx i).st = .loaded ∧ (t.ctx i).launchOp = none ∧ t.proof = {} ∧
        t.op op = none ∧ ∃ y ∈ t.host.sent,
          y.hdr.take 7 = leBytes 2 o.opcode.toNat ++ leBytes 2 o.tag.toNat ++ leBytes 1 o.ctx.toNat ++
            [0x80#8, if r.ttId ≠ c.bin.ttId then 0x0E#8 else 0x05#8])

/-- R101, R104, R120, R127: SETMODE sets the mode once every accumulation is complete; SETIDX of MATRIX sets ORIGIN and PITCH. -/
def Claims.matrixModeAndIndex : Prop :=
  ∀ (k : Nat) (a : Acc) (s : State),
    let m := (s.core k).mx
    let tick := s.coreTick k
    let field := (a.cmd.extractLsb' 78 2).toNat
    (comesUp k .matrix a 0x01 [] [] s → (∀ i, i < 4 → (m.array i).accDone ≤ tick) → field ≠ 3 →
      ∃ t, exec (.setmode k) s = .next t ∧ matrixActs k [] (tick + 2) [] s t ∧
        (t.core k).mx = { m with mode := if field = 0 then .split else if field = 1 then .gang2 else .gang4 }) ∧
    (comesUp k .matrix a 0x10 [] [] s →
      ∃ t, exec (.matrixSetidx k) s = .next t ∧ matrixActs k [] (tick + 1) [] s t ∧
        (t.core k).mx = { m with origin := a.cmd.extractLsb' 32 48, pitch := a.cmd.extractLsb' 8 24 })

/-- R102, R105–R107, R114, R115, R117: a load takes its tiles once no earlier load and no flip or stream in flight stands before it,
and puts them into P1, or into P0 and P1, of every array of its mask: LOAD one tile, LOADPAIR two, with their sum in BF16, LOAD32
the two BF16 parts of
each FP32 element. What the array held stands beside them, for the vectors that enter up to the last tick of the load (log entry 30); the
banks stay, unless a stream that is still entering meets the change. A LOADPAIR frees both slots at its end (log entry 99) and writes
both registers by it (log entry 102), and a load of two tiles is in flight as a load of one from its end on (log entry 18). -/
def Claims.matrixLoads : Prop :=
  ∀ (k : Nat) (a : Acc) (s : State),
    let c := s.core k
    let tick := s.coreTick k
    let f := mxFmt a.cmd
    let into := fun (i : Nat) => (mxMask a.cmd).testBit i
    let words := fun (xs : List Nat) => xs.map (BitVec.ofNat 16 ·)
    let clear := fun (both : Bool) => c.mx.loadLast ≤ tick ∧ ∀ i, i < 4 → into i = true →
      (c.mx.array i).flipIn ≤ tick ∧ (both = true → (c.mx.array i).flight ≤ tick)
    let done := fun (i : Instr) (ins : List Nat) (ticks : Nat) (y : MArray → MArray) =>
      ∃ t, exec i s = .next t ∧ matrixActs k ins (tick + ticks) [] s t ∧
        (∀ n, n < 4 →
          let x := c.mx.array n
          let z := (t.core k).mx.array n
          if into n then z.p0 = (y x).p0 ∧ z.p1 = (y x).p1 ∧ z.sum = (y x).sum ∧ z.fmt0 = (y x).fmt0 ∧ z.fmt1 = (y x).fmt1 ∧
            z.loadEnd = tick + ticks ∧ z.past.getLast? = some (x.regs (tick + ticks - 1)) ∧
            (x.lastIn ≤ tick → z.bank0 = x.bank0 ∧ z.bank1 = x.bank1)
          else z = x) ∧
        (t.core k).mx.loadLast = tick + ticks ∧ (t.core k).mx.mode = c.mx.mode
    (comesUp k .matrix a 0x02 [cmdIn a.cmd] [] s → clear false →
      done (.load k) [cmdIn a.cmd] (fmtTile f / 256) fun x =>
        { x with p1 := words (tileElems f (c.inSlot (cmdIn a.cmd))), fmt1 := some (BitVec.ofNat 4 f) }) ∧
    (comesUp k .matrix a 0x04 [cmdIn a.cmd, cmdIn2 a.cmd] [] s → clear true →
      done (.loadpair k) [cmdIn a.cmd, cmdIn2 a.cmd] (2 * (fmtTile f / 256)) fun x =>
        { x with p0 := words (tileElems f (c.inSlot (cmdIn a.cmd)))
                 p1 := words (tileElems f (c.inSlot2 [cmdIn a.cmd, cmdIn2 a.cmd]))
                 sum := words (List.zipWith (fun u v => encode 1 .rne (addV (decode f u) (decode f v)))
                   (tileElems f (c.inSlot (cmdIn a.cmd))) (tileElems f (c.inSlot2 [cmdIn a.cmd, cmdIn2 a.cmd])))
                 fmt0 := some (BitVec.ofNat 4 f), fmt1 := some (BitVec.ofNat 4 f) }) ∧
    (comesUp k .matrix a 0x05 [cmdIn a.cmd] [] s → clear true →
      done (.load32 k) [cmdIn a.cmd] 16 fun x =>
        let xs := (tileElems 0 (c.inSlot (cmdIn a.cmd))).map (BitVec.ofNat 32 ·)
        { x with p0 := words (xs.map splitHi), p1 := words (xs.map splitLo), fmt0 := some 0, fmt1 := some 0 })

/-- R101, R103–R105, R110–R113, R121, R129: STREAM passes its tile through the arrays of its group and adds the chunk sums to the named bank
of each array it fills, in the order of the plan of the mode: floating-point, or exact integer sums for INT8. With FLIP, P1 of
the group has become P0 first; each vector meets what the cells hold in its own tick of entry (in the tick of a write the old value, log
entry 30). Its ticks are those of the class that its format and those of the stationaries it finds give (R112, R113; log entry 99). No
other bank changes. -/
def Claims.matrixStream : Prop :=
  ∀ (k : Nat) (a : Acc) (s : State),
    let c := s.core k
    let m := c.mx
    let tick := s.coreTick k
    let f := mxFmt a.cmd
    let b := mxBank a.cmd
    let orient := mxOrient a.cmd
    let group := mxGroup m.mode (mxMask a.cmd)
    let plan := mxPlan m.mode orient (mxMask a.cmd)
    let ins := mxIns m.mode a.cmd
    let flips := fun (j : Nat) => mxFlip a.cmd && group.contains j
    let x := fun (n : Nat) => (((c.inSlots ins).map (tileElems f))[n]?).getD []
    let w := fun (j : Nat) => if flips j then { m.array j with p0 := (m.array j).p1, fmt0 := (m.array j).fmt1 } else m.array j
    let met := fun (j : Nat) => MArray.enter tick (flips j) (m.array j)
    let fmts := group.map fun i => (((if mxFlip a.cmd then (m.array i).fmt1 else (m.array i).fmt0).map (·.toNat)).getD f)
    let ticks := if f = 8 then 16
      else if 2048 ≤ fmtTile f ∨ ∃ g ∈ fmts, 2048 ≤ fmtTile g then 32
      else if f = 7 ∧ ∀ g ∈ fmts, g = 7 then 8 else 16
    let sum := fun (y : Bank) (q : Nat × Nat) =>
      if f = 8 then y.addI 0 (chunkTileI orient (rowTick tick ticks) ((x q.2).map (int8 false))
        ((met q.1).met fun g => regVals 0 (fun v => int8 false v.toNat) g.p0))
      else y.addF false (chunkTile orient (rowTick tick ticks) ((x q.2).map (decode f)) (met q.1).p0V)
    comesUp k .matrix a 0x08 ins [] s → streamFrom m group (mxFlip a.cmd) orient (plan.map fun p => (p.1, b, ticks)) ≤ tick →
    (∀ p ∈ plan, noDrainOf k p.1 b s) →
    ∃ t, exec (.stream k) s = .next t ∧ matrixActs k ins (tick + ticks) [] s t ∧
      (∀ p ∈ plan, ((t.core k).mx.array p.1).bank b =
        { p.2.foldl sum (((m.array p.1).bank b).init (mxInit a.cmd)) with
          done := tick + ticks + completeAfter s (mx64K m.mode orient) }) ∧
      (∀ j, j ∉ plan.map (·.1) → ((t.core k).mx.array j).bank b = (m.array j).bank b) ∧
      ∀ j, ((t.core k).mx.array j).bank (!b) = (m.array j).bank (!b) ∧ ((t.core k).mx.array j).p0 = (w j).p0 ∧
        ((t.core k).mx.array j).p1 = (m.array j).p1

/-- R105, R111, R115–R118, R121, R129: STREAMI adds one integer pass, shifted, to its bank; STREAM32 adds hi·lo, lo·hi and hi·hi;
STREAMC adds a complex product to both banks, in four passes, or in three with the pre-sums of GAUSS; bank 0 has its last vector with
the second pass. No register and no other array changes. Which parts STREAM32 pairs is log entry 86, what a vector meets in the tick
of a write log entry 30, and the tick that frees the slots of a STREAMC log entry 99. -/
def Claims.matrixPasses : Prop :=
  ∀ (k : Nat) (a : Acc) (s : State),
    let c := s.core k
    let tick := s.coreTick k
    let n := mxMask a.cmd
    let x := c.mx.array n
    let b := mxBank a.cmd
    let orient := mxOrient a.cmd
    let w := MArray.enter tick false x
    let pass := fun (i : Nat) => chunkTile orient (rowTick (tick + 32 * i) 32)
    let start := fun (y : Bank) => y.init (mxInit a.cmd)
    let free := fun (banks : List Bool) => x.lastIn ≤ tick ∧ (x.orient ≠ orient → x.accDone ≤ tick) ∧
      ∀ y ∈ banks, (x.bank y).drain ≤ tick ∧ noDrainOf k n y s
    let acts := fun (i : Instr) (ins : List Nat) (ticks : Nat) (b0 b1 : Bank) =>
      ∃ t, exec i s = .next t ∧ matrixActs k ins (tick + ticks) [] s t ∧
        ((t.core k).mx.array n).bank0 = b0 ∧ ((t.core k).mx.array n).bank1 = b1 ∧
        ((t.core k).mx.array n).p0 = x.p0 ∧ ((t.core k).mx.array n).p1 = x.p1 ∧
        ∀ j, j ≠ n → (t.core k).mx.array j = c.mx.array j
    let one := fun (i : Instr) (ticks : Nat) (y : Bank) =>
      let y' := { y with done := tick + ticks + completeAfter s false }
      acts i [cmdIn a.cmd] ticks (if b then x.bank0 else y') (if b then y' else x.bank1)
    mxFlip a.cmd = false →
    (comesUp k .matrix a 0x09 [cmdIn a.cmd] [] s → free [b] →
      one (.streami k) 16 ((start (x.bank b)).addI (mxShift a.cmd) (chunkTileI orient (rowTick tick 16)
        ((tileElems 8 (c.inSlot (cmdIn a.cmd))).map (int8 (mxXu a.cmd)))
        (w.met fun g => regVals 0 (fun v => int8 (mxWu a.cmd) v.toNat) (if mxReg a.cmd then g.p1 else g.p0))))) ∧
    (comesUp k .matrix a 0x0A [cmdIn a.cmd] [] s → free [b] →
      let xs := (tileElems 0 (c.inSlot (cmdIn a.cmd))).map (BitVec.ofNat 32 ·)
      let hi := xs.map fun v => decode 1 (splitHi v)
      let lo := xs.map fun v => decode 1 (splitLo v)
      one (.stream32 k) 96 ((((start (x.bank b)).addF false (pass 0 hi w.p1V)).addF false (pass 1 lo w.p0V)).addF false
        (pass 2 hi w.p0V))) ∧
    (comesUp k .matrix a 0x0B [cmdIn a.cmd, cmdIn2 a.cmd] [] s → free [false, true] →
      let ins := [cmdIn a.cmd, cmdIn2 a.cmd]
      let re := (tileElems 1 (c.inSlot (cmdIn a.cmd))).map (decode 1)
      let im := (tileElems 1 (c.inSlot2 ins)).map (decode 1)
      let rr := pass 0 re w.p0V
      let ii := pass 1 im w.p1V
      let both := pass 2 (List.zipWith bf16Sum re im) (w.met fun g => bf16Vals g.sum)
      let ticks := if mxGauss a.cmd then 96 else 128
      let y0 := ((start x.bank0).addF false rr).addF true ii
      let y1 := if mxGauss a.cmd then (((start x.bank1).addF true rr).addF true ii).addF false both
        else ((start x.bank1).addF false (pass 2 re w.p1V)).addF false (pass 3 im w.p0V)
      acts (.streamc k) ins ticks { y0 with done := tick + 64 + completeAfter s false }
        { y1 with done := tick + ticks + completeAfter s false })

/-- R50, R119–R121, R129, R147, R148, R170: DRAIN of MATRIX, in its turn or once it has waited, when its bank is complete, converts
every element of the bank by the scale and the rounding of the command and writes the tile, with the status of its first non-finite or
saturated element; the bank keeps its values. A DRAIN that cannot begin in its turn waits, and later commands go on (log entry 109). -/
def Obligations.matrixDrainWrites : Prop :=
  ∀ (k : Nat) (a : Acc) (s : State),
    let c := s.core k
    let tick := s.coreTick k
    let bank := (c.mx.array (mxMask a.cmd)).bank (mxBank a.cmd)
    let f := mxFmt a.cmd
    let vals := if bank.vals = [] then List.replicate 1024 0 else bank.vals
    let el := vals.mapIdx fun i (v : F32) =>
      let y := convert f (rndOf (mxSr a.cmd) (srField c.lv (mxStream a.cmd) a.draw i)) (cmdScale a.cmd)
        (if bank.isInt then enc32 (.fin (decide (v.toInt < 0)) v.toInt.natAbs 0) else v)
      (y.1, y.2 || bank.sat.contains i)
    let may := bank.done ≤ tick ∧ c.mx.drainLast ≤ tick ∧ ∀ d, a.draw = some d → d.last + 1 ≤ tick
    (drainComes k .matrix a 0x11 s → linkWait c [] [cmdOut a.cmd] = none → may →
      ∃ t due tile, exec (.matrixDrain k) s = .next t ∧ drainActs k .matrix due tile s t ∧
        (t.core k).vec = c.vec ∧ (t.core k).sp = c.sp ∧
        due = tick + (if s.curCtx.bin.ttId = 0x0A01#16 then 2 else 0) + fmtTile f / 256 ∧ tile.due = due ∧
        tile.link = cmdOut a.cmd ∧ tile.slot = (c.link (cmdOut a.cmd)).prod ∧ tile.data = tileBytes f (el.map (·.1)) ∧
        tile.status = tileStatus (el.map (·.2)) ∧ tile.st = .matrix ∧
        ∀ j b, ((t.core k).mx.array j).bank b =
          if j = mxMask a.cmd ∧ b = mxBank a.cmd then { bank with drain := due } else (c.mx.array j).bank b) ∧
    (drainComes k .matrix a 0x11 s → linkWait c [] [cmdOut a.cmd] ≠ none ∨ ¬may →
      exec (.matrixDrain k) s = .next (drainWaits k .matrix (cmdOut a.cmd) s))


/-- R157, R160, R161: an elementwise command of VECTOR computes each element in FP32 from the elements of A and, where it reads
one, of B as `BCAST` shows it, rounds it to the output format, and writes the tile; no statistics and no LEAVEN state changes. -/
def Obligations.vectorElementwise : Prop :=
  ∀ (k : Nat) (a : Acc) (s : State),
    let c := s.core k
    let x := vA c a.cmd
    let y := vB c a.cmd
    let zip := fun (f : F32 → F32 → F32) => List.zipWith f x y
    let table : List (Instr × Nat × List F32) :=
      [(.vectorAdd k, 0x01, zip fadd), (.vectorSub k, 0x02, zip fsub), (.vectorMul k, 0x03, zip fmul),
       (.axpy k, 0x04, zip fun p q => fadd (fmul (cmdScale a.cmd) p) q), (.vectorMax k, 0x05, zip fmax),
       (.vectorMin k, 0x06, zip fmin), (.abs k, 0x07, x.map fabs), (.neg k, 0x08, x.map fneg),
       (.cmpgt k, 0x09, zip fun p q => if fgt p q then f32One else 0), (.rcp k, 0x0A, x.map frcp),
       (.rsqrt k, 0x0B, x.map frsqrt), (.sqrt k, 0x0C, x.map fsqrt), (.exp2 k, 0x0D, x.map fexp2),
       (.log2 k, 0x0E, x.map flog2), (.sigmoid k, 0x0F, x.map fsigmoid), (.silu k, 0x10, x.map fsilu),
       (.tanh k, 0x11, x.map ftanh), (.copy k, 0x34, x),
       (.colsum k, 0x19, (transposeR 32 (rowsOf 32 32 x)).map tree32 ++ List.replicate 992 0)]
    ∀ e ∈ table, vectorComesUp k a e.2.1 s →
      let el := e.2.2.map (convertOut (vFmtOut a.cmd) .rne)
      ∃ t, exec e.1 s = .next t ∧
        vectorActs k a (some (tileBytes (vFmtOut a.cmd) (el.map (·.1)), tileStatus (el.map (·.2)))) s t ∧
        (t.core k).vec = c.vec ∧ (t.core k).lv = c.lv

/-- R161, R163: the commands that update the rows of their statistics set: ROWDOT adds the row's dot product to D, ROWMAX takes the
row's maximum into M, STATIN loads M, L and D and sets ALPHA to 1.0, STATCLR puts the rows back to their reset values. They write
no tile. -/
def Claims.vectorStatistics : Prop :=
  ∀ (k : Nat) (a : Acc) (s : State),
    let c := s.core k
    let old := statRow c.vec (vSet a.cmd)
    let x := rowOf (vA c a.cmd)
    let y := rowOf (vB c a.cmd)
    let col := fun (r i : Nat) => ((x r)[i]?).getD 0
    let table : List (Instr × Nat × (Nat → StatRow)) :=
      [(.rowdot k, 0x18, fun r => { old r with d := fadd (old r).d (tree32 (List.zipWith fmul (x r) (y r))) }),
       (.rowmax k, 0x1A, fun r => { old r with m := (x r).foldl fmax (old r).m }),
       (.statin k, 0x26, fun r => { m := col r 0, l := col r 1, d := col r 2, alpha := 0x3F800000#32 }),
       (.statclr k, 0x27, fun _ => { m := 0xFF800000#32, l := 0, d := 0, alpha := 0x3F800000#32 })]
    ∀ e ∈ table, vectorComesUp k a e.2.1 s →
      ∃ t, exec e.1 s = .next t ∧ vectorActs k a none s t ∧ statsBecome k a e.2.2 s t

/-- R161, R163, R164: the commands that read the rows of their statistics set and leave them: ROWNORM, SMAX_RESCALE, SMAX_NORM,
SMAX_RECOMP, SMAX_DS; and STATOUT, whose FP32 tile holds M, L and D in columns 0 to 2. -/
def Claims.vectorReadsStatistics : Prop :=
  ∀ (k : Nat) (a : Acc) (s : State),
    let c := s.core k
    let st := fun (i : Nat) => statRow c.vec (vSet a.cmd) (i / 32)
    let x := vA c a.cmd
    let enc := tileElems (vFmtIn a.cmd) (c.inSlot (cmdIn a.cmd))
    let xy := List.zip x (vB c a.cmd)
    let p := vParam a.cmd
    let eps : F32 := if p = 0 then 0 else enc32 (.fin false 1 (-(p : Int)))
    let table : List (Instr × Nat × List F32) :=
      [(.rownorm k, 0x1B, x.mapIdx fun i v => fmul v (frsqrt (fadd (fmul (st i).d (cmdScale a.cmd)) eps))),
       (.smaxRescale k, 0x21, xy.mapIdx fun i v => fadd (fmul v.1 (st i).alpha) v.2),
       (.smaxNorm k, 0x22, x.mapIdx fun i v => if (st i).l = 0 then 0 else fmul v (frcp (st i).l)),
       (.smaxRecomp k, 0x23, enc.mapIdx fun i v => if masked (vFmtIn a.cmd) v = true ∨ (st i).l = 0 then 0
          else fmul (fexp2 (fsub (toF32 (vFmtIn a.cmd) v) (st i).m)) (frcp (st i).l)),
       (.smaxDs k, 0x24, xy.mapIdx fun i v => fmul v.1 (fsub v.2 (st i).d))]
    let row := fun (r : Nat) => [(statRow c.vec (vSet a.cmd) r).m.toNat, (statRow c.vec (vSet a.cmd) r).l.toNat,
      (statRow c.vec (vSet a.cmd) r).d.toNat] ++ List.replicate 29 0
    (∀ e ∈ table, vectorComesUp k a e.2.1 s →
      let el := e.2.2.map (convertOut (vFmtOut a.cmd) .rne)
      ∃ t, exec e.1 s = .next t ∧
        vectorActs k a (some (tileBytes (vFmtOut a.cmd) (el.map (·.1)), tileStatus (el.map (·.2)))) s t ∧
        (t.core k).vec = c.vec ∧ (t.core k).lv = c.lv) ∧
    (vectorComesUp k a 0x25 s →
      ∃ t, exec (.statout k) s = .next t ∧ vectorActs k a (some (tileBytes 0 ((List.range 32).flatMap row), {})) s t ∧
        (t.core k).vec = c.vec ∧ (t.core k).lv = c.lv)

/-- R163, R164: SMAX_FWD takes the maximum of the row's unmasked elements into M, scales L by ALPHA, the power of two of the
maximum's change, adds the row's sum of powers, and writes the powers; masked elements give +0. Its set is free again in the tick of its
tile (log entry 92). -/
def Claims.vectorSoftmaxForward : Prop :=
  ∀ (k : Nat) (a : Acc) (s : State),
    let c := s.core k
    let f := vFmtIn a.cmd
    let row := fun (r : Nat) => (((rowsOf 32 32 (tileElems f (c.inSlot (cmdIn a.cmd))))[r]?).getD [])
    let old := statRow c.vec (vSet a.cmd)
    let live := fun (r : Nat) => ((row r).filter fun e => !masked f e).map (toF32 f)
    let m := fun (r : Nat) => match live r with
      | [] => (old r).m
      | x :: xs => fmax (old r).m (xs.foldl fmax x)
    let alpha := fun (r : Nat) => if m r = 0xFF800000#32 then f32One else if (old r).m = 0xFF800000#32 then 0
      else fexp2 (fsub (old r).m (m r))
    let p := fun (r : Nat) => (row r).map fun e =>
      if masked f e = true ∨ m r = 0xFF800000#32 then (0 : F32) else fexp2 (fsub (toF32 f e) (m r))
    let el := ((List.range 32).flatMap p).map (convertOut f .rne)
    vectorComesUp k a 0x20 s →
    ∃ t, exec (.smaxFwd k) s = .next t ∧
      vectorActs k a (some (tileBytes f (el.map (·.1)), tileStatus (el.map (·.2)))) s t ∧
      statsBecome k a (fun r => { old r with m := m r, alpha := alpha r, l := fadd (fmul (old r).l (alpha r)) (tree32 (p r)) }) s t

/-- R120, R139, R144, R160, R166–R169: CONVERT, DROPOUT, RAND_U and RAND_N: an element's random field is that of its logical
index in the command's stream, for the draw base captured at acceptance. -/
def Claims.vectorDraws : Prop :=
  ∀ (k : Nat) (a : Acc) (slot : StreamSlot) (d : DrawPhase) (s : State),
    let c := s.core k
    let x := vA c a.cmd
    let n := fun (i : Nat) => c.vec.origin.toNat + i / 32 * c.vec.pitch.toNat + i % 32
    let field := fun (kind i : Nat) => drawField slot d.base kind (n i)
    let scaled := fun (rnd : Nat → Rnd) =>
      x.mapIdx fun i v => convert (vFmtOut a.cmd) (rnd i) (cmdScale a.cmd) v
    let plain := fun (ys : List F32) => ys.map (convertOut (vFmtOut a.cmd) .rne)
    let writes := fun (i : Instr) (el : List (Nat × Bool)) => ∃ t, exec i s = .next t ∧
      vectorActs k a (some (tileBytes (vFmtOut a.cmd) (el.map (·.1)), tileStatus (el.map (·.2)))) s t ∧
      (t.core k).vec = c.vec ∧ (t.core k).lv = c.lv
    let draws := a.draw = some d ∧ c.lv.slot (vStream a.cmd) = some slot
    (vectorComesUp k a 0x30 s → draws → writes (.convert k) (scaled fun i => rndOf (vRnd a.cmd) (field 0 i))) ∧
    (vectorComesUp k a 0x30 s → a.draw = none → writes (.convert k) (scaled fun _ => rndOf (vRnd a.cmd) 0)) ∧
    (vectorComesUp k a 0x29 s → draws → writes (.dropout k)
      (plain (x.mapIdx fun i v => if vParam a.cmd ≤ field 1 i then fmul v (cmdScale a.cmd) else 0))) ∧
    (vectorComesUp k a 0x2A s → draws → writes (.randU k) (plain ((List.range 1024).map fun i => unifValue (field 2 i)))) ∧
    (vectorComesUp k a 0x2B s → draws → writes (.randN k) (plain ((List.range 1024).map fun i => normValue (field 3 i))))

/-- R120, R147, R161, R166, R173, R174: COMPACT keeps the elements of largest magnitude of each row and counts the rest as dropped;
its tile's status is that of the first non-finite element kept, and the elements kept are tapped (log entry 20);
TAPOUT writes the 32 entries of the norm-tap table and TAPCLR empties it; SETIDX of VECTOR sets ORIGIN and PITCH; LVBASE, whose
base was set at its acceptance, takes its tick. -/
def Claims.vectorOtherCommands : Prop :=
  ∀ (k : Nat) (a : Acc) (s : State),
    let c := s.core k
    let f := vFmtIn a.cmd
    let b := 4 * 2 ^ (vParam a.cmd % 4)
    let rows := rowsOf 32 32 (tileElems f (c.inSlot (cmdIn a.cmd)))
    let kept := (rows.mapIdx fun r row => (compactKeep f b row).map fun e => (32 * r + e.1, e.2)).flatten
    let lost := fun (row : List Nat) => (row.countP fun e => e % 2 ^ fmtSign f != 0) - (compactKeep f b row).length
    (vectorComesUp k a 0x33 s → ∃ t, exec (.compact k) s = .next t ∧
      vectorActsWith k a (some (padTo (blockSlot (valWidth f) b) ((rows.map (compactKeep f b)).flatMap (groupRecord f b)),
        recordStatus f kept)) (some (kept.map (·.2))) s t ∧
      (t.core k).lv = { c.lv with drop := min 0xFFFFFFFF (c.lv.drop + (rows.map lost).sum) } ∧ (t.core k).vec = c.vec) ∧
    (vectorComesUp k a 0x38 s → ∃ t, exec (.tapout k) s = .next t ∧
      vectorActs k a (some (tileBytes 0 ((List.range 32).flatMap fun n => tapRow (mget c.lv.taps n {})), {})) s t ∧
      (t.core k).lv = c.lv ∧ (t.core k).vec = c.vec) ∧
    (vectorComesUp k a 0x39 s → ∃ t, exec (.tapclr k) s = .next t ∧ vectorActs k a none s t ∧
      (t.core k).lv = { c.lv with taps := [] } ∧ (t.core k).vec = c.vec) ∧
    (vectorComesUp k a 0x3A s → ∃ t, exec (.vectorSetidx k) s = .next t ∧ vectorActs k a none s t ∧
      (t.core k).vec = { c.vec with origin := a.cmd.extractLsb' 32 48, pitch := a.cmd.extractLsb' 8 24 } ∧
      (t.core k).lv = c.lv) ∧
    (vectorComesUp k a 0x28 s → ∃ t, exec (.lvbase k) s = .next t ∧ vectorActs k a none s t ∧
      (t.core k).vec = c.vec ∧ (t.core k).lv = c.lv)

/-- R147, R153–R155, R161, R172, R175: PACKZ reads four slots and writes Z, the first 38 ticks after its start: each of the
eight rows of 512 elements becomes a record of its non-zero elements, and those that do not fit count as dropped; a slot's status
is that of its first non-finite element, and the elements kept are tapped (log entry 20). UNPACKZ reads Z slots and writes four,
each record spread over its row again; an element whose flag lies beyond the values of its record is a free value (log entry 93).
The station is busy for 32 ticks. (R175 gives the ticks of a command that waits for nothing, which this is; others are log entry 104.) -/
def Claims.vectorZeroPacking : Prop :=
  ∀ (k : Nat) (a : Acc) (s : State),
    let c := s.core k
    let tick := s.coreTick k
    let f := vFmtIn a.cmd
    let z := (a.cmd.extractLsb' 8 3).toNat + 1
    let inl := c.link (cmdIn a.cmd)
    let out := c.link (cmdOut a.cmd)
    let plain := rowsOf 512 8 (nextSlots k (cmdIn a.cmd) 4 s).flatten
    let recs := plain.map (zRecord f z)
    let spread := unzRecords (vFmtOut a.cmd) (rowsOf (64 * z) 8 (nextSlots k (cmdIn a.cmd) z s).flatten) s.free
    let carried := fun (i : Nat) => ((zElems f z plain).filter fun e => decide (e.1 / 512 = i)).map (·.2)
    let ready := fun (n m : Nat) => a.part = [] ∧ a.rest = [] ∧ a.readTo ≤ tick ∧ n ≤ inl.filled ∧
      inl.cons < linkDepth inl.cfg ∧ m ≤ out.free
    let acts := fun (i : Instr) (n lost free : Nat) (tiles : List (Nat × PackSlot)) =>
      ∃ t retire outs, exec i s = .next t ∧ begunWith k .vector (nextSlots k (cmdIn a.cmd) n s) (tick + 32 / n * n) retire s t ∧
        slotsTaken k (cmdIn a.cmd) n (32 / n) s t ∧ (t.core k).stn.outs = c.stn.outs ++ outs ∧
        outs.map (fun x => (x.due, PackSlot.mk x.data x.status x.kept)) = tiles ∧
        (∀ x ∈ outs, x.st = .vector ∧ x.link = cmdOut a.cmd ∧ x.tap = BitVec.ofNat 2 (vTap a.cmd) ∧ x.due ≤ retire) ∧
        ((t.core k).link (cmdOut a.cmd)).free = out.free - tiles.length ∧ (t.stq k .vector).busy = tick + 32 ∧
        (t.core k).lv = { c.lv with drop := min 0xFFFFFFFF (c.lv.drop + lost) } ∧ (t.core k).vec = c.vec ∧
        (t.core k).mx = c.mx ∧ (t.core k).sp = c.sp ∧ stationKeeps k { s with free := free } t
    (comesUp k .vector a 0x31 [] [] s → ready 4 z →
      acts (.packz k) 4 ((recs.map (·.2)).sum) s.free ((rowsOf 512 z (recs.flatMap (·.1))).mapIdx fun i b =>
        (tick + 38 + i, ⟨b, recordStatus f (carried i), some ((carried i).map (·.2))⟩))) ∧
    (comesUp k .vector a 0x32 [] [] s → ready z 4 →
      acts (.unpackz k) z 0 spread.2 ((rowsOf 1024 4 spread.1).mapIdx fun i b =>
        (tick + 8 * (i + 1) + 6,
          ⟨b, tileStatus ((tileElems (vFmtOut a.cmd) b).map (encNonFinite (vFmtOut a.cmd))), none⟩)))

/-- R184, R185, R199, R202: SETB, once SPARSE is quiet (that it waits for an SXLOAD too is log entry 105), sets the budget and empties
the sets and the chunk slots; SXLOAD fills one chunk slot from the slots of one token width (the slots of another width that it overlaps
are log entry 107); SETIDX of SPARSE sets ORIGIN and PITCH. -/
def Claims.sparseSetup : Prop :=
  ∀ (k : Nat) (a : Acc) (s : State),
    let c := s.core k
    let x := c.sp
    let tick := s.coreTick k
    let f := spFmt a.cmd
    let n := 512 / x.budget / 32
    let ticks := n * (fmtTile f / 256)
    (comesUp k .sparse a 0x01 [] [] s → (∀ i, i < 4 → (x.set i).done ≤ tick) → x.drainFree ≤ tick → x.issueFree ≤ tick →
      x.loadFree ≤ tick → (∀ y ∈ (s.stq k .sparse).acc, y.issued = false) →
      ∃ t, exec (.setb k) s = .next t ∧ sparseActs k [] tick (tick + 2) [] s t ∧
        (t.core k).sp = { x with budget := 4 * 2 ^ (a.cmd.extractLsb' 62 2).toNat, sets := [], chunks := [] }) ∧
    (comesUp k .sparse a 0x02 [] [] s → a.part = [] → a.readTo ≤ tick → n ≤ (c.link (cmdIn a.cmd)).filled →
      (c.link (cmdIn a.cmd)).cons < linkDepth (c.link (cmdIn a.cmd)).cfg → x.loadFree ≤ tick →
      mget x.chunkRead (spChunk a.cmd) 0 ≤ tick →
      ∃ t, exec (.sxload k) s = .next t ∧ begunWith k .sparse (nextSlots k (cmdIn a.cmd) n s) (tick + ticks) (tick + ticks) s t ∧
        slotsTaken k (cmdIn a.cmd) n (fmtTile f / 256) s t ∧ stationKeeps k s t ∧
        mfind (t.core k).sp.chunks (spChunk a.cmd) =
          some { fmt := BitVec.ofNat 4 f, data := (nextSlots k (cmdIn a.cmd) n s).flatMap (tileElems f) } ∧
        (t.core k).sp = { x with chunks := (t.core k).sp.chunks, loadFree := tick + ticks } ∧
        (t.core k).mx = c.mx ∧ (t.core k).vec = c.vec ∧ (t.core k).lv = c.lv) ∧
    (comesUp k .sparse a 0x04 [] [] s →
      ∃ t, exec (.sparseSetidx k) s = .next t ∧ sparseActs k [] tick (tick + 1) [] s t ∧
        (t.core k).sp = { x with origin := a.cmd.extractLsb' 32 48, pitch := a.cmd.extractLsb' 8 24 })

/-- R187–R190, R192–R195: SPMM adds, record by record, each kept weight times its column of activations to the bank of its position;
SPARSE DRAIN, in its turn or once it has waited, adds the two sets of a pair and writes a tile of the converted sums; one that cannot begin
waits, and later commands, an SPMM of the other pair among them, go on (log entry 109). A bad record stops the core with SPARSE_META, in
the tick in which it is issued: at once if it is one of the first four, else as many ticks on as fours stand before it (R193). -/
def Claims.sparseProducts : Prop :=
  ∀ (k : Nat) (a : Acc) (s : State),
    let c := s.core k
    let x := c.sp
    let tick := s.coreTick k
    let f := spFmt a.cmd
    let b := x.budget
    let w := 512 / b
    let set := x.set (spSetNo a.cmd)
    let slot := c.inSlot (cmdIn a.cmd)
    let recs := rowsOf (recSize (valWidth f) b) 32 slot
    let cols := chunkCols (mfind x.chunks (spChunk a.cmd)) w
    let zeros := List.replicate 32 (List.replicate w (0 : F32))
    let start := if spInit a.cmd = true ∨ set.banks = [] then zeros else set.banks
    let may := comesUp k .sparse a 0x03 [cmdIn a.cmd] [] s ∧ (∀ i, set.issue = some i → i + 16 ≤ tick) ∧
      x.issueFree ≤ tick ∧ mget x.pairDrain (spSetNo a.cmd / 2) 0 ≤ tick ∧
      ∀ y ∈ (s.stq k .sparse).acc, y.issued = true → spPair y.cmd ≠ spSetNo a.cmd / 2
    let good := (∀ r ∈ recs, recOk f b r = true) ∧ ∀ y ∈ slot.drop (32 * recSize (valWidth f) b), y = 0
    let bad := goodRecords f b slot
    let off := bad * recSize (valWidth f) b
    (may → good → ∃ t q, exec (.spmm k) s = .next t ∧ sparseActs k [cmdIn a.cmd] (tick + 8) (tick + 8) [] s t ∧
      (t.core k).sp = { x with
        sets := mset x.sets (spSetNo a.cmd)
          { banks := (List.zip cols recs).foldl (fun bs e => spRecord f b e.1 bs e.2) start, issue := some tick
            done := tick + (if s.curCtx.bin.ttId = 0x0A01#16 then 21 else 20)
            adds := tick + (if s.curCtx.bin.ttId = 0x0A01#16 then 5 else 4), queue := q
            pastAt := set.adds, pastEnd := set.done, past := set.queue }
        chunkRead := mset x.chunkRead (spChunk a.cmd) (tick + 8), issueFree := tick + 8 }) ∧
    (may → ¬good → c.fault.valid = false → ∃ t e, exec (.spmm k) s = .next t ∧ bad < 32 ∧
      e = FaultArg.mk 0x06 4 (cmdLayer a.cmd) (cmdOp a.cmd) (BitVec.ofNat 16 a.pcw)
        (BitVec.ofNat 64 (match (mget (c.link (cmdIn a.cmd)).status (c.link (cmdIn a.cmd)).cons {}).src with
          | some base => (base + off) % 2 ^ 42
          | none => 2 ^ 60 + off)) a.cmd ∧
      (if bad < 4 then (t.core k).seq.st = .faulted ∧ (t.core k).stopAt = (if c.seq.st = .faulted then c.stopAt else some tick) ∧
          (t.core k).fault = faultRec k e s
        else (t.core k).seq = c.seq ∧ (t.core k).dueFault = some (tick + bad / 4, e)) ∧ besideFault k s t) ∧
    (let pair := spPair a.cmd
     let el := (pairTile x pair (spTile a.cmd)).mapIdx fun i v =>
       convert f (rndOf (mxSr a.cmd) (srField c.lv (mxStream a.cmd) a.draw i)) (cmdScale a.cmd) v
     let drains := (x.set (2 * pair)).done ≤ tick ∧ (x.set (2 * pair + 1)).done ≤ tick ∧ x.drainFree ≤ tick ∧
       ∀ d, a.draw = some d → d.last + 1 ≤ tick
     (drainComes k .sparse a 0x05 s → linkWait c [] [cmdOut a.cmd] = none → drains →
       ∃ t due tile, exec (.sparseDrain k) s = .next t ∧ drainActs k .sparse due tile s t ∧ (t.core k).mx = c.mx ∧
         (t.core k).vec = c.vec ∧ tile.due = due ∧
         due = tick + (if s.curCtx.bin.ttId = 0x0A01#16 then 2 else 0) + fmtTile f / 256 ∧ tile.link = cmdOut a.cmd ∧
         tile.data = tileBytes f (el.map (·.1)) ∧ tile.status = tileStatus (el.map (·.2)) ∧ tile.st = .sparse ∧
         tile.tap = BitVec.ofNat 2 (mxTap a.cmd) ∧
         (t.core k).sp = { x with drainFree := due, pairDrain := mset x.pairDrain pair due }) ∧
     (drainComes k .sparse a 0x05 s → linkWait c [] [cmdOut a.cmd] ≠ none ∨ ¬drains →
       exec (.sparseDrain k) s = .next (drainWaits k .sparse (cmdOut a.cmd) s)))

/-- R54, R107, R129, R163, R169, R175, R189: a command that waited in its station, for a link, an interlock, the station or an
accumulation, goes on as its own row says, and so does a DRAIN that has had its turn (log entry 109); one that waits on a link goes on
by STATION_WAIT_RELEASE alone. -/
def Claims.waitingCommandsGoOn : Prop :=
  ∀ (k : Nat) (st : Station) (a : Acc) (r : Nat) (i : Instr) (s : State),
    let same := fun (j : Instr) => ∃ t, exec j s = .next t ∧ exec i s = .next t
    let tick := s.coreTick k
    (((s.stq k st).head = some a ∧ a.stage = .stalled r ∧ (s.stq k st).issued = none) ∨
      ((s.stq k st).issued = some a ∧ a.stage = .issued r ∧ (s.stq k st).head = none ∧ (i = .matrixDrain k ∨ i = .sparseDrain k))) →
    stationsOn k s = true → stationRow k st (cmdOpcode a.cmd) = some i →
    ((r = 2 ∨ r = 3) → same (.stationWaitRelease k st) ∧ exec (.interlockRelease k st) s = .next s) ∧
    (r ≠ 2 → r ≠ 3 → same (.interlockRelease k st) ∧ exec (.stationWaitRelease k st) s = .next s) ∧
    (st = .vector → same (.vectorCommandStart k)) ∧
    (∀ b, i = .matrixDrain k → b = bnat (mxBank a.cmd) →
      (((s.core k).mx.array (mxMask a.cmd)).bank (mxBank a.cmd)).done ≤ tick →
      same (.accumulationComplete k (mxMask a.cmd) b)) ∧
    (∀ set, i = .sparseDrain k → spPair a.cmd = set / 2 → ((s.core k).sp.set set).done ≤ tick →
      same (.sparseAccumulationComplete k set))

/-- R169, R170: DRAW_PHASE_START begins the draw phase of a command whose first draw tick has come: where one command alone has
a phase that is due, that one; no other field changes. -/
def Claims.drawPhaseBegins : Prop :=
  ∀ (k : Nat) (st : Station) (s : State),
    let due := fun (a : Acc) => match a.draw with
      | some d => !d.begun && decide (d.first ≤ s.coreTick k)
      | none => false
    let others := fun (y : Station) => ((s.stq k y).acc.any due) = false
    stationsOn k s = true → (st = .matrix ∨ st = .vector ∨ st = .sparse) → (s.stq k st).acc.any due = true →
    (∀ y, y ≠ st → others y) →
    ∃ t, exec (.drawPhaseStart k) s = .next t ∧
      (t.stq k st).acc = mapFirst due (fun a => { a with draw := a.draw.map fun d => { d with begun := true } }) (s.stq k st).acc ∧
      (t.stq k st).busy = (s.stq k st).busy ∧ (∀ y, y ≠ st → t.stq k y = s.stq k y) ∧
      t = s.setCore k { s.core k with stn := (t.core k).stn }

/-- R212, R213: what a FIFO, a RESIDENT and an ACCUMULATE ring give and take. A FIFO read stops at TAIL and moves the reader's
head unless it
is a windowed read; a FIFO append needs room before the slowest reader; the other modes wrap modulo SIZE; an access beyond the ring
is an error, and so is one to a ring that is not configured. -/
def Claims.ringRules : Prop :=
  ∀ (r : Ring) (j t n off : Nat) (form : Bool),
    let head := mget r.heads j 0
    let moved := { r with heads := mset r.heads j (head + n) }
    (r.mode = 0 → r.read j form off n = .error .opcode ∧ r.append t form off n = .error .opcode) ∧
    (r.mode = 1 → r.readers.getLsbD j = false → r.read j form off n = .error .opcode) ∧
    (r.mode = 1 → r.readers.getLsbD j = true →
      r.read j true off n = (if head + off + n ≤ r.tail then .ok (head + off, r) else .error .underrun) ∧
      r.read j false off n = (if head + n ≤ r.tail then .ok (head, moved) else .error .underrun)) ∧
    (r.mode = 1 → r.append t true off n = .error .opcode ∧
      r.append t false off n =
        (if r.tail - r.slowest t + n ≤ r.size ∨ n = 0 then .ok (r.tail, { r with tail := r.tail + n }) else .error .overrun)) ∧
    (2 ≤ r.mode.toNat →
      r.read j true off n = (if off < r.size then .ok (off, r) else .error .overrun) ∧ r.read j false off n = .ok (head, moved) ∧
      r.append t true off n = (if off < r.size then .ok (off, r) else .error .overrun) ∧
      r.append t false off n = .ok (r.tail, { r with tail := r.tail + n }))

/-- R206–R208, R219, R223, R226, R244: RD reserves one engine cycle per row of its slot and fills the slot with them; WR writes its
slot's rows to the ring; ACC reserves the read and the write of eight rows and adds in FP32 between them. While the port is still taken,
their ticks count from its freeing. Commands accepted in one tick reserve in the order of R208. -/
def Claims.ringCommandsReserve : Prop :=
  ∀ (k : Nat) (a : Acc) (ecc : List Ecc) (first : Nat) (ring : Ring) (s : State),
    let c := s.core k
    let x := s.cluster (s.clusterOf k)
    let tick := s.coreTick k
    let no := rgNo a.cmd
    let r := mget x.rings no {}
    let data := c.inSlot (cmdIn a.cmd)
    let size := linkSize (c.link (cmdOut a.cmd)).cfg / 512
    let became := fun (new : List Resv) (shift : Nat) (t : State) => t.cluster (s.clusterOf k) =
      { x with rings := mset x.rings no ring, resv := x.resv ++ new, engShift := min 0xFFFFFFFF (x.engShift + shift) }
    let d := if s.curCtx.bin.ttId = 0x0A01#16 then 5 else 4
    let f := portFrom k .fetch s
    let w := portFrom k .store s
    (ringComes k .fetch a 1 [] [cmdOut a.cmd] s → reservesLater s k .fetch a = false →
      r.read (s.clIndex k) (rgForm a.cmd) (rgOff a.cmd) size = .ok (first, ring) →
      ∃ t new shift tile, exec (.rd k ecc) s = .next t ∧ became new shift t ∧ ringKeeps k s t ∧
        cyclesFor k .read (f + 2) (ring.rows first size) shift new ∧ linksMoved k [] tick [tile] s t ∧
        tile.st = .fetch ∧ tile.link = cmdOut a.cmd ∧ tile.due = f + 8 + 2 * size + shift ∧ tile.missing = size ∧
        begunShifted k .fetch tile.due shift s t ∧ (t.stq k .fetch).port = f + 2 * size + shift) ∧
    (ringComes k .store a 1 [cmdIn a.cmd] [] s → reservesLater s k .store a = false →
      r.append tick (rgForm a.cmd) (rgOff a.cmd) (data.length / 512) = .ok (first, ring) →
      ∃ t new shift, exec (.wr k) s = .next t ∧ became new shift t ∧ ringKeeps k s t ∧
        cyclesFor k .write (w + 6) (ring.rows first (data.length / 512)) shift new ∧
        (∀ i y, new[i]? = some y → y.data = (data.drop (512 * i)).take 512) ∧
        linksMoved k [cmdIn a.cmd] (w + 2 * (data.length / 512) + shift) [] s t ∧
        begunShifted k .store (w + 6 + 2 * (data.length / 512) + shift) shift s t ∧
        (t.stq k .store).port = w + 2 * (data.length / 512) + shift) ∧
    (ringComes k .store a 2 [cmdIn a.cmd] [] s → reservesLater s k .store a = false →
      r.append tick (rgForm a.cmd) (rgOff a.cmd) 8 = .ok (first, ring) →
      ∃ t new shift, exec (.acc k ecc) s = .next t ∧ became new shift t ∧ ringKeeps k s t ∧ new.length = 16 ∧
        (∀ i y z, new[2 * i]? = some y → new[2 * i + 1]? = some z →
          (ring.rows first 8)[i]? = some y.row ∧ z.row = y.row ∧ y.kind = .accRead ∧ z.kind = .accWrite ∧
          w + 6 + 2 * i ≤ y.start ∧ y.start ≤ w + 6 + 2 * i + shift ∧ z.start = y.start + d ∧ y.lock = d + 2 ∧
          z.data = (data.drop (512 * i)).take 512) ∧
        linksMoved k [cmdIn a.cmd] (w + 16 + shift) [] s t ∧
        begunShifted k .store (w + (if s.curCtx.bin.ttId = 0x0A01#16 then 27 else 26) + shift) shift s t ∧
        (t.stq k .store).port = w + 16 + shift)

/-- R214–R216, R223, R233, R240, R244: FILL appends to its ring and sends one request per row; WBACK reads its ring and puts one read
per row in the queue of the cluster's banks, eight ticks apart, behind the rows of the core's earlier ones; each takes a DMA entry
and makes its rows pending, in this tick, though the port be taken. RDROP moves the core's head, past no pending row. A request is ready
three ticks on (log entry 95). -/
def Claims.ringTransfersStart : Prop :=
  ∀ (k : Nat) (a : Acc) (first : Nat) (ring : Ring) (s : State),
    let c := s.clusterOf k
    let x := s.cluster c
    let tick := s.coreTick k
    let no := rgNo a.cmd
    let n := rgRows a.cmd
    let r := mget x.rings no {}
    let j := s.clIndex k
    let dram := decide (rgAddr a.cmd < 0x01E000000000)
    let out := max s.now (s.core k).outAt
    let fifo := r.mode = 1 ∧ rgForm a.cmd = false
    let kept := (List.range n).map fun i => (s.nextId, j, first + i, 0)
    let dropped := if n = 0 then r.tail - mget r.heads j 0 else n
    (ringComes k .fetch a 2 [] [] s → transferMay k a s → r.append tick (rgForm a.cmd) (rgOff a.cmd) n = .ok (first, ring) →
      engineClear k (ring.rows first n) s → ∃ t new, exec (.fill k) s = .next t ∧
        transferBegun k (s.core k).outAt .fetch a (if dram then .fillDram else .fillWindow) (ring.rows first n) s t ∧
        mget (t.cluster c).rings no {} = ring ∧ t.pkts = s.pkts ++ new ∧ new.length = n ∧
        ∀ i p, new[i]? = some p → p.kind = .readReq ∧ p.id = s.nextId + 1 + i ∧ p.core = some k ∧
          p.xfer = s.nextId ∧ p.row = i ∧ p.src = c ∧ p.addr = rgAddr a.cmd + 512 * i ∧ p.plane = (c + i) % 3 ∧ p.vc = 0 ∧
          p.dst = s.targetRouter c p.addr ∧ p.dstEnd = memEnd p.addr ∧ p.path = c :: s.route c p.dst ∧ p.ready = s.now + 3) ∧
    (ringComes k .store a 3 [] [] s → transferMay k a s → r.read j (rgForm a.cmd) (rgOff a.cmd) n = .ok (first, ring) →
      engineClear k (ring.rows first n) s → ∃ t, exec (.wback k) s = .next t ∧
        transferBegun k (out + 8 * n) .store a (if dram then .wbackDram else .wbackWindow) (ring.rows first n) s t ∧
        t.pkts = s.pkts ∧
        (t.cluster c).bankQ = ((ring.rows first n).mapIdx fun i y => BankAcc.mk y (out + 8 * i) (.wbackRead s.nextId i)).foldl
          (fun q y => insertAcc y q) x.bankQ ∧
        mget (t.cluster c).rings no {} = { ring with defer := if fifo then ring.defer ++ kept else ring.defer }) ∧
    (ringComes k .fetch a 3 [] [] s → r.mode = 1 → r.read j false 0 dropped = .ok (first, ring) →
      (∀ p ∈ x.pend, p.row ∉ ring.rows first dropped) →
      ∃ t, exec (.rdrop k) s = .next t ∧ begun k .fetch (max tick (s.stq k .fetch).busy + 1) s t ∧ ringKeeps k s t ∧
        t.cluster c = { x with rings := mset x.rings no ring }) ∧
    (ringComes k .fetch a 3 [] [] s → r.mode ≠ 1 →
      ∃ t, exec (.rdrop k) s = .next t ∧ begun k .fetch (max tick (s.stq k .fetch).busy + 1) s t ∧ ringKeeps k s t ∧
        t.cluster c = { x with rings := mset x.rings no { r with heads := mset r.heads j 0 } })

/-- R79, R204, R212, R213, R252: a ring access that its ring refuses stops the core: RING_OVERRUN or RING_UNDERRUN, naming the
cluster and the ring, or ILLEGAL_OP; a transfer to a row outside the map stops it with ROW_ALIGN, naming the row. Nothing is
transferred. -/
def Claims.ringAccessFaults : Prop :=
  ∀ (k : Nat) (a : Acc) (s : State),
    let c := s.clusterOf k
    let x := s.cluster c
    let tick := s.coreTick k
    let no := rgNo a.cmd
    let n := rgRows a.cmd
    let r := mget x.rings no {}
    let code := fun (e : RingErr) => match e with
      | .overrun => (0x03#8, c % 2 ^ 7 * 2 ^ 8 + no)
      | .underrun => (0x04#8, c % 2 ^ 7 * 2 ^ 8 + no)
      | .opcode => (0x01#8, 0x03 * 2 ^ 56 + (cmdOpcode a.cmd) % 256)
    let stops := fun (i : Instr) (st : BitVec 3) (code : BitVec 8) (detail : Nat) => ∃ t, exec i s = .next t ∧
      (t.core k).seq.st = .faulted ∧ (t.core k).fault.code = code ∧ (t.core k).fault.detail = BitVec.ofNat 64 detail ∧
      (t.core k).fault.station = st ∧ (t.core k).fault.cmd = a.cmd ∧
      (t.core k).fault.pcWord = BitVec.ofNat 16 a.pcw ∧ besideFault k s t ∧ t.xfers = s.xfers
    (s.core k).fault.valid = false → c < 2 ^ 7 →
    (∀ e, ringComes k .fetch a 1 [] [cmdOut a.cmd] s → reservesLater s k .fetch a = false →
      r.read (s.clIndex k) (rgForm a.cmd) (rgOff a.cmd) (linkSize ((s.core k).link (cmdOut a.cmd)).cfg / 512) = .error e →
      stops (.rd k []) 1 (code e).1 (code e).2) ∧
    (∀ e, ringComes k .store a 1 [cmdIn a.cmd] [] s → reservesLater s k .store a = false →
      r.append tick (rgForm a.cmd) (rgOff a.cmd) (((s.core k).inSlot (cmdIn a.cmd)).length / 512) = .error e →
      stops (.wr k) 5 (code e).1 (code e).2) ∧
    (∀ bad, ringComes k .fetch a 2 [] [] s → (s.core k).dma.length < 4 → s.badRow (rgAddr a.cmd) n = some bad → bad < 2 ^ 64 →
      stops (.fill k) 1 0x05#8 bad) ∧
    (∀ bad, ringComes k .store a 3 [] [] s → (s.core k).dma.length < 4 → s.badRow (rgAddr a.cmd) n = some bad → bad < 2 ^ 64 →
      stops (.wback k) 5 0x05#8 bad)

/-- R52, R53, R70, R78, R147, R150, R173: TILE_FILLED puts the tile that is due into its slot, which then counts as filled, with its
status; the non-finite flag keeps the first non-finite tile, as the first of this tick is kept for a FLAGCLR, and the norm taps take
the tile. SLOT_FREED gives a slot that has been read back to its link, and discards its status. TRANSFER_RETIRE takes the oldest
command whose retirement tick has come out of its station. -/
def Claims.slotEvents : Prop :=
  ∀ (k : Nat) (st : Station) (n : BitVec 4) (s : State),
    let c := s.core k
    let tick := s.coreTick k
    let back := fun (e : Nat × Nat) => e.1 == n.toNat && decide (e.2 ≤ tick)
    let ended := fun (a : Acc) => match a.stage with
      | .running r => decide (r ≤ tick)
      | _ => false
    stationsOn k s = true →
    (∀ x, dueTile s k st = some x →
      let l := c.link x.link
      let nf : NonFinite := { flag := true, station := stCode st, layer := x.layer, op := x.op
                              row := BitVec.ofNat 5 x.status.row, col := BitVec.ofNat 5 x.status.col }
      exec (.tileFilled k st) s = .next (s.setCore k { c with
        links := mset c.links x.link { l with filled := l.filled + 1, status := mset l.status x.slot x.status }
        slotMem := memWrite c.slotMem (linkBase l.cfg + x.slot * linkSize l.cfg) x.data
        stn := { c.stn with outs := c.stn.outs.erase x }
        nf := if x.status.nf = true ∧ c.nf.flag = false then nf else c.nf
        nfNow := if x.status.nf = true ∧ ¬(c.nfNow.1 = tick ∧ c.nfNow.2.flag = true) then (tick, nf) else c.nfNow
        lv := c.lv.tapTile x.layer x.tap x.fmt.toNat (x.kept.getD (tileElems x.fmt.toNat x.data)) })) ∧
    (dueTile s k st = none → exec (.tileFilled k st) s = .next s) ∧
    (c.stn.frees.any back = true →
      exec (.slotFreed k n) s = .next (s.setCore k { c with
        links := mset c.links n.toNat { c.link n.toNat with
          free := (c.link n.toNat).free + 1, status := mdel (c.link n.toNat).status (freedSlot n.toNat back c) }
        stn := { c.stn with frees := dropFirst back c.stn.frees } })) ∧
    (c.stn.frees.any back = false → exec (.slotFreed k n) s = .next s) ∧
    (∀ a r, (s.stq k st).acc.find? ended = some a → a.stage = .running r →
      ∃ t, exec (.transferRetire k st) s = .next t ∧ (t.stq k st).acc = (s.stq k st).acc.erase a ∧
        (t.stq k st).last = max (s.stq k st).last r ∧ (∀ y, y ≠ st → t.stq k y = s.stq k y) ∧
        t = s.setCore k { c with stn := (t.core k).stn })

/-- R207, R221, R234, R240: DMA_ROW_ARRIVAL: a row that comes back for a FILL, no sooner than eight ticks after the one before it,
a request or a row for a cluster window, or a landed row that has crossed the mesh joins the queue of the cluster's banks. An engine
access of the opposite kind that starts at the row in this tick counts as a collision. -/
def Claims.dmaRowsArrive : Prop :=
  ∀ (pid : Nat) (p : Pkt) (s : State), s.pkt pid = some p → s.delivered p = true → p.dstEnd = .cluster →
    let without := s.pkts.filter fun q => q.id != pid
    let inHand := s.pkts.map fun q => if q.id = pid then { q with taken := true } else q
    let queued := fun (c row : Nat) (work : BankWork) (pkts : List Pkt) =>
      { s.setCluster c { s.cluster c with bankQ := insertAcc ⟨row, s.now, work⟩ (s.cluster c).bankQ } with pkts := pkts }
    (∀ x row, p.kind = .readRsp → s.xfer p.xfer = some x → x.rowsNo[p.row]? = some row →
      let work : BankWork := .fillRow p.xfer p.row p.data
      let paced := mset s.cores x.core { s.core x.core with inAt := s.now + 8 }
      (s.now < (s.core x.core).inAt → exec (.dmaRowArrival pid) s = .next s) ∧
      ((s.core x.core).inAt ≤ s.now → startedOpposite s p.dst row true = [] →
        exec (.dmaRowArrival pid) s = .next { queued p.dst row work without with cores := paced }) ∧
      (∀ y, (s.core x.core).inAt ≤ s.now → startedOpposite s p.dst row true = [y] → (s.cluster p.dst).collCheck = false →
        ∃ t, exec (.dmaRowArrival pid) s = .next t ∧ t.pkts = without ∧ t.cores = paced ∧
          (t.cluster p.dst).bankQ = insertAcc ⟨row, s.now, work⟩ (s.cluster p.dst).bankQ ∧
          (t.cluster p.dst).collCount = min 0xFFFFFFFF ((s.cluster p.dst).collCount + 1) ∧
          (t.cluster p.dst).collValid = true)) ∧
    (∀ c o, p.kind = .readReq → windowOf p.addr = some (c, o) → startedOpposite s c (o / 512) false = [] →
      exec (.dmaRowArrival pid) s = .next (queued c (o / 512) (.drawRead pid) inHand)) ∧
    (∀ c o, p.kind = .writeRow → windowOf p.addr = some (c, o) → startedOpposite s c (o / 512) true = [] →
      exec (.dmaRowArrival pid) s = .next (queued c (o / 512) (.windowWrite pid p.data) inHand)) ∧
    (p.kind = .landRow → startedOpposite s p.dst p.row true = [] →
      exec (.dmaRowArrival pid) s = .next (queued p.dst p.row (.landing p.xfer) without))

/-- R207, R209: DMA_BANK_ACCESS_START: the bank takes the access that is next, for two ticks, or a read of the same row joins the
cycle in progress, and takes its own two ticks; nothing moves before. -/
def Claims.bankCyclesStart : Prop :=
  ∀ (c bank : Nat) (a : BankAcc) (ecc : Ecc) (s : State),
    let y := s.cluster c
    let open' := fun (d : DmaCycle) => bankOf d.row == bank && decide (s.now < d.until')
    (nextAccess s c bank = some (a, false) → exec (.dmaBankAccessStart c bank ecc) s = .next (s.setCluster c { y with
      bankQ := y.bankQ.erase a
      dmaBusy := y.dmaBusy ++ [{ row := a.row, read := !workWrites a.work, until' := s.now + 2, counted := false,
                                 ecc := if workWrites a.work = true then .clean else ecc, works := [(a.work, s.now + 2)] }] })) ∧
    (nextAccess s c bank = some (a, true) → exec (.dmaBankAccessStart c bank ecc) s = .next (s.setCluster c { y with
      bankQ := y.bankQ.erase a
      dmaBusy := mapFirst open' (fun d => { d with works := d.works ++ [(a.work, s.now + 2)] }) y.dmaBusy })) ∧
    (nextAccess s c bank = none → exec (.dmaBankAccessStart c bank ecc) s = .next s)

/-- R205, R207, R209, R214, R215, R292: a bank cycle of the DMA path that writes has put its row into memory when its two ticks are over,
and no other byte changes: the row of a FILL, a row written through a window, which is acknowledged, or a row that landed for a
KRECV. The row is no longer pending. -/
def Claims.bankCyclesWrite : Prop :=
  ∀ (c row until' w : Nat) (work : BankWork) (counted : Bool) (s : State),
    let y := s.cluster c
    let at' := windowBase + c * 0x1000000 + row * 512
    let t := dmaFinish c s
    y.dmaBusy = [⟨row, false, until', .clean, counted, [(work, w)]⟩] → until' ≤ s.now → w ≤ s.now →
    let wrote := fun (data : Bytes) => t.mem = memWrite s.mem at' data ∧ (t.cluster c).bankQ = y.bankQ ∧
      (t.cluster c).dmaBusy = [] ∧ t.drams = s.drams
    let freed := fun (owner : Nat) => (t.cluster c).pend = y.pend.filter fun p => !(p.row == row && p.owner == owner)
    (∀ id i data x, work = .fillRow id i data → s.xfer id = some x →
      wrote data ∧ freed id ∧ t.pkts = s.pkts ∧
        (x.done.length + 1 < x.rowsNo.length → t.xfer id = some { x with done := x.done ++ [i] }) ∧
        (x.rowsNo.length ≤ x.done.length + 1 → t.xfer id = none ∧
          (t.core x.core).dma = (s.core x.core).dma.map fun e => if e.id = id then { e with done := true } else e)) ∧
    (∀ pid data p, work = .windowWrite pid data → s.pkt pid = some p →
      wrote data ∧ t.cores = s.cores ∧ ∃ z, t.pkts = (s.pkts.filter fun q => q.id != pid) ++ [z] ∧ z.kind = .writeAck ∧
        z.src = p.dst ∧ z.dst = p.src ∧ z.dstEnd = p.srcEnd ∧ z.core = p.core ∧ z.xfer = p.xfer ∧ z.row = p.row ∧ z.bulk = p.bulk ∧
        z.plane = p.plane ∧ z.vc = 1) ∧
    (∀ lid l r, work = .landing lid → (s.fab.landed.find? fun l => l.id == lid) = some l →
      y.match' l.srcmod l.tag = some r → r.rowsNo[l.row]? = some row →
      wrote l.data ∧ freed r.id ∧ t.fab.landed = (s.fab.landed.filter fun x => x.id != lid) ∧
        (r.got.length + 1 < r.rowsNo.length → (t.cluster c).match' l.srcmod l.tag = some { r with got := r.got ++ [l.row] }) ∧
        (r.rowsNo.length ≤ r.got.length + 1 → ∀ z ∈ (t.cluster c).krecvs, z.id ≠ r.id))

/-- R205, R207, R209, R233, R236, R296, R440: a bank cycle of the DMA path that reads changes no memory when it is over: a row asked for
through a window goes back as an answer, a row of a WBACK leaves for its address, a row of a KSEND lies in the send buffer; an
uncorrectable read moves nothing, counts once for its cycle, and stops the core that asked with ECC_UNCORRECTABLE, or gives the host
zeros. A read that joined in the second tick of the cycle is over one tick after it. -/
def Claims.bankCyclesRead : Prop :=
  ∀ (c row until' w : Nat) (work : BankWork) (ecc : Ecc) (counted : Bool) (s : State),
    let y := s.cluster c
    let at' := windowBase + c * 0x1000000 + row * 512
    let data := memBytes s.mem at' 512
    let t := dmaFinish c s
    y.dmaBusy = [⟨row, true, until', ecc, counted, [(work, w)]⟩] → until' ≤ s.now →
    (s.now < w → ecc = .clean → t = s.setCluster c { y with dmaBusy := [⟨row, true, until', ecc, true, [(work, w)]⟩] }) ∧
    (w ≤ s.now →
    let read := t.mem = s.mem ∧ (t.cluster c).bankQ = y.bankQ ∧ (t.cluster c).dmaBusy = [] ∧ t.drams = s.drams
    let bad := (t.cluster c).eccUncorr = if counted then y.eccUncorr else min 0xFFFF (y.eccUncorr + 1)
    (∀ pid p, work = .drawRead pid → s.pkt pid = some p →
      let answers := fun (d : Bytes) => t.cores = s.cores ∧ ∃ z, t.pkts = (s.pkts.filter fun q => q.id != pid) ++ [z] ∧
        z.kind = .readRsp ∧ z.data = d ∧ z.src = p.dst ∧ z.dst = p.src ∧ z.dstEnd = p.srcEnd ∧ z.xfer = p.xfer ∧ z.row = p.row ∧
        z.plane = p.plane ∧ z.vc = 1
      (ecc = .clean → read ∧ answers data) ∧
      (ecc = .uncorrectable → p.bulk.isSome = true → read ∧ bad ∧ answers (List.replicate 512 0)) ∧
      (∀ k, ecc = .uncorrectable → p.bulk = none → p.core = some k → (s.core k).fault.valid = false →
        read ∧ bad ∧ (t.pkts = s.pkts.filter fun q => q.id != pid) ∧ (t.core k).seq.st = .faulted ∧
        (t.core k).fault.code = 0x0C ∧ (t.core k).fault.detail = BitVec.ofNat 64 (p.addr % 2 ^ 42))) ∧
    (∀ id i x, work = .wbackRead id i → s.xfer id = some x →
      (ecc = .clean → read ∧ t.cores = s.cores ∧ ((t.cluster c).pend = y.pend.filter fun p => !(p.row == row && p.owner == id)) ∧
        ∃ z, t.pkts = s.pkts ++ [z] ∧ z.kind = .writeRow ∧ z.data = data ∧ z.addr = x.addr + 512 * i ∧
          z.src = s.clusterOf x.core ∧ z.dst = s.targetRouter z.src z.addr ∧ z.core = some x.core ∧ z.xfer = x.id ∧ z.row = i) ∧
      (ecc = .uncorrectable → (s.core x.core).fault.valid = false → read ∧ bad ∧ t.pkts = s.pkts ∧
        (t.core x.core).seq.st = .faulted ∧ (t.core x.core).fault.code = 0x0C ∧
        (t.core x.core).fault.detail = BitVec.ofNat 64 (at' % 2 ^ 42))) ∧
    (∀ k id i x, work = .kneadRead k id i → ((s.core k).ks.find? fun x => x.id == id) = some x → s.clusterOf k = c →
      x.dest ≠ [] → x.left < x.n → ecc = .clean →
      read ∧ ((t.cluster c).pend = y.pend.filter fun p => !(p.row == row && p.owner == id)) ∧
        (t.core k).ks = (s.core k).ks.map fun x => if x.id = id then { x with readRows := mset x.readRows i data } else x))

/-- R215, R244: the acknowledgement of the last row completes a WBACK; an entry is released in the later of its completion and its
tabled worst case, and the rows its sequential read took are free then. -/
def Claims.transfersComplete : Prop :=
  ∀ (k id pid : Nat) (p : Pkt) (s : State),
    let c := s.clusterOf k
    (∀ x, s.pkt pid = some p → s.delivered p = true → p.kind = .writeAck → p.dstEnd = .cluster → s.xfer p.xfer = some x →
      ∃ t, exec (.wbackAckArrival pid) s = .next t ∧ (t.pkts = s.pkts.filter fun q => q.id != pid) ∧ t.mem = s.mem ∧
        (x.done.length + 1 < x.rowsNo.length → t.xfer p.xfer = some { x with done := x.done ++ [p.row] }) ∧
        (x.rowsNo.length ≤ x.done.length + 1 → t.xfer p.xfer = none ∧
          (t.core x.core).dma = (s.core x.core).dma.map fun e => if e.id = p.xfer then { e with done := true } else e)) ∧
    (∀ e, ((s.core k).dma.find? fun e => e.id == id) = some e →
      (e.done = true → e.worst ≤ s.coreTick k → ∃ t, exec (.dmaEntryRelease k id) s = .next t ∧
        (t.core k).dma = ((s.core k).dma.filter fun e => e.id != id) ∧
        (∀ n r, mfind (s.cluster c).rings n = some r →
          mfind (t.cluster c).rings n = some { r with defer := r.defer.filter fun e => e.1 != id }) ∧
        t = { s with cores := t.cores, clusters := t.clusters } ∧ ∀ j, j ≠ k → t.core j = s.core j) ∧
      (e.done = false ∨ s.coreTick k < e.worst → exec (.dmaEntryRelease k id) s = .next s))

/-- R291, R295, R296, R303, R304: KSEND from a slot takes the slot and sends its rows as they are read; KSEND from a ring makes its
rows pending and reads them over the DMA path. An accepted KRECV appends to its ring, and its rows are pending until row k is
written, from the tick of its `DQ` field on; its station stays with it, for a tick, until its last row has been written. A second open
KRECV of the same sender and tag stops the core. -/
def Claims.kneadCommands : Prop :=
  ∀ (k : Nat) (a : Acc) (first : Nat) (ring : Ring) (s : State),
    let c := s.core k
    let cl := s.clusterOf k
    let x := s.cluster cl
    let tick := s.coreTick k
    let no := rgNo a.cmd
    let n := rgRows a.cmd
    let r := mget x.rings no {}
    let data := c.inSlot (cmdIn a.cmd)
    let sends := fun (y : KSend) => y.id = s.nextId ∧ y.n = n ∧ y.start = tick ∧ y.dest = ksTargets s a.cmd ∧
      y.dcluster = (a.cmd.extractLsb' 32 7).toNat ∧ y.tag = a.cmd.extractLsb' 20 12 ∧ y.accepted = [] ∧ y.readRows = []
    let mine := fun (r : KRecv) => r.core == k && r.cmd == a.cmd && r.pcw == a.pcw
    (comesUp k .knead a 1 [cmdIn a.cmd] [] s → ksSrc a.cmd = true →
      ∃ t y, exec (.ksend k) s = .next t ∧ begunOpen k .knead s t ∧ ringKeeps k s t ∧ t.clusters = s.clusters ∧
        linksMoved k [cmdIn a.cmd] (tick + 2 + data.length / 256) [] s t ∧ (t.core k).ks = c.ks ++ [y] ∧ sends y ∧
        y.ring = none ∧ y.link = some (cmdIn a.cmd) ∧ y.asked = 0 ∧ y.askAt = tick + 4 ∧
        y.slot = (List.range n).map fun i => (data.drop (512 * i)).take 512) ∧
    (comesUp k .knead a 1 [] [] s → ksSrc a.cmd = false →
      r.read (s.clIndex k) (rgForm a.cmd) (rgOff a.cmd) n = .ok (first, ring) → engineClear k (ring.rows first n) s →
      (∀ z ∈ c.ks, z.n ≤ z.asked ∧ z.id ≠ s.nextId) →
      ∃ t y, exec (.ksend k) s = .next t ∧ begunOpen k .knead s t ∧ ringKeeps k s t ∧ y ∈ (t.core k).ks ∧ sends y ∧
        y.ring = some no ∧ y.rowsNo = ring.rows first n ∧ y.asked ≤ 1 ∧
        (mget (t.cluster cl).rings no {}).heads = ring.heads ∧ (mget (t.cluster cl).rings no {}).tail = ring.tail ∧
        (t.cluster cl).pend = x.pend ++ (ring.rows first n).map fun z => ⟨z, s.nextId, true⟩) ∧
    (comesUp k .knead a 2 [] [] s → x.krecvs.any mine = true →
      ∃ t, exec (.krecv k) s = .next t ∧ begunOpen k .knead s t ∧ (t.stq k .knead).busy = tick + 1 ∧
        t = s.setCore k { c with stn := (t.core k).stn }) ∧
    (comesUp k .knead a 2 [] [] s → x.krecvs.any mine = false →
      ∃ t, exec (.krecv k) s = .next t ∧ begun k .knead tick s t ∧ (t.stq k .knead).busy = tick + 1 ∧
        t = s.setCore k { c with stn := (t.core k).stn })

/-- R68–R70, R214, R291, R295: the acceptance of a KRECV, alone or in a bundle, at once or after a wait, reserves its rows: its ring
moves on, the rows are pending, and from the tick of its `DQ` field on a row that has landed may be written; the other commands of
the bundle are accepted with it. A second open KRECV of the same sender and tag stops the core. -/
def Claims.kneadReceiveAccepted : Prop :=
  ∀ (k : Nat) (i : Instr) (b : BundleItem) (rest : List BundleItem) (cmd : Cmd) (w first : Nat) (ring : Ring) (s u : State),
    let c := s.core k
    let cl := s.clusterOf k
    let x := s.cluster cl
    let no := rgNo cmd
    let n := rgRows cmd
    let src := krSrcmod cmd
    let tag := krTag cmd
    bundleComes k i (b :: rest) s u → bundleFits k (b :: rest) s u → bundleNamed (b :: rest) 6 = [(cmd, w)] → cmdOpcode cmd = 2 →
    (x.match' src tag = none → (mget x.rings no {}).append (s.coreTick k) (rgForm cmd) (rgOff cmd) n = .ok (first, ring) →
      engineClear k (ring.rows first n) s → landedFit cl s →
      (∀ l ∈ s.fab.landed, l.dcluster = cl → l.srcmod = src → l.tag = tag → l.rows = n) →
      ∃ t y, exec i s = .next t ∧ bundleIssued k b rest s t ∧
        (t.cluster cl).krecvs = x.krecvs ++ [y] ∧ y.core = k ∧ y.srcmod = src ∧ y.tag = tag ∧ y.cmd = cmd ∧ y.pcw = w ∧
        y.rowsNo = ring.rows first n ∧ y.due = c.seq.phase0 + 8 * (cmd.extractLsb' 0 29).toNat ∧ y.got = [] ∧
        mget (t.cluster cl).rings no {} = ring ∧
        ((t.cluster cl).pend = x.pend ++ (ring.rows first n).map fun z => ⟨z, y.id, true⟩) ∧
        (∀ j, j ≠ k → t.core j = s.core j) ∧ (∀ c, c ≠ cl → t.cluster c = s.cluster c) ∧ t.mem = s.mem ∧ t.fab = s.fab) ∧
    ((x.match' src tag).isSome = true → c.fault.valid = false →
      ∃ t, exec i s = .next t ∧ (t.core k).seq.st = .faulted ∧ (t.core k).fault.code = 0x01 ∧ (t.core k).fault.station = 6 ∧
        (t.core k).fault.detail = BitVec.ofNat 64 (0x03 * 2 ^ 56 + tag.toNat) ∧ (t.core k).fault.cmd = cmd ∧
        t.clusters = s.clusters ∧ besideFault k s t)

/-- R292, R295–R297: a row of a KSEND takes a place in the next buffer on its way, if one is free, and leaves; at the destination it
waits in the landing buffer; from its tick on, a row whose KRECV has been accepted goes to its bank. A row of another row count is
discarded, and the receiving core faults; one that landed at a Lattice port crosses the mesh to its cluster. -/
def Claims.kneadRowsMove : Prop :=
  ∀ (k m pid lid : Nat) (x : KSend) (p : Pkt) (s : State),
    let i := mget x.accepted m 0
    let can := fun (y : KSend) => y.dest.contains m && decide (mget y.accepted m 0 < y.n) &&
      (mfind y.readRows (mget y.accepted m 0)).isSome
    let went := fun (t : State) => (∀ y ∈ (t.core k).ks, y.id = x.id → mget y.accepted m 0 = i + 1) ∧
      ∃ z, t.pkts = s.pkts ++ [z] ∧ z.kind = .kneadRow ∧ z.data = mget x.readRows i [] ∧ z.row = i ∧ z.rows = x.n ∧ z.tag = x.tag ∧
        z.src = s.clusterOf k
    let lands := fun (fits : Prop) => s.pkt pid = some p ∧ p.kind = .kneadRow ∧ p.lat = none ∧ s.delivered p = true ∧
      landedFit p.dst s ∧ fits
    ((s.core k).ks.find? can = some x →
      (s.portTo m i = none → routerLand s x.dcluster < 128 → ∃ t, exec (.ksendRowAccept k m) s = .next t ∧ went t) ∧
      (∀ port, s.portTo m i = some port → 0 < (s.port port).credits → ∃ t, exec (.ksendRowAccept k m) s = .next t ∧ went t ∧
        t.port port = { s.port port with credits := (s.port port).credits - 1 }) ∧
      (∀ port, s.portTo m i = some port → (s.port port).credits = 0 → exec (.ksendRowAccept k m) s = .next s)) ∧
    (lands (∀ r, (s.cluster p.dst).match' s.moduleIndex p.tag = some r → r.rowsNo.length = p.rows) →
      ∃ t l, exec (.kneadRowArrival pid) s = .next t ∧ t.pkts = (s.pkts.filter fun q => q.id != pid) ∧
        t.fab.landed = s.fab.landed ++ [l] ∧ l.srcmod = s.moduleIndex ∧ l.dcluster = p.dst ∧ l.tag = p.tag ∧ l.row = p.row ∧
        l.rows = p.rows ∧ l.data = p.data ∧ l.moving = false ∧ t.cores = s.cores ∧ t.mem = s.mem) ∧
    (∀ r, (s.cluster p.dst).match' s.moduleIndex p.tag = some r → (s.core r.core).fault.valid = false →
      lands (r.rowsNo.length ≠ p.rows) → (∀ l ∈ s.fab.landed, l.id < s.fab.nextId) →
      ∃ t, exec (.kneadRowArrival pid) s = .next t ∧ t.fab.landed = s.fab.landed ∧ (t.core r.core).seq.st = .faulted ∧
        (t.core r.core).fault.code = 0x01 ∧ (t.core r.core).fault.detail = BitVec.ofNat 64 (0x03 * 2 ^ 56 + p.tag.toNat)) ∧
    (∀ l r row, (s.fab.landed.find? fun l => l.id == lid && !l.moving) = some l →
      (s.cluster l.dcluster).match' l.srcmod l.tag = some r → r.rowsNo[l.row]? = some row → l.row ∉ r.got →
      let goes := fun (t : State) => exec (.landingRowWrite lid) s = .next t ∧ t.mem = s.mem ∧
        ∀ z ∈ t.fab.landed, z.id = lid → z.moving = true
      (∀ n, l.place = .router n → r.due + 8 * l.row ≤ s.ticks l.dcluster → ∃ t, goes t ∧ t.pkts = s.pkts ∧
        (t.cluster l.dcluster).bankQ = insertAcc ⟨row, s.now, .landing lid⟩ (s.cluster l.dcluster).bankQ) ∧
      (∀ port, l.place = .port port → r.due + 8 * l.row ≤ s.ticks l.dcluster → ∃ t z, goes t ∧ t.pkts = s.pkts ++ [z] ∧
        z.kind = .landRow ∧ z.src = s.portRouter port ∧ z.srcEnd = .lattice ∧ z.dst = l.dcluster ∧ z.dstEnd = .cluster ∧
        z.row = row ∧ z.xfer = lid ∧ z.data = l.data ∧ t.clusters = s.clusters) ∧
      (s.ticks l.dcluster < r.due + 8 * l.row → exec (.landingRowWrite lid) s = .next s))

/-- R298–R300, R304: BINJ puts its slot's tile into the core's own Braid buffer; LOADB takes the tile at the head of the buffer into
P1 of the arrays of its mask, and with `FWD` sends it to the next core, or keeps it, behind those it keeps already, until a place
there is free; a missing credit
that a LOADB waits for raises a Hold. Tiles arrive at their tick, before those that arrive later (of two in one tick that of BINJ goes
first, log entry 114), and forwards go on once there is a place. -/
def Obligations.braidResults : Prop :=
  ∀ (k c : Nat) (a : Acc) (s : State),
    let x := s.core k
    let tick := s.coreTick k
    let f := mxFmt a.cmd
    let ticks := fmtTile f / 256
    let next := s.braidNext k
    let data := x.inSlot (cmdIn a.cmd)
    let into := fun (i : Nat) => (mxMask a.cmd).testBit i
    let clear := x.mx.loadLast ≤ tick ∧ ∀ i, i < 4 → into i = true → (x.mx.array i).flipIn ≤ tick
    (comesUp k .knead a 3 [cmdIn a.cmd] [] s → braidFree x.braid tick ≠ 0 →
      ∃ t, exec (.binj k) s = .next t ∧ begun k .knead (tick + 2 + data.length / 256) s t ∧
        linksMoved k [cmdIn a.cmd] (tick + 2 + data.length / 256) [] s t ∧
        (t.core k).braid = { x.braid with buf := x.braid.buf ++ [⟨data, tick + 2⟩] } ∧
        ∀ j, j ≠ k → t.core j = s.core j) ∧
    (∀ tile rest, comesUp k .matrix a 0x03 [] [] s → clear → x.braid.buf = tile :: rest → tile.arrived ≤ tick →
      let loaded := fun (t : State) => begun k .matrix (tick + ticks) s t ∧ t.mem = s.mem ∧ ∀ i, i < 4 → (t.core k).mx.array i =
        if into i then MArray.load tick ticks (fun y => { y with
          p1 := (tileElems f (padTo (fmtTile f) tile.data)).map (BitVec.ofNat 16 ·), fmt1 := some (BitVec.ofNat 4 f) })
          (x.mx.array i)
        else x.mx.array i
      (mxGauss a.cmd = false → ∃ t, exec (.loadb k) s = .next t ∧ loaded t ∧ (t.core k).braid.buf = rest ∧
        (∀ j, j ≠ k → t.core j = s.core j)) ∧
      let y := if next = k then { x.braid with buf := rest } else (s.core next).braid
      (mxGauss a.cmd = true → x.braid.forward = [] → braidFree y tick ≠ 0 →
        ∃ t e, exec (.loadb k) s = .next t ∧ loaded t ∧ (t.core k).braid.buf = rest ∧ (t.core k).braid.forward = [] ∧
          (t.core next).braid.inbound = y.inbound ++ [e] ∧ e.1 = tick + 3 ∧ e.2.1 = tile.data) ∧
      (mxGauss a.cmd = true → (x.braid.forward ≠ [] ∨ braidFree y tick = 0) →
        ∃ t, exec (.loadb k) s = .next t ∧ loaded t ∧ (t.core k).braid.buf = rest ∧
          (t.core k).braid.forward = x.braid.forward ++ [(tile.data, cmdLayer a.cmd, cmdOp a.cmd)] ∧
          (t.core next).braid.inbound = y.inbound ∧ (t.core next).braid.missed = true)) ∧
    (comesUp k .matrix a 0x03 [] [] s → clear → x.braid.buf = [] → x.braid.held = true →
      ∃ t, exec (.loadb k) s = .next t ∧ t.coreFrozen k = true ∧ t.now = s.now ∧ (t.core k).seq = x.seq ∧ t.mem = s.mem) ∧
    (∀ due tile late rest, x.braid.inbound = (due, tile, late) :: rest → due ≤ tick → s.coreFrozen k = false →
      ∃ pre post, x.braid.buf = pre ++ post ∧ (∀ y ∈ pre, y.arrived ≤ due) ∧ (∀ y ys, post = y :: ys → due < y.arrived) ∧
        exec (.braidTileArrival k) s = .next (s.setCore k { x with
          braid := { x.braid with inbound := rest, buf := pre ++ ⟨tile, due⟩ :: post } })) ∧
    (∀ tile layer op rest, x.braid.forward = (tile, layer, op) :: rest → next ≠ k → stationsOn k s = true →
      braidFree (s.core next).braid tick ≠ 0 →
      ∃ t e, exec (.braidForward k) s = .next t ∧ (t.core k).braid.forward = rest ∧ e ∈ (t.core next).braid.inbound ∧
        e.1 = tick + 3 ∧ e.2.1 = tile ∧ (∀ j, j ≠ k → j ≠ next → t.core j = s.core j) ∧ t.mem = s.mem) ∧
    (∃ t, exec (.braidCreditCauseClear c) s = .next t ∧ t.cores = s.cores ∧ t.mem = s.mem ∧
      t.hold.eps.map (·.raisers) = s.hold.eps.map fun e => e.raisers.map fun r =>
        if r.who = .island c ∧ r.cause = 5 ∧ r.clear = none ∧ r.s + 1 ≤ s.now then { r with clear := some r.s } else r)

/-- R232–R236, R239, R246, R281, R284: a packet that reaches the next router of its path, no sooner than its latency lets it and
while the ports it passes have room, goes on; past its last router it waits at the stack whose row it names, or leaves by its
Lattice port. A correctable packet error counts, and the packet goes on; an uncorrectable one discards the packet and stops the core
of its transfer with ECC_UNCORRECTABLE. A packet behind an earlier one of its flow, or behind a message that stands on its path,
does not move. How a latency is divided over the ends of a path, and what a message holds behind it, is log entry 95 (DESIGN
CHOICE). -/
def Claims.meshPacketsMove : Prop :=
  ∀ (pid r : Nat) (rest : List Nat) (p : Pkt) (s : State), s.pkt pid = some p → p.path = r :: rest →
    let ports := p.ports r rest.isEmpty
    let q : Pkt := { p with path := rest, place := some r, atT := s.now, ready := s.now + hopTicks p r rest }
    let moved := s.pkts.map fun x => if x.id = pid then q else x
    let without := s.pkts.filter fun q => q.id != pid
    let gates := if p.size = 0 then s.gates else ports.foldl (gateUse p.size s.now) s.gates
    let x := mget s.routers r {}
    let blocked := s.now < p.ready ∨ s.flowBlocked p = true ∨ s.pathHeld s.msgRoom p r = true ∨ s.portsOpen p.size ports = false
    (blocked → ∀ ecc, exec (.routerPacketArrival pid ecc) s = .next s) ∧
    (¬blocked →
      (rest ≠ [] → exec (.routerPacketArrival pid .clean) s = .next { s with pkts := moved, gates := gates }) ∧
      (rest = [] → p.dstEnd = .stack → p.id = pid →
        exec (.routerPacketArrival pid .clean) s = .next { s with
          pkts := moved, gates := gates
          drams := mset s.drams (stackOf p.addr)
            { s.stack (stackOf p.addr) with reqs := (s.stack (stackOf p.addr)).reqs ++ [pid] } }) ∧
      (∀ port h, rest = [] → p.dstEnd = .lattice → p.lat = some (port, h) → p.id = pid →
        ∃ t, exec (.routerPacketArrival pid .clean) s = .next t ∧ t.pkts = without ∧
          t.port port = { s.port port with
            queue := (s.port port).queue ++ [if p.kind = .ctl then .sig h else .row h p.data] }) ∧
      (rest ≠ [] → ∃ t, exec (.routerPacketArrival pid .corrected) s = .next t ∧ t.pkts = moved ∧
        mget t.routers r {} = { x with corr := min 0xFFFFFFFF (x.corr + 1) } ∧ t.mon.meshSeen = s.mon.meshSeen + 1 ∧
        t.cores = s.cores ∧ t.mem = s.mem) ∧
      (∃ t, exec (.routerPacketArrival pid .uncorrectable) s = .next t ∧ t.mem = s.mem ∧
        mget t.routers r {} = { x with uncorr := min 0xFFFF (x.uncorr + 1) } ∧ (p.id = pid → t.pkts = without) ∧
        (p.id = pid → t.sync.msgs = s.sync.msgs.filter fun m => m.pkt != pid) ∧
        (∀ k, p.core = some k → p.bulk = none → (s.core k).fault.valid = false →
          (t.core k).seq.st = .faulted ∧ (t.core k).fault.code = 0x0C ∧
          (p.kind ≠ .ctl → p.addr ≠ 0 → (t.core k).fault.detail = BitVec.ofNat 64 (p.addr % 2 ^ 42)))))

/-- R242, R245–R247, R259, R440: a stack controller takes the next request, from the tick after its arrival on and at the rate of
its interface, unless a maintenance slot, a refresh or self-refresh holds it off: a write puts its row into memory, and no other
byte changes; a read answers with its row. A corrected read counts and answers; an uncorrectable one stops the core and answers
nothing, or gives the host zeros. That a refresh holds off an access in its own tick alone is log entry 34 (DESIGN CHOICE). -/
def Claims.stackRequestsServed : Prop :=
  ∀ (st : Nat) (p : Pkt) (s : State),
    let x := s.stack st
    let without := s.pkts.filter fun q => q.id != p.id
    let row := memBytes s.mem p.addr 512
    let x' := { x with reqs := x.reqs.filter (· != p.id) }
    let at' := fun (u : Bool) (y : Stack) => if x.addrV = false ∨ (x.addrT = s.now ∧ p.addr < x.addr) then
      { y with addrV := true, addrU := u, addr := p.addr, addrT := s.now } else y
    let free := x.slots = [] ∧ x.selfRef = false ∧ x.refresh ≤ s.now ∧ s.portsOpen 512 [(1536 + st, 3750)] = true
    let answers := fun (kind : PktKind) (data : Bytes) (t : State) => ∃ z, t.pkts = without ++ [z] ∧ z.kind = kind ∧
      z.data = data ∧ z.src = p.dst ∧ z.dst = p.src ∧ z.srcEnd = p.dstEnd ∧ z.dstEnd = p.srcEnd ∧ z.core = p.core ∧
      z.xfer = p.xfer ∧ z.row = p.row ∧ z.plane = p.plane ∧ z.vc = 1
    (¬free → ∀ ecc, exec (.stackRequest st ecc) s = .next s) ∧
    (s.nextReq st = some p → s.now ≤ p.ready → ∀ ecc, exec (.stackRequest st ecc) s = .next s) ∧
    (free → s.nextReq st = some p → p.ready < s.now →
      (p.kind = .writeRow → ∀ ecc, ∃ t, exec (.stackRequest st ecc) s = .next t ∧ t.mem = memWrite s.mem p.addr p.data ∧
        answers .writeAck [] t ∧ t.stack st = x' ∧ t.cores = s.cores) ∧
      (p.kind ≠ .writeRow →
        (∃ t, exec (.stackRequest st .clean) s = .next t ∧ t.mem = s.mem ∧ answers .readRsp row t ∧ t.stack st = x' ∧
          t.cores = s.cores ∧ t.xfers = s.xfers) ∧
        (∃ t, exec (.stackRequest st .corrected) s = .next t ∧ t.mem = s.mem ∧ answers .readRsp row t ∧
          t.stack st = at' false { x' with corr := min 0xFFFFFFFF (x.corr + 1) } ∧ t.cores = s.cores ∧
          t.mon.eccSeen = s.mon.eccSeen + 1 ∧
          t.xfers = s.xfers.map fun y => if y.id = p.xfer then { y with replay := y.replay ++ [p.row] } else y) ∧
        (∃ t, exec (.stackRequest st .uncorrectable) s = .next t ∧ t.mem = s.mem ∧
          t.stack st = at' true { x' with uncorr := min 0xFFFF (x.uncorr + 1) } ∧
          (p.bulk.isSome = true → answers .readRsp (List.replicate 512 0) t ∧ logs 3 s t) ∧
          ∀ k, p.bulk = none → p.core = some k → t.pkts = without ∧ ((s.core k).fault.valid = false →
            (t.core k).seq.st = .faulted ∧ (t.core k).fault.code = 0x0C ∧
            (t.core k).fault.detail = BitVec.ofNat 64 (p.addr % 2 ^ 42)))))

/-- R246, R249, R250, R259, R531: a refresh keeps a powered stack from taking an access in its tick; a maintenance slot opens, in
the phases it names, for the stacks of its mask, and closes after its length, when the stacks have scrubbed. With no context running
a stack whose requests are all served scrubs row by row, no faster than its share of the rate; in a slot it checks, one after
another, the rows that its full rate covers in the tick. What a scrub finds is counted, and an uncorrectable error is logged with
its row. The schedule of refresh, and what an event of a scrub names, are log entry 34 (DESIGN CHOICE). -/
def Claims.stacksMaintained : Prop :=
  ∀ (st i : Nat) (m : MaintSlot) (s : State),
    let x := s.stack st
    let w := s.curCtx.w
    let start := s.proof.phaseStart + m.start
    let after := fun (n : Nat) (y : Stack) =>
      { y with
        passes := min 0xFFFFFFFF (y.passes + (y.pos + n) / 85899345920), pos := (y.pos + n) % 85899345920 / 512 * 512
        wrapped := y.wrapped || decide (85899345920 ≤ y.pos + n) }
    let full := s.host.ops.any fun o => decide (o.id.toNat / 2 ^ 24 = 2)
    let share := if full then 512 else 32768
    let works := x.powered = true ∧ x.trained = true ∧ x.selfRef = false
    let may := s.cur = none ∧ x.slots = [] ∧ x.reqs = [] ∧ s.portsOpen share [(1560 + st, 3750)] = true
    let row := max x.seen ((x.pos + (s.now - x.slotAt) * 3750 + 511) / 512 * 512)
    let covered := row < x.pos + (s.now + 1 - x.slotAt) * 3750
    let here := addrOf st (row % 85899345920)
    (exec (.dramRefresh st) s = .next (if x.powered = true ∧ x.selfRef = false then
      { s with drams := mset s.drams st { x with refresh := s.now + 1 } } else s)) ∧
    (st < 24 → s.cur.isSome = true → s.curCtx.bin.maint[i]? = some m →
      (w % 2 = 1 ↔ m.knead = true) → w / 2 % m.period = m.residue → start ≤ s.now → s.now < start + m.length →
      ∃ t, exec (.maintSlotOpen i) s = .next t ∧ t = { s with drams := t.drams } ∧ (t.stack st).slots =
        if m.mask.getLsbD st = true ∧ ∀ e ∈ x.slots, e.1 ≠ i then x.slots ++ [(i, start + m.length)] else x.slots) ∧
    (st < 24 → ∀ close, (i, close) ∈ x.slots → close ≤ s.now →
      ∃ t, exec (.maintSlotClose i) s = .next t ∧ t = { s with drams := t.drams } ∧
        ((∃ e ∈ x.slots, e.1 ≠ i) → (t.stack st).slots = x.slots.filter fun e => e.1 != i) ∧
        ((∀ e ∈ x.slots, e.1 = i) → t.stack st = { after ((s.now - x.slotAt) * 3750) x with slots := [] })) ∧
    (st < 24 → works → may →
      (∃ t, exec (.backgroundScrub st .clean) s = .next t ∧ t = { s with drams := t.drams, gates := t.gates } ∧
        t.stack st = after 512 x) ∧
      (∃ t, exec (.backgroundScrub st .corrected) s = .next t ∧ t = { s with drams := t.drams, gates := t.gates } ∧
        t.stack st = (after 512 x).err false (addrOf st x.pos) s.now) ∧
      (∃ t, exec (.backgroundScrub st .uncorrectable) s = .next t ∧ logs 3 s t ∧ t.mem = s.mem ∧
        t.stack st = (after 512 x).err true (addrOf st x.pos) s.now)) ∧
    (st < 24 → works → x.slots ≠ [] →
      (¬covered → ∀ ecc, exec (.backgroundScrub st ecc) s = .next s) ∧
      (covered →
        (exec (.backgroundScrub st .clean) s = .next { s with drams := mset s.drams st { x with seen := row + 512 } }) ∧
        (∃ t, exec (.backgroundScrub st .corrected) s = .next t ∧ t = { s with drams := t.drams } ∧
          t.stack st = { x with seen := row + 512 }.err false here s.now) ∧
        (∃ t, exec (.backgroundScrub st .uncorrectable) s = .next t ∧ logs 3 s t ∧ t.mem = s.mem ∧
          t.stack st = { x with seen := row + 512 }.err true here s.now))) ∧
    (x.slots = [] → ¬may → ∀ ecc, exec (.backgroundScrub st ecc) s = .next s)

/-- R285, R326: the packet of a SEND or a SIG that stands first of its flow and has not moved for 65,536 ticks raises MESH_STALL on
its core once; the fault continues: the core stays in its wait. Which core the watchdog names is log entry 42 (DESIGN CHOICE). -/
def Claims.watchdogRaisesMeshStall : Prop :=
  ∀ (k : Nat) (s : State),
    (∀ p, stalledPkt s k = some p → p ∈ s.pkts ∧ p.kind = .ctl ∧ p.core = some k ∧ p.watched = false ∧ p.atT + 65536 ≤ s.now ∧
      s.flowBlocked p = false ∧
      ∃ t, exec (.progressWatchdog k) s = .next t ∧ t.core k = { s.core k with recov := (t.core k).recov } ∧
        ((s.core k).recov.valid = false → (t.core k).recov.valid = true ∧ (t.core k).recov.code = 0x10) ∧
        (t.core k).recov.count = min 127 ((s.core k).recov.count + 1) ∧ (∀ j, j ≠ k → t.core j = s.core j) ∧ t.mem = s.mem ∧
        t.sync = s.sync ∧ logs 2 s t ∧ t.pkts = s.pkts.map fun x => if x.id = p.id then { x with watched := true } else x) ∧
    (stalledPkt s k = none → exec (.progressWatchdog k) s = .next s)

/-- R330–R332: the propagation of an episode freezes an island 16 ticks after the episode's first raise; an island thaws D + 32 ticks
after it froze, once every cause has cleared, with its clock where it stood; until then it stays frozen. -/
def Claims.holdsFreezeAndThaw : Prop :=
  ∀ (c : Nat) (e : Episode) (s : State),
    let i := s.island c
    (arriving s c = some e → s.frozen c = false → c < 96 →
      ∃ t, exec (.holdFreeze c) s = .next t ∧ t = { s with hold := t.hold } ∧
        t.island c = { i with since := some (e.u0 + 16) } ∧ (∀ d, d ≠ c → t.island d = s.island d)) ∧
    (arriving s c = none ∨ s.frozen c = true → exec (.holdFreeze c) s = .next s) ∧
    (∀ since, i.since = some since → episodeOf s c = some e →
      ((∃ r ∈ e.raisers, r.clear = none) ∨ s.now < since + e.dur + 32 → exec (.holdThaw c) s = .next s) ∧
      ((∀ r ∈ e.raisers, r.clear ≠ none) → since + e.dur + 32 ≤ s.now →
        (∀ x ∈ (s.cluster c).resv, (x.done = true ∧ (x.moved = true ∨ s.now - (i.frozen + e.dur + 32) < x.due)) ∨
          (x.done = false ∧ s.now - (i.frozen + e.dur + 32) < x.start)) →
        ∃ t, exec (.holdThaw c) s = .next t ∧ t.island c = { frozen := i.frozen + (e.dur + 32), since := none } ∧
          (∀ d, d ≠ c → t.island d = s.island d) ∧ t.ticks c = s.now - (i.frozen + e.dur + 32) ∧ t.mem = s.mem ∧
          ∀ x, x ∈ e.raisers → x.clear.getD 0 + 1 - x.s ≤ e.dur))

/-- R334, R335: an episode that began while the context ran unfaulted and reaches the limit faults every core it froze with HOLD_LIMIT,
writes one record, and every cause of it counts as cleared in that tick. -/
def Claims.holdLimitFaults : Prop :=
  ∀ (s : State),
    let n := s.curCtx.launch.holdLimit.toNat
    let limit := (if n = 0 then 1024 else n) * 65536
    let reached := fun (e : Episode) => e.timed && !e.limited && decide (limit ≤ s.now - e.u0 - e.debugTicks)
    (∀ e, s.hold.eps.find? reached = some e →
      ∃ t, exec .holdLimit s = .next t ∧ t.mem = s.mem ∧
        (∀ x ∈ t.hold.eps, x.u0 = e.u0 → x.limited = true ∧ ∀ r ∈ x.raisers, r.clear ≠ none) ∧
        ∀ k ∈ s.allCores, (mfind e.froze (s.clusterOf k)).isSome = true →
          (s.core k).seq.st ≠ .idle → (s.core k).fault.valid = false →
          (t.core k).seq.st = .faulted ∧ (t.core k).fault.code = 0x11 ∧
          (t.core k).fault.detail.toNat % 2 ^ 16 = frozenReason s e k + 256 * (worstCause e).toNat) ∧
    (s.hold.eps.find? reached = none → exec .holdLimit s = .next s)

/-- R359, R362, R487: a window sum above 256 times its budget raises a Hold of its budget, once per episode, which owes a
continuing fault of the core with the largest charge, and logs a WARN record; at
128 times its budget or less its cause clears. A THERMAL cause clears 49,151 ticks after its island froze. -/
def Claims.budgetHolds : Prop :=
  ∀ (b : Option Nat) (s : State),
    let sum := windowSum s b
    let budget := match b with
      | some c => mget s.curCtx.bin.budgets c 0
      | none => s.curCtx.bin.shared
    let raised := fun (t : State) => ∃ r ∈ t.hold.eps.flatMap Episode.raisers ++ t.hold.next,
      r.who = .budget b ∧ r.cause = 6 ∧ r.clear = none ∧
        r.owes = (largestCharge s b).map fun p => (p.1, p.2.st, p.2.layer, p.2.op)
    (s.cur.isSome = true → b ∉ s.meter.drawn → 256 * budget < sum →
      ∃ t, exec (.powerOverdraw b) s = .next t ∧ raised t ∧ t.meter.drawn = s.meter.drawn ++ [b] ∧ logs 2 s t ∧
        t.cores = s.cores ∧ t.mem = s.mem) ∧
    (s.cur = none ∨ b ∈ s.meter.drawn ∨ sum ≤ 256 * budget → exec (.powerOverdraw b) s = .next s) ∧
    (b ∈ s.meter.drawn → sum ≤ 128 * budget →
      ∃ t, exec (.overdrawCauseClear b) s = .next t ∧ b ∉ t.meter.drawn ∧
        t = { s with hold := t.hold, meter := { s.meter with drawn := t.meter.drawn } } ∧
        ∀ r ∈ t.hold.eps.flatMap Episode.raisers ++ t.hold.next, r.who = .budget b → r.clear ≠ none) ∧
    (b ∉ s.meter.drawn ∨ 128 * budget < sum → exec (.overdrawCauseClear b) s = .next s) ∧
    (∃ t, exec .thermalCauseClear s = .next t ∧ t = { s with hold := t.hold } ∧
      t.hold.eps.map (·.raisers) = s.hold.eps.map fun e => e.raisers.map fun r =>
        if r.who = .mgmt ∧ r.cause = 7 ∧ r.clear = none ∧ r.s + 49151 ≤ s.now then { r with clear := some (r.s + 49151) } else r)

/-- R292, R295, R307, R310, R318, R319: a row that a port receives with the module's epoch, while its landing buffer has a place, or
a signal goes on if it is for another module; lands, or crosses the mesh to its cell, if it is for the running context; or is
counted and discarded. One of an older epoch is discarded, counted, and answered with STALE; one of a newer epoch puts the module
into quarantine. A discarded row gives its credit back. From which tick a packet in transit may go on is log entry 115, a signal
that no entry maps log entry 54 (DESIGN CHOICE). -/
def Claims.latticePacketsArrive : Prop :=
  ∀ (p : Nat) (h : LatHdr) (row : Bytes) (s : State),
    let mine := h.dst.toNat = s.moduleIndex
    let here := s.cur = some h.context.toNat
    let e := s.xlatEntry h.vid.toNat
    let q := s.port p
    let stale := { q with staleN := min 0xFFFFFFFF (q.staleN + 1), staleSrc := h.src, stales := q.stales + 1 }
    let quars := fun (i : Instr) => ∃ t, exec i s = .next t ∧ t.fab.quar = true ∧ t.mem = s.mem ∧
      ∀ k ∈ s.allCores, (s.core k).seq.st ≠ .idle → (s.core k).fault.valid = false →
        (t.core k).seq.st = .faulted ∧ (t.core k).fault.code = 0x0F ∧
        (t.core k).fault.detail = BitVec.ofNat 64 s.fab.epoch.toNat
    portHears s p = true →
    (h.epoch = s.fab.epoch → h.dcluster ≠ 0x7F → s.landUsed p < 128 →
      (∀ n, ¬mine → s.portTo h.dst.toNat h.row.toNat = some n →
        exec (.latticeRow p h row) s = .next (s.onPort p fun x => { x with transit := x.transit ++ [⟨n, .row h row, s.now + 4⟩] })) ∧
      (mine → ¬here → exec (.latticeRow p h row) s =
        .next ({ s with fab := { s.fab with wrongCtx := min 0xFFFFFFFF (s.fab.wrongCtx + 1) } }.onPort p fun x =>
          { x with owed := x.owed + 1 })) ∧
      (mine → here → landedFit h.dcluster.toNat s →
        (∀ r, (s.cluster h.dcluster.toNat).match' h.src.toNat h.tag = some r → r.rowsNo.length = h.rows.toNat) →
        ∃ t l, exec (.latticeRow p h row) s = .next t ∧ t.fab.landed = s.fab.landed ++ [l] ∧ l.place = .port p ∧
          l.srcmod = h.src.toNat ∧ l.dcluster = h.dcluster.toNat ∧ l.tag = h.tag ∧ l.row = h.row.toNat ∧ l.rows = h.rows.toNat ∧
          l.data = padTo 512 row ∧ l.replayed = decide (q.replays ≠ 0) ∧ t.mem = s.mem ∧ t.cores = s.cores)) ∧
    (s.fab.epoch ≤ h.epoch → h.dcluster ≠ 0x7F → 128 ≤ s.landUsed p → exec (.latticeRow p h row) s = .next s) ∧
    (h.epoch = s.fab.epoch →
      (∀ n, ¬mine → s.portTo h.dst.toNat 0 = some n →
        (q.transit.filter fun e => e.pkt.control).length < 16 →
        exec (.latticeSig p h) s = .next (s.onPort p fun x => { x with transit := x.transit ++ [⟨n, .sig h, s.now + 4⟩] })) ∧
      (mine → ¬here ∨ xlValid e = false → exec (.latticeSig p h) s =
        .next { s with sync := { s.sync with dropped := min 0xFFFFFFFF (s.sync.dropped + 1) } }) ∧
      (mine → here → xlValid e = true → xlModule s e = s.moduleIndex →
        ∃ t x z, exec (.latticeSig p h) s = .next t ∧ t.sync = { s.sync with sigs := s.sync.sigs ++ [x] } ∧
          t = { s with sync := t.sync, pkts := s.pkts ++ [z], nextId := s.nextId + 1 } ∧ x.pkt = some z.id ∧ z.kind = .ctl ∧
          z.src = s.portRouter p ∧ z.dst = homeOf (xlRef e) ∧
          x.cell = xlRef e ∧ x.amount = h.amount1.toNat + 1 ∧ x.vid = h.vid ∧ x.core = none ∧ x.home = homeOf (xlRef e) ∧
          x.srcMod = some h.src.toNat)) ∧
    (h.epoch < s.fab.epoch → exec (.latticeSig p h) s = .next (s.onPort p fun _ => stale) ∧
      (h.dcluster ≠ 0x7F → exec (.latticeRow p h row) s = .next (s.onPort p fun _ => { stale with owed := q.owed + 1 }))) ∧
    (s.fab.epoch < h.epoch → s.fab.quar = false → s.cur.isSome = true →
      quars (.latticeSig p h) ∧ (s.landUsed p < 128 → quars (.latticeRow p h row)))

/-- R316: an arrival that reaches a tray root counts; with the last one of the tray, a TRAY Proof on which all agree takes effect
1,920 ticks of fabric time after the latest arrival, with the OR and the AND of all words. A release that comes from the root takes
effect at its time. What a root makes of arrivals whose packets differ is log entry 46 (DEDUCED). -/
def Claims.latticeProofPackets : Prop :=
  ∀ (p : Nat) (h : LatHdr) (s : State),
    let a := proofOf s h
    let xs := s.proof.trayIn ++ [a]
    let turn := fun (scope : BitVec 2) => if scope = 0 then 12 else if scope = 1 then 160 else if scope = 2 then 1920 else 5600
    portHears s p = true → h.epoch = s.fab.epoch → h.dst.toNat = s.moduleIndex →
    (a.src / 8 = s.moduleIndex / 8 → s.cur.isSome = true → xs.length < (s.trayModules s.moduleIndex).length →
      exec (.latticeProofArrive p h) s = .next { s with proof := { s.proof with trayIn := xs } }) ∧
    (a.src / 8 = s.moduleIndex / 8 → s.cur.isSome = true → xs.length = (s.trayModules s.moduleIndex).length →
      (∀ x ∈ xs, x.scope = 2 ∧ x.wide = 2 ∧ x.differ = false ∧ x.tag = h.ptag) →
      ∃ t r, exec (.latticeProofArrive p h) s = .next t ∧ t.proof.fab = some r ∧ t.proof.trayIn = [] ∧
        r.time = (xs.map (·.ftime)).foldl max 0 + 1920 ∧ r.scope = 2 ∧ r.tag = h.ptag ∧ r.mismatch = false ∧
        r.orW = (xs.map (·.orW)).foldl (· ||| ·) 0 ∧ r.andW = (xs.map (·.andW)).foldl (· &&& ·) 0xFFFFFFFF#32 ∧
        t.cores = s.cores ∧ t.mem = s.mem) ∧
    (s.moduleIndex ≠ s.trayRoot s.moduleIndex → h.mismatch = false →
      ∃ r, exec (.latticeProofRelease p h) s = .next { s with proof := { s.proof with fab := some r } } ∧
        r.time = a.ftime + turn h.scope ∧ r.scope = h.scope ∧ r.tag = h.ptag ∧ r.orW = h.orWord ∧ r.andW = h.andWord ∧
        r.mismatch = false)

/-- R306–R308, R319, R321, R322: the link level of a port: ACK takes acknowledged frames from the replay buffer and brings credits;
NAK counts a retry and has the port resend from that frame on, the first as a REPLAY frame, or takes it DOWN at the eighth retry of
one frame; a codeword that cannot be corrected counts, and a NAK of the first lost frame is due, whose REPLAY alone ends the wait;
STALE puts the module into quarantine; a retry that is over leaves the port UP. When a retry is over is log entry 57, what counts as
replayed log entry 43 (DESIGN CHOICE); at which end retries count and delays are taken is log entry 58 (DEDUCED). -/
def Claims.latticeLinkLevel : Prop :=
  ∀ (p : Nat) (fseq : BitVec 12) (n : BitVec 8) (epoch : BitVec 32) (s : State),
    let q := s.port p
    let up := q.st = .up ∨ q.st = .replay
    let hears := up ∧ q.waitFor = none
    let settled := q.waitFor = none ∧ q.replays = 0
    let again := q.retryOf = fseq ∧ q.retries ≠ 0
    let keeps := fun (t : State) => t.cores = s.cores ∧ t.mem = s.mem ∧ ∀ j, j ≠ p → t.port j = s.port j
    (hears → ∃ t, exec (.latticeAck p fseq n) s = .next t ∧ keeps t ∧ (t.port p).again = unacked fseq q.again ∧
      (t.port p).sent = (q.sent.filter fun f => !notAfter fseq f.seq) ∧ (t.port p).credits = min 128 (q.credits + n.toNat) ∧
      (t.port p).retries = (if ∃ f ∈ q.sent, notAfter fseq f.seq = true then 0 else q.retries) ∧
      (t.port p).st = (if q.st = .replay ∧ settled ∧ unacked fseq q.again = [] then .up else q.st)) ∧
    (hears → ∃ t, exec (.latticeNak p fseq) s = .next t ∧ keeps t ∧ (t.port p).retry = min 0xFFFFFFFF (q.retry + 1) ∧
      (t.port p).retries = (if again then q.retries + 1 else 1) ∧ (t.port p).retryOf = fseq ∧ (t.port p).sent = q.sent ∧
      (t.port p).again = replayFrom fseq q.sent ∧ (t.port p).st = (if again ∧ 7 ≤ q.retries then .down else .replay)) ∧
    (up → ∃ t, exec (.latticeCodewordUncorrectable p) s = .next t ∧ keeps t ∧
      (t.port p).fecUnc = min 0xFFFFFFFF (q.fecUnc + 1) ∧ (t.port p).nakDue = true ∧
      (q.waitFor = none → (t.port p).waitFor = some q.rxSeq ∧ (t.port p).lost = 0 ∧ (t.port p).nakAt = s.now ∧
        (t.port p).st = .replay)) ∧
    (up → q.waitFor = some fseq → ∃ t, exec (.latticeReplayFrame p fseq) s = .next t ∧ keeps t ∧
      t.port p = { q with
        waitFor := none, replays := q.lost, lost := 0, nakDue := false
        maxTicks := max q.maxTicks (min 0xFFFF (s.now - q.nakAt)) }) ∧
    (q.waitFor ≠ some fseq → exec (.latticeReplayFrame p fseq) s = .next s) ∧
    (hears → ∃ t, exec (.latticeIdle p) s = .next t ∧ keeps t ∧
      t.port p = { q with st := if q.again = [] ∧ q.replays = 0 then .up else q.st }) ∧
    (hears → s.fab.quar = false → ∃ t, exec (.latticeStale p epoch) s = .next t ∧ t.fab.quar = true ∧
      t.mem = s.mem ∧ t.ports = s.ports) ∧
    (¬hears → exec (.latticeAck p fseq n) s = .next s ∧ exec (.latticeNak p fseq) s = .next s ∧
      exec (.latticeIdle p) s = .next s ∧ exec (.latticeStale p epoch) s = .next s) ∧
    (¬up → exec (.latticeCodewordUncorrectable p) s = .next s ∧ exec (.latticeReplayFrame p fseq) s = .next s)

/-- R309, R311, R312, R314, R322: a port that ends its training is UP on all eight lanes with its own partner in lock; else DOWN,
FREQ_ERR or MISWIRED. A port in use that loses a lane is DOWN. The credits and what waits after a training are log entry 43 (DESIGN
CHOICE). -/
def Claims.portsTrain : Prop :=
  ∀ (p : Nat) (tr : Training) (lanes : BitVec 8) (s : State),
    let q := s.port p
    let st : LinkState := if tr.lanes ≠ 0xFF then .down else if tr.locked = false then .freqErr
      else if tr.peerModule.toNat = (partner s p).1 ∧ tr.peerPort.toNat = (partner s p).2 then .up else .miswired
    let keeps := fun (t : State) => t = { s with ports := t.ports, host := t.host } ∧ ∀ j, j ≠ p → t.port j = s.port j
    (q.st = .training → ∃ t, exec (.portTrainingComplete p tr) s = .next t ∧ keeps t ∧
      t.port p = { q with
        st := st, lanes := tr.lanes, peerMod := tr.peerModule, peerPort := tr.peerPort, oneWay := tr.oneWay, credits := 128
        waitFor := none, lost := 0, replays := 0, retries := 0 }) ∧
    (q.st ≠ .training → exec (.portTrainingComplete p tr) s = .next s) ∧
    (q.st = .up ∨ q.st = .replay → ∃ t, exec (.portLaneLoss p lanes) s = .next t ∧ keeps t ∧
      t.port p = { q with lanes := lanes, st := if lanes = 0xFF then q.st else .down })

/-- R240, R357, R408, R411, R413–R415, R470, R509: a snapshot record of the side channel enters the buffer of its root, which holds 64,
and the oldest of the buffer is written into the snapshot ring; the oldest complete trace row of a core leaves for its segment when it is
written, no sooner than the rate of the core's write-backs lets it, and, for a planned trace, once in its turn, which comes
⌈4,096 ÷ s⌉ ticks after the last; that of a halted core whose island is frozen waits for the rate alone. The row of a Sealed job leaves
under the trace key. What was lost is reported as soon as a row has left. The tick of a planned turn is log entry 113, the tick in
which a row enters the snapshot ring log entry 59 (DESIGN CHOICE). -/
def Claims.recordsReachMemory : Prop :=
  ∀ (k : Nat) (row data : Bytes) (rest : List Bytes) (s : State),
    let o := s.obs
    let x := (s.core k).trc
    let turn := (4096 + o.share.toNat - 1) / o.share.toNat
    let wrap := o.traceRows ≤ x.next + 1
    let full := rest = [] ∧ x.row.length = 512
    let turnNow := x.turnAt ≤ s.coreTick k ∨ ((s.core k).seq.st = .halted ∧ s.coreFrozen k = true)
    let a := o.traceBase + (k * o.traceRows + x.next) * 512
    let stored := match (if s.sealedJob then s.curCtx.sec.traceKey else none) with
      | some key => xtsEnc key (a / 512 + 2 ^ 40 * x.wraps) data
      | none => data
    let writes := fun (i : Instr) => ∃ t z, exec i s = .next t ∧ t.pkts = s.pkts ++ [z] ∧ z.kind = .writeRow ∧
      z.addr = a ∧ z.dstEnd = .stack ∧ z.core = some k ∧ z.data = stored ∧
      t.mem = s.mem ∧ (t.core k).outAt = s.now + 8 ∧
      (x.lostNow = 0 → (t.core k).trc = { x with
        ready := if full then [x.row] else rest, row := if full then [] else x.row
        next := if wrap then 0 else x.next + 1
        wraps := if wrap then min 0xFFFF (x.wraps + 1) else x.wraps
        turnAt := s.coreTick k + if o.trace = 1 ∧ o.share ≠ 0 then turn else 0 }) ∧
      (x.lostNow ≠ 0 → rest = [] → x.row.length ≤ 512 → (t.core k).trc.lostNow = 0 ∧ (t.core k).trc.lost = x.lost ∧
        (t.core k).trc.outcomes = [] ∧ (t.core k).trc.next = if wrap then 0 else x.next + 1) ∧
      ∀ j, j ≠ k → t.core j = s.core j
    (o.mode = 1 → s.cur.isSome = true → exec (.snapshotRecordArrival row) s = .next { s with
      obs := { o with side := if o.side.length < 64 then o.side ++ [padTo 512 row] else o.side } }) ∧
    (o.mode ≠ 1 ∨ s.cur = none → exec (.snapshotRecordArrival row) s = .next s) ∧
    (o.side = data :: rest → o.snapSlots ≠ 0 → sideTick s = { s with
      mem := memWrite s.mem (o.snapBase + o.snapN % o.snapSlots * 512) (padTo 512 data)
      obs := { o with side := rest, snapN := min 0xFFFFFFFF (o.snapN + 1) } }) ∧
    (x.ready = data :: rest → (s.core k).outAt ≤ s.now →
      (o.trace = 2 → writes (.traceRowWrite k)) ∧
      (o.trace = 1 → o.share ≠ 0 → turnNow → writes (.plannedTraceTurn k))) ∧
    (o.trace ≠ 2 ∨ s.now < (s.core k).outAt → exec (.traceRowWrite k) s = .next s) ∧
    (o.trace ≠ 1 ∨ o.share = 0 ∨ s.now < (s.core k).outAt ∨ ¬turnNow → exec (.plannedTraceTurn k) s = .next s)

/-- R417, R418, R422, R423: the level sample is due every 1,048,576 real ticks and gives the replays and corrections of its interval
to monitors 56 to 58, and begins new counts; the window sample is due every 256. When its tick ends a sample raises its monitor's
count, keeps its extremes and adds to one bin; LATCH copies a monitor, CLEAR puts it back to its reset values, without the samples of
their own tick. The phase of the two periods is the model's choice (log entry 100). -/
def Claims.monitorsSample : Prop :=
  ∀ (m : BitVec 6) (readings : List Nat) (s : State),
    let x := fun (n : Nat) => mget s.mon.mons n {}
    let y := fun (t : State) (n : Nat) => mget t.mon.mons n {}
    let took := fun (n v : Nat) (t : State) => (y t n).samples = min 0xFFFFFFFF ((x n).samples + 1) ∧
      (y t n).last = BitVec.ofNat 32 (min v 0xFFFFFFFF) ∧ (x n).min.toNat ≥ (y t n).min.toNat ∧
      (x n).max.toNat ≤ (y t n).max.toNat ∧ (y t n).min.toNat ≤ min v 0xFFFFFFFF ∧ min v 0xFFFFFFFF ≤ (y t n).max.toNat ∧
      mget (y t n).bins (monBin n v) 0 = min 0xFFFFFFFF (mget (x n).bins (monBin n v) 0 + 1)
    let levels := ((List.range 42 ++ [60, 61, 62, 63]).zip readings) ++
      [(56, s.mon.eccSeen), (57, s.mon.meshSeen), (58, s.mon.latSeen)]
    let die := fun (d : Nat) => (List.range nIslands).foldl (fun a c => if dieOf c = d then max a (windowSum s (some c)) else a) 0
    (∃ t, exec (.monLatch m) s = .next t ∧ t.mon = { s.mon with latchV := true, latchM := m, latch := x m.toNat }) ∧
    (∃ t, exec (.monClear m) s = .next t ∧ t = { s with mon := t.mon } ∧ y t m.toNat = {} ∧ t.mon.latch = s.mon.latch ∧
      t.mon.fresh = s.mon.fresh ∧ ∀ n, n ≠ m.toNat → y t n = x n) ∧
    (∃ t, exec (.monLatchClear m) s = .next t ∧ t = { s with mon := t.mon } ∧ y t m.toNat = {} ∧ t.mon.latch = x m.toNat ∧
      t.mon.latchM = m ∧ t.mon.latchV = true ∧ t.mon.fresh = s.mon.fresh ∧ ∀ n, n ≠ m.toNat → y t n = x n) ∧
    (s.now % 1048576 = 0 → s.mon.levelAt ≤ s.now → exec (.monitorLevelSample readings) s = .next { s with mon := { s.mon with
      fresh := s.mon.fresh ++ levels, eccSeen := 0, meshSeen := 0, latSeen := 0, levelAt := s.now + 1 } }) ∧
    (s.now % 1048576 ≠ 0 ∨ s.now < s.mon.levelAt → exec (.monitorLevelSample readings) s = .next s) ∧
    (s.now % 256 = 0 → s.mon.windowAt ≤ s.now → exec .monitorWindowSample s = .next { s with mon := { s.mon with
      fresh := s.mon.fresh ++ ((47, windowSum s none / 256) :: (List.range 4).map fun d => (48 + d, die d / 256))
      windowAt := s.now + 1 } }) ∧
    (s.now % 256 ≠ 0 ∨ s.now < s.mon.windowAt → exec .monitorWindowSample s = .next s) ∧
    (∀ n v, s.mon.fresh = [(n, v)] → settleTick s = { s with mon := (settleTick s).mon } ∧ took n v (settleTick s) ∧
      (settleTick s).mon.fresh = [] ∧ ∀ i, i ≠ n → y (settleTick s) i = x i)

/-- R424–R426: the link below the packets. ACK frees the replay buffer, ends the count of retries if it covers a frame, ends a retry
that is over, and, as the first after a retraining, has the module resend the frames behind it; NAK counts a retry and resends from
its frame on, or takes the link DOWN at the eighth of one frame; an uncorrectable codeword has the module send a NAK and await that
frame, which its REPLAY ends; a FILL frame only keeps the receiver from counting it; a link that carries no traffic may train again,
one that is DOWN every 10 ms. Which frames leave after a retraining is log entry 69, what resends behind a NAK log entry 43 (DESIGN
CHOICE). -/
def Claims.hostLinkLevel : Prop :=
  ∀ (fseq : BitVec 12) (hc pc : Nat) (s : State),
    let h := s.host
    let up := h.link = .up ∨ h.link = .replay
    let again := h.retryOf = fseq ∧ h.retries ≠ 0
    let kept := unacked fseq h.frames
    let due := if h.resume then replayFrom (fseq + 1) kept else unacked fseq h.again
    let wait := s.mgmt.aux = true ∧ (h.link = .down → h.downAt + 16000000 ≤ s.now)
    (up → exec .hostFillFrame s = .next { s with host := { h with fillSeen := true } }) ∧
    (up → exec (.hostLinkAck fseq hc pc) s = .next { s with host := { h with
      acked := fseq, retries := if kept.length = h.frames.length then h.retries else 0, frames := kept, again := due
      resume := false
      link := if h.link = .replay ∧ h.waitFor = none ∧ due = [] then .up else h.link } }) ∧
    (up → ∃ t, exec (.hostLinkNak fseq) s = .next t ∧ t = { s with host := t.host } ∧
      t.host.retry = min 0xFFFFFFFF (h.retry + 1) ∧ t.host.retryOf = fseq ∧
      t.host.retries = (if again then h.retries + 1 else 1) ∧ t.host.control = h.control ∧ t.host.bulk = h.bulk ∧
      t.host.frames = h.frames ∧ t.host.again = replayFrom fseq h.frames ∧
      (if again ∧ 7 ≤ h.retries then t.host.link = .down ∧ t.host.lanes = 0 ∧ t.host.downs = min 0xFFFF (h.downs + 1) ∧
          t.host.downAt = s.now
        else t.host.link = .replay ∧ t.host.downs = h.downs)) ∧
    (up → exec .hostCodewordUncorrectable s = .next { s with host := { h with
      fecUnc := min 0xFFFFFFFF (h.fecUnc + 1), nakDue := true, waitFor := if h.waitFor = none then some h.rxSeq else h.waitFor
      link := if h.waitFor = none then .replay else h.link } }) ∧
    (up → h.waitFor = some fseq → exec (.hostReplayFrame fseq) s = .next { s with host := { h with
      waitFor := none, nakDue := false, link := if h.link = .replay ∧ h.again = [] then .up else h.link } }) ∧
    (¬up → wait → exec (.hostLinkRetrain true) s = .next { s with host := { h with
        link := .up, lanes := 0xF, retries := 0, again := [], nakDue := false, ackAge := 31, resume := h.link == .down
        waitFor := if h.link = .down then some h.rxSeq else none } } ∧
      exec (.hostLinkRetrain false) s = .next { s with host := { h with
        link := if h.link = .down then .down else .training, lanes := 0, downAt := s.now } }) ∧
    (¬up → exec (.hostLinkAck fseq hc pc) s = .next s ∧ exec (.hostLinkNak fseq) s = .next s ∧ exec .hostFillFrame s = .next s ∧
      exec .hostCodewordUncorrectable s = .next s) ∧
    (¬up ∨ h.waitFor ≠ some fseq → exec (.hostReplayFrame fseq) s = .next s) ∧
    (up ∨ ¬wait → exec (.hostLinkRetrain true) s = .next s)

/-- R426–R428, R430, R431, R434, R466: a packet that passes check 1 joins the bulk queue, if its opcode is of group 3, or the
control queue, and takes its credits; one from Renkai Link goes before those of the management port that completed in its tick. One
that fails is discarded, counted, and answered with BAD_PACKET; the credits that it took go back in the next ACK. When a malformed
packet is answered, and over which interfaces its tag counts, is log entry 66 (DESIGN CHOICE). -/
def Claims.commandPacketsArrive : Prop :=
  ∀ (i : Iface) (pkt : Bytes) (s : State),
    let h := s.host
    let heard := s.mgmt.aux = true ∧ (i = .renkai → (h.link = .up ∨ h.link = .replay) ∧ h.waitFor = none)
    let units := (pkt.length - 32 + 31) / 32
    let follows := fun (x : Pending) => i = .renkai ∧ x.iface = .mgmt ∧ x.atT = s.now
    let later := fun (x : Pending) => if follows x then { x with num := x.num + 1 } else x
    let joins := fun (q : Pending) (l : List Pending) => l.filter (fun x => !decide (follows x)) ++ [q] ++
      (l.filter fun x => decide (follows x)).map later
    (heard → checkOne i pkt h = true → hFlags pkt % 2 = 0 →
      ∃ t q, exec (.commandPacketArrival i pkt) s = .next t ∧ t = { s with host := t.host } ∧ q.iface = i ∧ q.hdr = pkt.take 32 ∧
        q.payload = pkt.drop 32 ∧ q.plain = some (pkt.drop 32) ∧ q.atT = s.now ∧ t.host.arrN = h.arrN + 1 ∧
        q.num = h.arrN - ((h.bulk ++ h.control).filter fun x => decide (follows x)).length ∧
        t.host.tags = h.tags ++ [(i, hTag pkt)] ∧
        t.host.bulk = (if hOp pkt / 256 = 3 then joins q h.bulk else h.bulk.map later) ∧
        t.host.control = (if hOp pkt / 256 = 3 then h.control.map later else joins q h.control) ∧
        (i = .renkai → t.host.hdrCred = h.hdrCred - 1 ∧ t.host.payCred = h.payCred - units) ∧
        (i = .mgmt → t.host.hdrCred = h.hdrCred ∧ t.host.payCred = h.payCred)) ∧
    (heard → checkOne i pkt h = false → 32 ≤ pkt.length →
      ∃ t y, exec (.commandPacketArrival i pkt) s = .next t ∧ t = { s with host := t.host, mon := t.mon } ∧
        t.host.sent.getLast? = some y ∧ y.iface = i ∧ y.hdr.take 8 = pkt.take 5 ++ [0x80#8, 0x04#8, 0#8] ∧ y.payload = [] ∧
        t.host.bad = min 0xFFFF (h.bad + 1) ∧ t.host.control = h.control ∧ t.host.bulk = h.bulk ∧
        (i = .renkai → t.host.hdrCred = h.hdrCred - 1 ∧ t.host.payCred = h.payCred - units ∧
          t.host.owedHdr = h.owedHdr + min 1 h.hdrCred ∧ t.host.owedPay = h.owedPay + min units h.payCred) ∧
        (i = .mgmt → t.host.hdrCred = h.hdrCred ∧ t.host.owedHdr = h.owedHdr)) ∧
    ((h.tags.any fun x => x.2 == hTag pkt) = true → checkOne i pkt h = false) ∧
    (¬heard → exec (.commandPacketArrival i pkt) s = .next s)

/-- R427, R428, R442, R466: a reply repeats the first five bytes of its command, with RESPONSE set, the status and the length; the events
of its interface leave before it; the last reply ends the tag. A reply to a protected command is sealed under the session of its
context, and counts. What leaves by Renkai Link waits there as blocks for its frames. -/
def Claims.repliesLeave : Prop :=
  ∀ (p : Pending) (status : Nat) (params payload : Bytes) (final : Bool) (s : State),
    let t := reply p status params payload final s
    let hdr := (p.hdr.take 5) ++ [0x80#8, BitVec.ofNat 8 status, 0#8] ++ leBytes 4 (blockPad payload).length ++ padTo 20 params
    let i := p.iface
    let before := s.host.sent ++ (if i = .renkai then s.host.evR
      else if s.host.eidBy.isSome then s.host.evM.map (fun x => { x with dst := s.host.eidBy }) else [])
    let blocks := fun (y : Sent) => if i = .renkai then s.host.out ++ (s.host.evR ++ [y]).flatMap sentBlocks else s.host.out
    p.hdr.length = 32 → status < 256 →
    (p.enc = false → t.host.sent = before ++ [⟨i, hdr, blockPad payload, s.now, none⟩] ∧ t.ctxs = s.ctxs ∧
      t.host.out = blocks ⟨i, hdr, blockPad payload, s.now, none⟩) ∧
    (∀ h2m m2h kIn kOut, p.enc = true → (s.ctx p.ctx).sec.session = some (h2m, m2h, kIn, kOut) →
      let sealedHdr := hdr.take 5 ++ [0x81#8] ++ hdr.drop 6
      t.host.sent = before ++ [⟨i, sealedHdr, gcmSeal kOut m2h sealedHdr (blockPad payload), s.now, none⟩] ∧
      (t.ctx p.ctx).sec.session = if 2 ^ 32 ≤ m2h + 1 then none else some (h2m, m2h + 1, kIn, kOut)) ∧
    (final = true → (i, hTag p.hdr) ∉ t.host.tags) ∧ (final = false → t.host.tags = s.host.tags) ∧
    t.host.bad = (if status = 4 then min 0xFFFF (s.host.bad + 1) else s.host.bad) ∧
    t.sec.deniedHost = (if status = 6 then min 0xFFFFFFFF (s.sec.deniedHost + 1) else s.sec.deniedHost) ∧
    t.cores = s.cores ∧ t.mem = s.mem ∧ t.host.control = s.host.control ∧ t.host.bulk = s.host.bulk

/-- R319, R322, R393, R434, R441, R442, R534, R535: the commands that ask, read or write registers, or set masks, the epoch or ports, on
being taken up with correct parameters in a state that allows them, answer OK with what they ask for, and change what they name. -/
def Claims.queriesAnswer : Prop :=
  ∀ (p : Pending) (s : State), opened p s →
    let u := fun (opc : Nat) => s.taken opc p
    let byte := field p.hdr 12 1
    let word := field p.hdr 12 4
    (takenUp 0x0101 p s → plainForm p [] = true →
      exec .identify s = .next (reply p 0 [] (identity s) true (u 0x0101))) ∧
    (takenUp 0x0102 p s → unusedZero p [] = true → hLen p.hdr ≤ 1024 →
      exec .echo s = .next (reply p 0 [] p.body true (u 0x0102))) ∧
    (takenUp 0x0103 p s → regState false p (u 0x0103) = true → regSealed false p (u 0x0103) = false → regParams false p = none →
      exec .regRead s = .next { u 0x0103 with host := { (u 0x0103).host with
        regJob := some { cmd := p, write := false, addrs := regAddrs p } } }) ∧
    (takenUp 0x0104 p s → regState true p (u 0x0104) = true → regSealed true p (u 0x0104) = false → regParams true p = none →
      exec .regWrite s = .next { u 0x0104 with host := { (u 0x0104).host with
        regJob := some { cmd := p, write := true, addrs := regAddrs p } } }) ∧
    (takenUp 0x0106 p s → plainForm p [(12, 1)] = true → byte < 8 →
      exec .events s = .next (reply p 0 [] [] true { u 0x0106 with host := { (u 0x0106).host with
        maskR := if p.iface = .renkai then BitVec.ofNat 8 byte else s.host.maskR
        maskM := if p.iface = .mgmt then BitVec.ofNat 8 byte else s.host.maskM } })) ∧
    (takenUp 0x0207 p s → plainForm p [] = true → inStates [.ready, .running, .rekeyResume, .safe, .retired] s = true →
      exec .ctxStatus s = .next (reply p 0 (ctxStatus p.ctx s) [] true (u 0x0207))) ∧
    (∀ o, takenUp 0x0605 p s → plainForm p [(12, 4)] = true → namedOp p s = some o →
      let r := progressOf o (u 0x0605)
      exec .opStatus s = .next (reply p 0 (opStatus o r.1) [] true r.2)) ∧
    (takenUp 0x0704 p s → plainForm p [(12, 4)] = true → (s.mgmt.st = .ready ∨ s.mgmt.st = .running) → s.cur = none →
      s.fab.quar = false → 0 < word → s.fab.epoch.toNat < word →
      exec .epochSet s = .next (reply p 0 [] [] true { u 0x0704 with fab := { s.fab with epoch := BitVec.ofNat 32 word } })) ∧
    (takenUp 0x0703 p s → plainForm p [(12, 4)] = true → s.mgmt.st = .ready → s.cur = none → word < 2 ^ 20 →
      ∃ t, exec .portDisable s = .next t ∧ t.cores = s.cores ∧ t.mem = s.mem ∧ ∀ q, q < 20 →
        t.port q = if word.testBit q then { s.port q with
          st := .off, lanes := 0, sent := [], again := [], part := none, queue := [], transit := [], waitFor := none
          lost := 0, replays := 0, nakDue := false, ackAge := 0, owed := 0, stales := 0, retries := 0, txSeq := 0, rxSeq := 0, credits := 0 }
        else s.port q)

/-- R18, R434, R441: a register access reaches one word in a tick, ascending, before anything else of the tick; a read word joins the
reply, a written one takes the next eight bytes of the payload; with the last word the command is answered. -/
def Claims.registersReached : Prop :=
  ∀ (j : RegJob) (a : Nat) (rest : List Nat) (s : State), s.host.regJob = some j → j.addrs = a :: rest →
    let r := regRead a s
    let w := regWrite a (BitVec.ofNat 64 (field j.cmd.body j.data.length 8)) s
    let got := j.data ++ leBytes 8 r.1.toNat
    (j.write = false → rest ≠ [] → regTick s = { r.2 with host := { r.2.host with
      regJob := some { j with addrs := rest, data := got } } }) ∧
    (j.write = false → rest = [] → regTick s = reply j.cmd 0 [] got true { r.2 with host := { r.2.host with regJob := none } }) ∧
    (j.write = true → rest ≠ [] → regTick s = { w with host := { w.host with
      regJob := some { j with addrs := rest, data := j.data ++ List.replicate 8 0 } } }) ∧
    (j.write = true → rest = [] → regTick s = reply j.cmd 0 [] [] true { w with host := { w.host with regJob := none } })

/-- R433, R440, R467, R530: the bulk commands, on being taken up for a range that they may name: BULK_WRITE and BULK_READ begin to
move their rows, BULK_FILL is accepted as an operation and begins to write its pattern; and TRACE_CTL waits for the next Proof. That
TRACE_CTL does not hold up its queue is log entry 66 (DESIGN CHOICE). -/
def Claims.bulkCommandsAct : Prop :=
  ∀ (p : Pending) (s : State), opened p s →
    let a := field p.hdr 12 8
    let n := field p.hdr 20 4
    let allowed := (s.mgmt.st = .ready ∨ s.mgmt.st = .running) ∧ rekeyOp s = none
    let begins := fun (t : State) (opc : Nat) (x : BulkJob) => t.mem = s.mem ∧ t.host.jobs = s.host.jobs ++ [x] ∧
      t.pkts = s.pkts ∧ x.cmd = p ∧ x.addr = a ∧ x.gone = 0 ∧ x.got = [] ∧ t.nextId = s.nextId + 1 ∧ x.id = s.nextId ∧
      queueOf opc t.host = (queueOf opc s.host).drop 1
    (takenUp 0x0301 p s → allowed → bulkDenied true p a (hLen p.hdr / 512) s = false → bulkBad s a (hLen p.hdr / 512) = none →
      unusedZero p [(12, 8)] = true → hLen p.hdr % 512 = 0 → hLen p.hdr ≠ 0 →
      ∃ t x, exec .bulkWrite s = .next t ∧ begins t 0x0301 x ∧ x.op = none ∧ x.write = true ∧ x.n = hLen p.hdr / 512 ∧
        x.data = p.body.take (hLen p.hdr) ∧ t.host.sent = s.host.sent) ∧
    (takenUp 0x0302 p s → allowed → bulkDenied false p a n s = false → bulkBad s a n = none →
      plainForm p [(12, 8), (20, 4)] = true → 1 ≤ n → n ≤ 2048 →
      ∃ t x, exec (.bulkRead []) s = .next t ∧ begins t 0x0302 x ∧ x.op = none ∧ x.write = false ∧ x.n = n ∧
        t.host.sent = s.host.sent) ∧
    (takenUp 0x0303 p s → allowed → bulkDenied true p a n s = false → bulkBad s a n = none →
      plainForm p [(12, 8), (20, 4), (24, 8)] = true → 1 ≤ n →
      ∃ t x o, exec .bulkFill s = .next t ∧ begins t 0x0303 x ∧ o ∈ t.host.ops ∧ o.opcode = 0x0303 ∧ o.tag = hTag p.hdr ∧
        x.op = some o.id ∧ x.write = true ∧ x.n = n ∧ x.data = (List.replicate 64 ((p.hdr.drop 24).take 8)).flatten ∧
        t.host.opSeq = s.host.opSeq + 1) ∧
    (takenUp 0x0401 p s → s.mgmt.st = .running → s.obs.trace ≠ 1 → (s.sealedJob = false ∧ (s.ctx p.ctx).sec.sealed = false) →
      plainForm p [(12, 1), (16, 8), (24, 8)] = true → field p.hdr 12 1 < 4 → field p.hdr 12 1 % 2 = 0 →
      field p.hdr 16 8 % 512 = 0 →
      ∃ t r, exec .traceCtl s = .next t ∧ t.obs.pendTrace = s.obs.pendTrace ++ [r] ∧ r.on = false ∧ r.cmd = p ∧ t.mem = s.mem ∧
        t.cores = s.cores)

/-- R207, R233, R236, R440, R530: the rows of a bulk transfer leave the host router ascending, row k on plane k mod 3, the next one
16 ticks later (that pace is the model's choice, log entry 98); what comes back is kept, and a transfer whose rows are all done is
answered, BULK_READ with its rows in ascending address. The order of transfers and the end of one are log entry 68 (DESIGN CHOICE).
-/
def Claims.bulkRowsMove : Prop :=
  ∀ (j : BulkJob) (p : Pkt) (s : State),
    (s.host.jobs.find? (fun x => decide (x.gone < x.n)) = some j → j.next ≤ s.now →
      ∃ z, (bulkSend s).pkts = s.pkts ++ [z] ∧ z.src = s.hostRouter ∧ z.srcEnd = .host ∧ z.addr = j.addr + 512 * j.gone ∧
        z.row = j.gone ∧ z.plane = j.gone % 3 ∧ z.vc = 0 ∧ z.bulk = some j.id ∧ z.ready = s.now + 11 ∧
        z.dst = s.targetRouter 0 z.addr ∧ z.dstEnd = (if isDram z.addr then .stack else .cluster) ∧
        z.path = z.src :: s.route z.src z.dst ∧
        (if j.write then z.kind = .writeRow ∧ (j.op = none → z.data = padTo 512 (j.data.drop (512 * j.gone))) ∧
            (j.op ≠ none → z.data = padTo 512 j.data)
          else z.kind = .readReq) ∧
        (bulkSend s).host.jobs = (s.host.jobs.map fun x =>
          { x with next := s.now + 16, gone := if x.id = j.id then x.gone + 1 else x.gone }) ∧ (bulkSend s).mem = s.mem) ∧
    (s.host.jobs.find? (fun x => decide (x.gone < x.n)) = some j → s.now < j.next → bulkSend s = s) ∧
    ((∀ x ∈ s.host.jobs, x.n ≤ x.gone) → bulkSend s = s) ∧
    (s.pkts.filter (fun x => x.bulk.isSome && x.dstEnd == .host && s.delivered x) = [p] → p.bulk = some j.id →
      (bulkBack s).pkts = s.pkts.filter (fun x => x.id != p.id) ∧ (bulkBack s).host.jobs = s.host.jobs.map fun x =>
        if x.id = j.id then { x with got := mset x.got p.row p.data } else x) ∧
    (s.host.jobs.filter (fun x => decide (x.n ≤ x.got.length) && x.op.isNone) = [j] →
      bulkDone s = reply j.cmd 0 [] (if j.write then [] else j.got.flatMap (·.2)) true { s with host := { s.host with
        jobs := s.host.jobs.filter fun x => x.id != j.id } })

/-- R435, R436, R391: CTX_LOAD and CTX_RESTORE, on being taken up for a context that may be loaded, are accepted as operations that
keep the load block or the address, and change nothing else of the job. By what SEALED_LOCK denies a load is log entry 63 (DEDUCED).
-/
def Claims.loadsAccepted : Prop :=
  ∀ (p : Pending) (s : State), opened p s → (s.mgmt.st = .ready ∨ s.mgmt.st = .running) →
    let i := p.ctx
    let a := field p.hdr 12 8
    (takenUp 0x0201 p s → loadable (s.ctx i).st = true → (s.sec.locked = true → binSealed s (loadBlock p.body).binAddr = true) →
      unusedZero p [] = true → hLen p.hdr = 192 →
      ∃ t o, exec .ctxLoad s = .next t ∧ accepted 0x80 p s t o ∧ o.data = p.body.take 192 ∧ (t.ctx i).st = (s.ctx i).st ∧
        t.cores = s.cores ∧ t.mem = s.mem) ∧
    (takenUp 0x0205 p s → (s.ctx i).st = .empty ∨ (s.ctx i).st = .aborted → plainForm p [(12, 8)] = true → a % 512 = 0 →
      a < dramEnd →
      ∃ t o, exec .ctxRestore s = .next t ∧ accepted 0x80 p s t o ∧ o.args = [a] ∧ (t.ctx i).st = (s.ctx i).st ∧
        t.cores = s.cores ∧ t.mem = s.mem)

/-- R88, R264, R346, R436, R454: a load that fails a check changes no state and answers with the check; one that passes makes the
context LOADED, with its image on the cores if no other context runs, its translation table, and its measurement. What a load clears
is log entry 63, a context that is no longer loadable log entry 72, which failure is reported log entry 62 (DEDUCED). -/
def Claims.loadsComplete : Prop :=
  ∀ (id : BitVec 32) (e : OpEnd) (o : Op) (s : State), s.op id = some o → o.opcode = 0x0201 → mainOff s = false →
    cancelPast o s.now = false →
    let i := o.ctx.toNat
    let b := loadBlock o.data
    let bin := binBytes s b
    (∀ kib x, loadable (s.ctx i).st = true → loadResult s i b = (kib, .error x) →
      exec (.operationComplete id e) s = .next (complete o.id x.status (loadParams kib (some x)) [] s)) ∧
    (∀ kib xs, loadable (s.ctx i).st = true → loadResult s i b = (kib, .ok xs) →
      ∃ t, exec (.operationComplete id e) s = .next t ∧ answered o.iface o.tag 0 s t ∧ (t.ctx i).st = .loaded ∧
        (t.ctx i).bin = binInfo b bin bin xs ∧ (t.ctx i).launched = false ∧ (t.ctx i).sec.keyId = 0 ∧
        (t.ctx i).sec.list = none ∧ (t.ctx i).sec.sealed = bitAt (field bin 16 4) 0 ∧
        mget t.sync.xlat i [] = imgXlat (sole xs 3).2 ∧
        mget t.sec.mr (4 + i) [] = shake256 (List.replicate 64 0 ++ shake256 bin 64) 64 ∧
        (coresFree s i = true → ∀ k ∈ s.allCores,
          (t.core k).seq = { pc := BitVec.ofNat 18 (64 * field (sect xs 1 k) 4 2) } ∧ (t.core k).ls = (imageCore xs k).ls ∧
          (t.core k).lv.slots = (imageCore xs k).lv.slots)) ∧
    (loadable (s.ctx i).st = false → exec (.operationComplete id e) s = .next (complete o.id 3 [] [] s))

/-- R86, R87, R391, R471: the restore of a saved image is refused for another shape, a timing table that the module does not list,
or a key that is not the context's; else the context is SWITCHED, and holds the image. Where a saved context is found is log entry
64 (DEDUCED). -/
def Claims.restoresComplete : Prop :=
  ∀ (id : BitVec 32) (e : OpEnd) (o : Op) (x : SavedCtx) (s : State), s.op id = some o → o.opcode = 0x0205 → mainOff s = false →
    cancelPast o s.now = false →
    let i := o.ctx.toNat
    let keyed := x.keyId ≠ 0 ∧ x.keyId = (s.ctx i).sec.keyId
    mfind s.images (o.args.headD 0) = some x → (s.ctx i).st = .empty ∨ (s.ctx i).st = .aborted →
    (x.bin.shape ≠ s.shape → exec (.operationComplete id e) s = .next (complete o.id 13 [] [] s)) ∧
    (x.bin.shape = s.shape → ttListed s x.bin.ttId = false →
      exec (.operationComplete id e) s = .next (complete o.id 14 [] [] s)) ∧
    (x.bin.shape = s.shape → ttListed s x.bin.ttId = true → x.isSealed = true → ¬keyed →
      exec (.operationComplete id e) s = .next (complete o.id 6 [] [] s)) ∧
    (x.bin.shape = s.shape → ttListed s x.bin.ttId = true → (x.isSealed = true → keyed) →
      ∃ t, exec (.operationComplete id e) s = .next t ∧ answered o.iface o.tag 0 s t ∧ (t.ctx i).st = .switched ∧
        (t.ctx i).save = some x.img ∧ (t.ctx i).bin = x.bin ∧ (t.ctx i).launch = x.launch ∧ (t.ctx i).w = x.img.w ∧
        (t.ctx i).fabN = x.img.fab ∧ mget t.sync.xlat i [] = x.xlat ∧ t.cores = s.cores ∧ t.mem = s.mem)

/-- R165, R405, R411, R437, R438, R468: a launch of a LOADED context, in READY, is accepted: the stream slots take the keys of the seed,
every core runs toward the entry Proof, which it reaches 4,096 ticks later, and sealed residency begins or ends. -/
def Claims.launchStarts : Prop :=
  ∀ (p : Pending) (s : State), takenUp 0x0202 p s → opened p s → s.mgmt.st = .ready → s.cur = none → unusedZero p [] = true →
    hLen p.hdr = 64 → standsReady p.ctx s →
    let l := launchBlock p.body
    launchable p l s →
    ∃ t o, exec .jobLaunch s = .next t ∧ accepted 0x80 p s t o ∧ (t.ctx p.ctx).launchOp = some o.id ∧
      startsRunning p.ctx l s t ∧ ((s.ctx p.ctx).launched = false → ∀ k ∈ s.allCores, (t.core k).obs = {} ∧ (t.core k).trc = {}) ∧
      ∀ k ∈ s.allCores, ∀ e ∈ (t.core k).lv.slots, e.2.valid = true →
        (e.2.k0, e.2.k1) = streamKey l.seed e.2.id ∧ (l.streams = 0 → e.2.base = 0)

/-- R439: a switch to a LOADED or SWITCHED context starts it at once while no context runs, and else waits for its Proof. -/
def Claims.switchStartsOrWaits : Prop :=
  ∀ (p : Pending) (s : State), takenUp 0x0204 p s → opened p s → (s.mgmt.st = .ready ∨ s.mgmt.st = .running) →
    let i := p.ctx
    let n := field p.hdr 12 4
    let l := launchBlock p.body
    unusedZero p [(12, 4)] = true →
    (s.cur = none → standsReady i s → launchable p l s → hLen p.hdr = 64 →
      ∃ t o, exec .ctxSwitch s = .next t ∧ accepted 0x80 p s t o ∧ (t.ctx i).launchOp = some o.id ∧ startsRunning i l s t) ∧
    (s.cur = none → standsReady i s → (s.ctx i).st = .switched → hLen p.hdr = 0 →
      ∃ t o, exec .ctxSwitch s = .next t ∧ accepted 0x80 p s t o ∧ (t.ctx i).launchOp = some o.id ∧
        startsRunning i (s.ctx i).launch s t) ∧
    (∀ j, s.cur = some j → (s.ctx i).st = .switched → hLen p.hdr = 0 → switchAllowed n s = true → (n = 0 → soleJob s = true) →
      ∃ t o, exec .ctxSwitch s = .next t ∧ accepted 0x80 p s t o ∧ (t.ctx j).switchAt = some (i, n, o.id) ∧
        (t.ctx j).st = (s.ctx j).st ∧ (t.ctx i).st = .switched ∧ t.cores = s.cores)

/-- R384: JOB_ABORT at take-up: a RUNNING context gets the abort point 64 ticks later, and the reply waits; a HELD, FAULTED or
SWITCHED one is ABORTED at once; a second abort answers BUSY with the ID of the first; any other context refuses. A second abort of
an ABORTED context is log entry 71 (DEDUCED), what an abort abandons log entry 73 (DESIGN CHOICE). -/
def Claims.abortsTakenUp : Prop :=
  ∀ (p : Pending) (s : State), takenUp 0x0203 p s → opened p s → (s.mgmt.st = .ready ∨ s.mgmt.st = .running) →
    plainForm p [] = true →
    let i := p.ctx
    let c := s.ctx i
    (c.abortAt = none → c.st = .running →
      ∃ t o, exec .jobAbort s = .next t ∧ o ∈ t.host.ops ∧ o.tag = hTag p.hdr ∧ o.opcode = 0x0203 ∧
        o.id = BitVec.ofNat 32 (0x80 * 2 ^ 24 + (s.host.opSeq + 1) % 2 ^ 24) ∧
        t.ctx i = { c with abortAt := some (s.now + 64), abortOp := o.id } ∧ t.cores = s.cores ∧ t.host.sent = s.host.sent) ∧
    (c.abortAt = none → c.st = .held ∨ c.st = .faulted →
      ∃ t, exec .jobAbort s = .next t ∧ (t.ctx i).st = .aborted ∧ (t.ctx i).abortAt = some s.now ∧
        (c.abortEnd = none → (t.ctx i).abortEnd = some false) ∧ jobGone t) ∧
    (c.abortAt = none → c.st = .switched →
      ∃ t, exec .jobAbort s = .next t ∧ (t.ctx i).st = .aborted ∧ (t.ctx i).abortAt = some s.now ∧ t.cores = s.cores) ∧
    (∀ a, c.abortAt = some a →
      ∃ t y, exec .jobAbort s = .next t ∧ y ∈ t.host.sent.drop s.host.sent.length ∧ field y.hdr 6 1 = 2 ∧
        field y.hdr 12 4 = c.abortOp.toNat ∧ (t.ctx i).abortAt = some a ∧ t.cores = s.cores) ∧
    (c.abortAt = none → c.st = .empty ∨ c.st = .loaded ∨ c.st = .done ∨ c.st = .aborted →
      ∃ t, exec .jobAbort s = .next t ∧ answered p.iface (hTag p.hdr) 3 s t ∧ (t.ctx i).st = c.st ∧ t.cores = s.cores)

/-- R384, R385: at the abort point a context that was done in time, or meets the condition of R383 now, answers DONE_BEFORE_ABORT,
whatever became of it since; any other is ABORTED, nothing of its job is left but rows on their way to the stacks, and the reply
ABORTED follows once none of them and no transfer remains. What an abort abandons and what it lets complete is log entry 73 (DESIGN
CHOICE). -/
def Claims.abortsDecided : Prop :=
  ∀ (ctx : BitVec 2) (s : State),
    let i := ctx.toNat
    let c := s.ctx i
    let rows := ∃ p ∈ s.pkts, p.kind = .writeRow ∧ p.dstEnd = .stack ∧ p.bulk = none
    let told := fun (status : Nat) (t : State) => ∀ o, s.op c.abortOp = some o →
      ∃ y ∈ t.host.sent.drop s.host.sent.length, y.iface = o.iface ∧ field y.hdr 2 2 = o.tag.toNat ∧ field y.hdr 6 1 = status ∧
        field y.hdr 12 4 = c.abortOp.toNat
    (∀ a, c.abortAt = some a → a ≤ s.now →
      (c.abortEnd = some true → ∃ t, exec (.abortPoint ctx) s = .next t ∧ (t.ctx i).st = c.st ∧ (t.ctx i).abortAt = none ∧
        t.cores = s.cores ∧ told 9 t) ∧
      (c.abortEnd = some false → exec (.abortPoint ctx) s = .next s) ∧
      (c.abortEnd = none → c.st = .running → doneCondition s = true → c.switchAt = none → c.arm = none →
        ∃ t, exec (.abortPoint ctx) s = .next t ∧ (t.ctx i).st = .done ∧ (t.ctx i).abortAt = none ∧ told 9 t) ∧
      (c.abortEnd = none → c.st = .running → doneCondition s = false →
        ∃ t, exec (.abortPoint ctx) s = .next t ∧ (t.ctx i).st = .aborted ∧ (t.ctx i).abortAt = some a ∧
          (t.ctx i).abortEnd = some false ∧ jobGone t)) ∧
    (∀ a, c.abortAt = some a → s.now < a → exec (.abortPoint ctx) s = .next s) ∧
    (c.abortAt = none → exec (.abortPoint ctx) s = .next s ∧ exec (.abortReply ctx) s = .next s) ∧
    (∀ a, c.abortEnd = none → c.abortAt = some a → (c.enter .done).abortEnd = some true ∧ (c.enter .aborted).abortEnd = some false) ∧
    (c.abortEnd = some false → c.abortAt.isSome = true → (¬rows ∧ s.xfers = []) ∨ s.onCores ≠ some i →
      ∃ t, exec (.abortReply ctx) s = .next t ∧ (t.ctx i).st = c.st ∧ (t.ctx i).abortAt = none ∧ t.cores = s.cores ∧ told 8 t) ∧
    (rows ∨ s.xfers ≠ [] → s.onCores = some i → exec (.abortReply ctx) s = .next s)

/-- R383, R415, R439: a running context that meets the DONE condition is done, its trace ends, and a switch that waited takes place;
a context that does not meet it stays as it is. -/
def Claims.contextEnds : Prop :=
  ∀ (ctx : BitVec 2) (s : State),
    let i := ctx.toNat
    let c := s.ctx i
    (c.st = .running → doneCondition s = true → c.switchAt = none →
      ∃ t, exec (.contextDone ctx) s = .next t ∧ (t.ctx i).st = .done ∧ t.obs.trace = 0 ∧ t.obs.pendTrace = [] ∧
        (∀ k, (t.core k).seq = (s.core k).seq) ∧
        (s.mgmt.st = .running → (∀ j, j ≠ i → (s.ctx j).st.active = false) → t.mgmt.st = .ready)) ∧
    (∀ target n op, c.st = .running → doneCondition s = true → c.switchAt = some (target, n, op) → target ≠ i →
      ∃ t, exec (.contextDone ctx) s = .next t ∧ (t.ctx i).st = .done ∧ (t.ctx target).st = .running ∧
        (t.ctx target).launchOp = some op ∧ t.proof.entry = some target) ∧
    (c.st ≠ .running ∨ doneCondition s = false → exec (.contextDone ctx) s = .next s)

/-- R465, R468, R471: CTX_FREE makes a LOADED, SWITCHED, DONE or ABORTED context EMPTY, without session, list or measurement; a sealed
context loses its key, and, in residency, the cores and cluster memories are zeroised. -/
def Claims.contextFreed : Prop :=
  ∀ (p : Pending) (s : State), takenUp 0x0206 p s → opened p s → (s.mgmt.st = .ready ∨ s.mgmt.st = .running) →
    plainForm p [] = true →
    let i := p.ctx
    let c := s.ctx i
    c.st = .loaded ∨ c.st = .switched ∨ c.st = .done ∨ c.st = .aborted →
    ∃ t, exec .ctxFree s = .next t ∧ answered p.iface (hTag p.hdr) 0 s t ∧ (t.ctx i).st = .empty ∧ (t.ctx i).bin = {} ∧
      (t.ctx i).launch = {} ∧ (t.ctx i).launched = false ∧ (t.ctx i).sec.session = none ∧ (t.ctx i).sec.list = none ∧
      (t.ctx i).sec.sealed = false ∧ mget t.sec.mr (4 + i) [] = [] ∧
      (c.sec.sealed = true → (t.ctx i).sec.keyId = 0 ∧ (t.ctx i).sec.ranges = [] ∧ (t.ctx i).save = none) ∧
      (c.sec.sealed = true → s.sec.resident = some i →
        t.cores = [] ∧ t.sec.resident = none ∧ ∀ x ∈ t.mem, x.1 < windowBase) ∧
      (c.sec.sealed = false → t.cores = s.cores ∧ t.mem = s.mem)

/-- R387, R388, R439: STARTER_ARM notes N and the tag; STARTER_SUMMARY returns the capture summary of a HELD context; STARTER_RELEASE
lets every core that waits at the Proof go on at phase tick 0, or the switch that was due there takes place. -/
def Claims.capturesStand : Prop :=
  ∀ (p : Pending) (s : State), opened p s → (s.mgmt.st = .ready ∨ s.mgmt.st = .running) →
    let i := p.ctx
    let c := s.ctx i
    let n := field p.hdr 12 4
    (takenUp 0x0208 p s → c.st = .loaded ∨ c.st = .running ∨ c.st = .switched → c.arm = none → c.fabN < n →
      plainForm p [(12, 4), (16, 2)] = true → conflict kStarter s = none →
      ∃ t o, exec .starterArm s = .next t ∧ accepted 7 p s t o ∧ t.cores = s.cores ∧ t.mem = s.mem ∧
        (t.ctx i).arm = some ⟨n, BitVec.ofNat 16 (field p.hdr 16 2), o.id, hTag p.hdr, p.iface⟩) ∧
    (takenUp 0x0209 p s → c.st = .held → (c.sec.sealed = true → p.enc = true) → plainForm p [] = true →
      exec .starterSummary s = .next (reply p 0 [] (summary i s) true (s.taken 0x0209 p))) ∧
    (takenUp 0x020A p s → c.st = .held → plainForm p [] = true → c.switchAt = none →
      ∃ t, exec .starterRelease s = .next t ∧ answered p.iface (hTag p.hdr) 0 s t ∧ (t.ctx i).st = .running ∧
        (t.ctx i).arm = none ∧ (t.ctx i).capture = none ∧ ∀ k ∈ s.allCores, (s.core k).seq.st = .proofWait →
          (t.core k).seq.st = (if (s.core k).seq.haltAt then .halted else .running) ∧ (t.core k).seq.wait = .none ∧
          (t.core k).seq.phase0 = s.coreTick k ∧ (t.core k).seq.regs = (s.core k).seq.regs) ∧
    (∀ target m op, takenUp 0x020A p s → c.st = .held → plainForm p [] = true → c.switchAt = some (target, m, op) →
      target ≠ i → m = 0 ∨ m = c.fabN →
      ∃ t, exec .starterRelease s = .next t ∧ answered p.iface (hTag p.hdr) 0 s t ∧ (t.ctx i).st = .switched ∧
        (t.ctx i).save.isSome = true ∧ (t.ctx target).st = .running ∧ t.proof.entry = some target)

/-- R396, R397, R432, R434, R455, R473, R535: the commands that start a maintenance operation, on being taken up in a state that allows it
and beside no operation that conflicts, are accepted with an operation ID of their kind; what they ask for is kept with the operation. A
REKEY with no key to change completes at once; one with keys gives each of them a new one beside it. How the chunks of an update answer,
and that a chunk behind the end of the image leaves free bytes between, is the model's choice (log entry 12). -/
def Claims.maintenanceBegins : Prop :=
  ∀ (p : Pending) (s : State), opened p s →
    let word := field p.hdr 12 4
    let byte := field p.hdr 12 1
    let quiet := s.mgmt.st = .ready ∧ s.cur = none
    let old := s.mgmt.fwBuf
    (takenUp 0x0601 p s → quiet → plainForm p [] = true → conflict kScrub s = none →
      ∃ t o, exec .scrub s = .next t ∧ accepted 2 p s t o ∧ t.cores = s.cores ∧ t.mem = s.mem ∧
        ∀ i, i < 24 → t.stack i = { s.stack i with wrapped := false }) ∧
    (takenUp 0x0602 p s → s.mgmt.st = .ready → allEmpty s = true → plainForm p [] = true → conflict kMemtest s = none →
      ∃ t o, exec .memtest s = .next t ∧ accepted 3 p s t o ∧ t.cores = s.cores ∧ t.mem = s.mem) ∧
    (takenUp 0x0603 p s → s.mgmt.st ∈ [ModState.waitHost, .ready, .running, .safe] → unusedZero p [(12, 4), (16, 1)] = true →
      field p.hdr 16 1 < 2 → hLen p.hdr ≠ 0 → word % 32 = 0 →
      (word = 0 ∨ fwOpen s = none → conflict kFw s = none →
        ∃ t o, exec .fwUpdate s = .next t ∧ accepted 4 p s t o ∧ t.mgmt = { s.mgmt with fwBuf := t.mgmt.fwBuf } ∧
          t.mgmt.fwBuf.length = word + p.body.length ∧ t.mgmt.fwBuf.drop word = p.body ∧
          o.args = if fwLast p then [1] else []) ∧
      (∀ x, word ≠ 0 → fwOpen s = some x →
        ∃ t, exec .fwUpdate s = .next t ∧ answered p.iface (hTag p.hdr) 0 s t ∧ t.mgmt = { s.mgmt with fwBuf := t.mgmt.fwBuf } ∧
          t.mgmt.fwBuf.take (min word old.length) = old.take (min word old.length) ∧
          t.mgmt.fwBuf.drop word = p.body ++ old.drop (word + p.body.length))) ∧
    (∀ r, takenUp 0x0604 p s → s.mgmt.st = .waitHost ∨ s.mgmt.st = .ready ∧ allEmpty s = true → unusedZero p [] = true →
      hLen p.hdr ≠ 0 → conflict kConfig s = none →
      ∃ t o, exec (.configWrite r) s = .next t ∧ accepted 5 p s t o ∧ o.cfg = some r ∧ t.mgmt = s.mgmt ∧
        t.sec.tally = s.sec.tally) ∧
    (takenUp 0x0507 p s → s.optionS = true → quiet → s.sec.life ≠ 0 → plainForm p [] = true → conflict kRekey s = none →
      (keyed s = true → ∃ t o, exec .rekey s = .next t ∧ accepted 1 p s t o ∧ t.sec.rekeyOpen = true ∧ t.sec.rekeyJournal = 0 ∧
        t.mem = s.mem ∧ ∀ i, i < 4 → (t.ctx i).sec.keyId = (s.ctx i).sec.keyId ∧
          ((s.ctx i).sec.keyId ≠ 0 → (t.ctx i).sec.oldKey = (s.ctx i).sec.key ∧ (t.ctx i).sec.key.length = 64)) ∧
      (keyed s = false → ∃ t, exec .rekey s = .next t ∧ answered p.iface (hTag p.hdr) 1 s t ∧
        answered p.iface (hTag p.hdr) 0 s t ∧ t.sec.rekeyOpen = s.sec.rekeyOpen ∧ t.mem = s.mem)) ∧
    (takenUp 0x0702 p s → s.mgmt.st ∈ [ModState.ready, .running, .rekeyResume] → portInUse s byte = false →
      plainForm p [(12, 1)] = true → byte < 20 → conflict kRetrain s = none →
      ∃ t o, exec .portRetrain s = .next t ∧ accepted 6 p s t o ∧ o.args = [byte] ∧
        (s.mgmt.st ≠ .rekeyResume → (t.port byte).st = .training) ∧ (s.mgmt.st = .rekeyResume → t.ports = s.ports) ∧
        ∀ q, q ≠ byte → t.port q = s.port q)

/-- R265, R311, R312, R523: FABRIC_BRINGUP takes the dimensions and the place of the module's tray, checks the parity pin, and trains the
ports of every used dimension; the others are off. -/
def Claims.fabricBringupBegins : Prop :=
  ∀ (p : Pending) (s : State), takenUp 0x0701 p s → opened p s → s.mgmt.st = .ready → s.cur = none → plainForm p [(12, 6)] = true →
    let v := fun (b : Nat) => field p.hdr b 1
    1 ≤ v 12 ∧ v 12 ≤ 8 ∧ 1 ≤ v 13 ∧ v 13 ≤ 4 ∧ 1 ≤ v 14 ∧ v 14 ≤ 4 ∧ v 15 < v 12 ∧ v 16 < v 13 ∧ v 17 < v 14 →
    let done := fun (t : State) => t.fab.x = v 12 ∧ t.fab.y = v 13 ∧ t.fab.z = v 14 ∧ t.fab.ox = v 15 ∧ t.fab.oy = v 16 ∧
      t.fab.oz = v 17 ∧ t.fab.index = some (8 * (16 * v 15 + 4 * v 16 + v 17) + s.mgmt.slotUsed.toNat) ∧
      ∀ q, q < 20 → (t.port q).st = if (portRole t q).1 = 0 then .off else .training
    (bnat s.mgmt.trayId = v 15 % 2 → ∃ t o, exec .fabricBringup s = .next t ∧ accepted 0x80 p s t o ∧ done t) ∧
    (bnat s.mgmt.trayId ≠ v 15 % 2 → exec .fabricBringup s = .next (reply p 5 [] [] true (s.taken 0x0701 p)))

/-- R396, R432, R434, R455: an operation that ends leaves those that run and sends its completion: a scrub counts one pass of every
stack that has not counted it at its end; an image that verifies stands in the inactive copy; a fill ends with its last row; failed
ports are named by their status. Nothing completes behind its cancel point. How failed entries end is log entry 12 (DESIGN CHOICE),
what a MEMTEST forgets log entry 74 (DESIGN CHOICE), failed ports log entry 75 (DEDUCED). -/
def Claims.maintenanceEnds : Prop :=
  ∀ (id : BitVec 32) (e : OpEnd) (o : Op) (s : State), s.op id = some o →
    let q := o.args.headD 0
    let ends := fun (status : Nat) (t : State) =>
      exec (.operationComplete id e) s = .next t ∧ t.op id = none ∧ answered o.iface o.tag status s t ∧ t.cores = s.cores
    (cancelPast o s.now = true → exec (.operationComplete id e) s = .next s) ∧ (cancelPast o s.now = false →
    (o.opcode = 0x0601 → mainOff s = false → ∃ t, ends 0 t ∧ t.mem = s.mem ∧
      ∀ i, i < 24 → (t.stack i).passes = min 0xFFFFFFFF ((s.stack i).passes + if (s.stack i).wrapped then 0 else 1)) ∧
    (o.opcode = 0x0602 → mainOff s = false → e = .ok → ∃ t, ends 0 t ∧ t.images = []) ∧
    (∀ a, o.opcode = 0x0602 → mainOff s = false → e = .failed a → ∃ t, ends 10 t ∧ t.images = []) ∧
    (o.opcode = 0x0603 → o.args ≠ [] → e = .ok → ∃ t, ends 0 t ∧ t.mgmt =
      if Config.imageMicrocode s.mgmt.fwBuf then
        { s.mgmt with fwBuf := [], uc := { s.mgmt.uc with other := some s.mgmt.fwBuf, fresh := true } }
      else { s.mgmt with fwBuf := [], fw := { s.mgmt.fw with other := some s.mgmt.fwBuf, fresh := true } }) ∧
    (o.opcode = 0x0603 → o.args ≠ [] → e = .verifyFail → ∃ t, ends 12 t ∧ t.mgmt = { s.mgmt with fwBuf := [] }) ∧
    (o.opcode = 0x0303 → mainOff s = false → (∀ j ∈ s.host.jobs, j.op = some o.id → j.n ≤ j.got.length) →
      ∃ t, ends 0 t ∧ t.mem = s.mem ∧ t.host.jobs = s.host.jobs.filter fun j => j.op != some o.id) ∧
    (∀ j ∈ s.host.jobs, o.opcode = 0x0303 → mainOff s = false → j.op = some o.id → j.got.length < j.n →
      exec (.operationComplete id e) s = .next s) ∧
    (o.opcode = 0x0701 → mainOff s = false → trainingOver s = true → failedPorts s = [] → ∃ t, ends 0 t ∧ t.ports = s.ports ∧
      (s.moduleIndex = 0 → t.fab = s.fab)) ∧
    (o.opcode = 0x0701 → mainOff s = false → trainingOver s = true → failedPorts s ≠ [] → ∃ t, ends 10 t ∧ t.fab = s.fab) ∧
    (o.opcode = 0x0702 → mainOff s = false → (s.port q).st ≠ .training →
      ∃ t, ends (if portUp (s.port q) then 0 else 10) t ∧ t.ports = s.ports))

/-- R433: OP_CANCEL sets the cancel point 64 ticks after take-up; at that point the operation ends with ABORTED, or, if it has
ended, the cancel answers DONE_BEFORE_ABORT; a cancelled fill leaves the rows that it wrote and moves no more; REKEY, CONFIG and
FW_UPDATE refuse. That a STARTER whose capture stands counts as ended is the model's reading (log entry 12). A cancelled load, and a
cancel whose operation has ended, are log entry 72 (DEDUCED). -/
def Claims.cancelsDecided : Prop :=
  ∀ (p : Pending) (s : State),
    (∀ o, takenUp 0x0606 p s → opened p s → (s.mgmt.st = .ready ∨ s.mgmt.st = .running) → plainForm p [(12, 4)] = true →
      namedOp p s = some o →
      (opKind o ∈ [1, 4, 5] → exec .opCancel s = .next (replyAs false p 3 [] [] true (s.taken 0x0606 p))) ∧
      (opKind o ∉ [1, 4, 5] → o.cancel = none → s.op o.id = some o →
        ∃ t, exec .opCancel s = .next t ∧ t.op o.id = some { o with cancel := some (s.now + 64, p) } ∧
          t.host.sent = s.host.sent ∧ t.cores = s.cores ∧ t.mem = s.mem)) ∧
    (∀ id o a, s.op id = some o → o.cancel = some (a, p) →
      let held := opKind o = 7 ∧ (s.ctx o.ctx.toNat).capture.isSome = true
      (s.now < a → exec (.cancelPoint id) s = .next s) ∧
      (a ≤ s.now → held → ∃ t, exec (.cancelPoint id) s = .next t ∧ t.op id = some { o with cancel := none } ∧
        answered p.iface (hTag p.hdr) 9 s t ∧ t.cores = s.cores ∧ t.mem = s.mem) ∧
      (a ≤ s.now → ¬held → ∃ t, exec (.cancelPoint id) s = .next t ∧ t.op id = none ∧ answered p.iface (hTag p.hdr) 8 s t ∧
        (o.opcode = 0x0201 → (t.ctx o.ctx.toNat).st = .empty) ∧
        (o.opcode = 0x0203 → (t.ctx o.ctx.toNat).abortAt = none ∧ t.cores = s.cores) ∧
        (o.opcode = 0x0208 → (t.ctx o.ctx.toNat).arm = none) ∧
        (o.opcode = 0x0303 → answered o.iface o.tag 8 s t ∧ t.cores = s.cores ∧ t.mem = s.mem ∧
          t.host.jobs = s.host.jobs.filter fun j => j.op != some id))) ∧
    (∀ id o a, s.op id = none → (s.host.ended.find? fun x => x.id == id) = some o → o.cancel = some (a, p) →
      (a ≤ s.now → ∃ t, exec (.cancelPoint id) s = .next t ∧ answered p.iface (hTag p.hdr) 9 s t ∧ t.cores = s.cores ∧
        t.mem = s.mem ∧ t.host.ops = s.host.ops.map fun x => if x.id = id then { x with cancel := none } else x) ∧
      (s.now < a → exec (.cancelPoint id) s = .next s))

/-- R452, R453, R484, R529: a CONFIG_WRITE ends with the first check that its record fails; one that passes commits its version and
its change of grade, and then the record goes to copy B, the changes are made, it goes to copy A, and the module starts again. The
`LAST_RESET` of that start is the model's choice (log entry 12), as is the tick in which copy B is written (log entry 119). A change
of grade without a record in use is log entry 83 (DEDUCED). -/
def Claims.configCommits : Prop :=
  ∀ (id : BitVec 32) (e : OpEnd) (o : Op) (r : ConfigRecord) (s : State),
    let g := s.mgmt
    let regrade := g.record.isSome && r.grade != s.grade
    let made := fun (t : State) => t.sec.tally.intents = s.sec.tally.intents.filter fun c => c != cntConfig && c != cntGrade
    (s.op id = some o → o.opcode = 0x0604 → o.cfg = some r → cancelPast o s.now = false →
      (∀ st, configStatus r s = some st → exec (.operationComplete id e) s = .next (complete o.id st [] [] s)) ∧
      (configStatus r s = none → ∃ t, exec (.operationComplete id e) s = .next t ∧ answered o.iface o.tag 0 s t ∧
        t.mgmt.applyPend = some (r, false) ∧ t.sec.tally.config = r.version ∧ t.sec.tally.lifecycle = s.sec.tally.lifecycle ∧
        t.sec.tally.grade = s.sec.tally.grade + bnat regrade ∧ t.mgmt.copyA = g.copyA ∧ t.mgmt.copyB = g.copyB ∧
        t.sec.tally.intents = s.sec.tally.intents ++ (if r.version = s.sec.tally.config then [] else [cntConfig]) ++
          (if regrade then [cntGrade] else []) ∧
        mget t.sec.mr 3 [] = shake256 (padTo 64 (mget s.sec.mr 3 []) ++ shake256 (Config.recordBytes (recordCode r)) 64) 64)) ∧
    (r.signed = false → configStatus r s = some 12) ∧
    (r.signed = true → r.stepping ≠ g.stepping ∨ recordOk r = false → configStatus r s = some 5) ∧
    (g.applyPend = some (r, false) → (applyTick s).mgmt.copyA = g.copyA ∧
      ((applyTick s).mgmt = g ∧ (applyTick s).sec = s.sec ∨
        (applyTick s).mgmt = { g with copyB := .copy r, applyPend := some (r, true) } ∧ made (applyTick s))) ∧
    (∀ b, g.applyPend = some (r, b) → ∃ t, exec .configApplyReset s = .next t ∧ t.mgmt.copyA = .copy r ∧
      (if b then t.mgmt.copyB = g.copyB ∧ t.sec.tally = s.sec.tally else t.mgmt.copyB = .copy r ∧ made t) ∧
      t.mgmt.applyPend = none ∧ t.sec.tally.config = s.sec.tally.config ∧
      (g.st = .waitHost → t.mgmt.st = .powering ∧ t.mgmt.resume4 = true ∧ t.mgmt.cycles = g.cycles) ∧
      (g.st ≠ .waitHost → t.mgmt.st = if (s.stack 0).powered then .selfCheck else .powering)) ∧
    (g.applyPend = none → exec .configApplyReset s = .next s)

/-- R399, R473: each chunk that completes advances the journal; the last one closes the sweep, drops the old key of every context
that holds one, gives the context a new key ID, and takes a module that resumed the sweep to READY. -/
def Claims.rekeySweeps : Prop :=
  ∀ (s : State), s.sec.rekeyOpen = true → s.mgmt.st ∈ [ModState.ready, .running, .rekeyResume] →
    (s.sec.rekeyJournal + 1 < 1920 → exec .rekeyChunkComplete s = .next { s with sec := { s.sec with
      rekeyJournal := s.sec.rekeyJournal + 1, rekeyRow := 0 } }) ∧
    (1920 ≤ s.sec.rekeyJournal + 1 → ∃ t, exec .rekeyChunkComplete s = .next t ∧ t.sec.rekeyOpen = false ∧ t.sec.rekeyJournal = 0 ∧
      (∀ i, i < 4 → if (s.ctx i).sec.keyId = 0 then (t.ctx i).sec = (s.ctx i).sec
        else (t.ctx i).sec.keyId ≠ 0 ∧ (t.ctx i).sec.keyId ≠ (s.ctx i).sec.keyId ∧ (t.ctx i).sec.key = (s.ctx i).sec.key ∧
          (t.ctx i).sec.oldKey = []) ∧ t.mem = s.mem ∧
      (s.mgmt.st = .rekeyResume → t.mgmt.st = .ready) ∧ (s.mgmt.st ≠ .rekeyResume → t.mgmt.st = s.mgmt.st) ∧
      ∀ id o, rekeyOp s = some id → s.op id = some o → answered o.iface o.tag 0 s t)

/-- R452, R453, R456–R458: ATTEST takes a leaf, commits it as used before it signs, and answers with the report, signed with that leaf;
no leaf is left at 1,048,576. The certificate is returned as it is stored. That commit, signature and reply are one step is log entry 78,
and the number of the counter in its record log entry 11 (DESIGN CHOICE). -/
def Claims.attestationAnswers : Prop :=
  ∀ (p : Pending) (s : State), takenUp 0x0501 p s → opened p s → plainForm p [(12, 1), (16, 16)] = true →
    let u := s.taken 0x0501 p
    let leaf := s.sec.tally.next
    let body := reportBody leaf ((p.hdr.drop 16).take 16) s
    (field p.hdr 12 1 = 0 → s.sec.zeroised = false → leaf < 1048576 →
      ∃ t y, exec .attestReport s = .next t ∧ t.sec.tally = { s.sec.tally with next := leaf + 1, pending := none } ∧
        answered p.iface (hTag p.hdr) 0 s t ∧ logs 1 s t ∧ t.host.sent.getLast? = some y ∧
        (p.enc = false → y.payload = padTo 3488 (body ++ padTo 2820 (Config.xmssSign leaf body)))) ∧
    (field p.hdr 12 1 = 0 → s.sec.zeroised = false → 1048576 ≤ leaf → exec .attestReport s = .next (reply p 11 [] [] true u)) ∧
    (2 ≤ field p.hdr 12 1 → s.sec.zeroised = false → exec .attestReport s = .next (reply p 5 [] [] true u)) ∧
    (field p.hdr 12 1 = 1 → s.sec.life ≠ 0 → exec .attestCertificate s = .next (reply p 0 [] (padTo 2976 s.sec.cert) true u))

/-- R456: the layout of a report: the bytes that name the format, the lifecycle, the options, the leaf, the nonce and the registers
stand where the manual puts them. -/
def Claims.reportLayout : Prop :=
  ∀ (leaf : Nat) (nonce : Bytes) (s : State),
    let b := reportBody leaf nonce s
    leaf < 2 ^ 32 → nonce.length = 16 →
    b.length = 640 ∧ b.take 4 = [0x4C#8, 0x41#8, 0x54#8, 0x54#8] ∧ field b 4 2 = 1 ∧ field b 6 1 = s.sec.life.toNat ∧
      field b 7 1 = bnat s.optionS + 2 * bnat s.sec.locked + 4 * bnat s.sec.tally.tamper ∧ field b 40 8 = s.shape.toNat ∧
      field b 48 4 = s.fab.epoch.toNat ∧ field b 52 4 = leaf ∧ (b.drop 64).take 16 = nonce ∧ field b 80 1 = modCode s.mgmt.st ∧
      (∀ i, i < 4 → field b (81 + i) 1 = ctxCode (s.ctx i).st) ∧
      ∀ m, m < 8 → (b.drop (128 + 64 * m)).take 64 = padTo 64 (mget s.sec.mr m [])

/-- R465, R466: SESSION_OPEN encapsulates to the owner's key, derives the two keys of the session, whose counters begin at 0, and
signs; SESSION_CLOSE ends the session of its context. The widths in the digest of a session are log entry 79 (DEDUCED). -/
def Claims.sessionsOpenAndClose : Prop :=
  ∀ (p : Pending) (s : State), opened p s → s.optionS = true → (s.mgmt.st = .ready ∨ s.mgmt.st = .running) → s.sec.life ≠ 0 →
    let c := s.ctx p.ctx
    let leaf := s.sec.tally.next
    let hn := (p.hdr.drop 16).take 16
    (∀ list, takenUp 0x0502 p s → s.sec.zeroised = false → c.sec.list = some list → c.st ≠ .empty → c.st ≠ .aborted →
      c.sec.session = none → plainForm p [(16, 16)] = true →
      (leaf < 1048576 → ∃ t y nonce w, exec .sessionOpen s = .next t ∧
        t.sec.tally = { s.sec.tally with next := leaf + 1, pending := none } ∧ nonce.length = 32 ∧
        let kem := Config.kemEncaps (ownerKey list) w
        let keys := shake256 (ascii "LSES" ++ kem.2 ++ hn ++ nonce) 64
        let ct := padTo 1568 kem.1
        let digest := shake256 (deviceId ++ leBytes 1 p.ctx ++ hn ++ nonce ++ ct ++ list) 64
        (t.ctx p.ctx).sec.session = some (0, 0, keys.take 32, keys.drop 32) ∧ t.host.sent.getLast? = some y ∧
        y.payload = nonce ++ ct ++ padTo 2848 (Config.xmssSign leaf digest) ∧ field y.hdr 6 1 = 0) ∧
      (1048576 ≤ leaf → exec .sessionOpen s = .next (reply p 11 [] [] true (s.taken 0x0502 p)))) ∧
    (takenUp 0x0503 p s → c.sec.session.isSome = true → plainForm p [] = true →
      ∃ t, exec .sessionClose s = .next t ∧ answered p.iface (hTag p.hdr) 0 s t ∧ (t.ctx p.ctx).sec.session = none ∧
        t.sec = s.sec ∧ ∀ j, j ≠ p.ctx → t.ctx j = s.ctx j)

/-- R454, R461, R462: a release list that verifies and keeps to the rules is accepted: the context takes its ranges and entries, a
fresh key with its ID, and the measurement; one that does not verify answers VERIFY_FAIL, one that breaks a rule BAD_PARAM. The
signature and its digest are opaque constants (log entry 8, DESIGN CHOICE). -/
def Claims.releaseListChecked : Prop :=
  ∀ (p : Pending) (s : State), takenUp 0x0504 p s → opened p s → s.optionS = true → s.mgmt.st = .ready → s.sec.life = 2 →
    let i := p.ctx
    let d := p.body
    (s.ctx i).st = .loaded → (s.ctx i).sec.sealed = true → (s.ctx i).sec.list = none → unusedZero p [] = true →
    1632 ≤ hLen p.hdr → 1 ≤ field d 56 2 → field d 56 2 ≤ 64 → field d 58 2 ≤ 256 → hLen p.hdr = rlSig d + 2848 →
    (listVerifies i d s = false → exec .releaseList s = .next (reply p 12 [] [] true (s.taken 0x0504 p))) ∧
    (listVerifies i d s = true → listBad i d s = true → exec .releaseList s = .next (reply p 5 [] [] true (s.taken 0x0504 p))) ∧
    (listVerifies i d s = true → listBad i d s = false → ∃ t, exec .releaseList s = .next t ∧
      answered p.iface (hTag p.hdr) 0 s t ∧ (t.ctx i).sec.list = some d ∧ (t.ctx i).sec.ranges = rangesOf d ∧
      (t.ctx i).sec.releases = releasesOf d ∧ (t.ctx i).sec.keyId ≠ 0 ∧ (t.ctx i).sec.key.length = 64 ∧
      mget t.sec.mr (4 + i) [] = shake256 (padTo 64 (mget s.sec.mr (4 + i) []) ++ shake256 d 64) 64 ∧ t.cores = s.cores)

/-- R450, R451, R453: LIFECYCLE commits and records its count, under its authorisation; an authorisation that does not verify
answers VERIFY_FAIL, one with no count left EXHAUSTED, and no target but the next is allowed. The step is taken and answered in the
next tick: RETIRED destroys the keys and powers the main domain down. That the commit and the step are a tick apart, and the answer
without a count, are the model's choice (log entry 118). The answer to a target that is not the next is log entry 80 (DEDUCED). -/
def Claims.lifecycleAdvances : Prop :=
  ∀ (p : Pending) (s : State),
    let life := s.sec.life.toNat
    (takenUp 0x0505 p s → opened p s → s.mgmt.st = .ready → allEmpty s = true →
      let target := field p.hdr 12 1
      let d := p.body
      let run := if target = 1 then exec .lifecycleProvision s else if target = 2 then exec .lifecycleDeploy s
        else exec .lifecycleRetire s
      let said := target = life + 1 ∧ unusedZero p [(12, 1)] = true ∧ hLen p.hdr = authLen target ∧
        statementOk target s.sec.tally.lifecycle d = true
      1 ≤ target → target ≤ 3 →
      (said → authVerifies target d s = true → s.sec.tally.lifecycle < 3 → ∃ t, run = .next t ∧ logs 1 s t ∧
        t.sec = { s.sec with tally := { s.sec.tally with
          lifecycle := s.sec.tally.lifecycle + 1, intents := s.sec.tally.intents ++ [cntLife] } } ∧
        t.host.change = some (target, p) ∧ t.host.sent = s.host.sent ∧ t.mgmt = s.mgmt ∧ t.cores = s.cores ∧ t.mem = s.mem) ∧
      (said → authVerifies target d s = true → 3 ≤ s.sec.tally.lifecycle →
        run = .next (reply p 11 [] [] true (s.taken 0x0505 p))) ∧
      (said → authVerifies target d s = false → run = .next (reply p 12 [] [] true (s.taken 0x0505 p))) ∧
      (target ≠ life + 1 → run = .next (replyAs false p 3 [] [] true (s.taken 0x0505 p)))) ∧
    (∀ target, s.host.change = some (target, p) → 1 ≤ target → target ≤ 3 →
      let t := changeTick s
      let d := p.body
      (target = life + 1 → life < s.sec.tally.lifecycle →
        answered p.iface (hTag p.hdr) 0 s t ∧ t.host.change = none ∧ t.sec.life.toNat = target ∧
        t.sec.tally = { s.sec.tally with intents := s.sec.tally.intents.filter (· != cntLife) } ∧
        (target = 1 → t.sec.cert = (d.drop 64).take 2976 ∧ t.mem = s.mem) ∧
        (target = 2 → t.sec.opKey = (d.drop 64).take 68 ∧ t.mem = s.mem) ∧
        (target = 3 → t.sec.opKey = [] ∧ (s.mgmt.st ≠ .safe → t.mgmt.st = .retired ∧ t.mgmt.main = false) ∧
          (s.mgmt.st = .safe → t.mgmt.st = .safe) ∧
          ∀ i, i < 4 → (t.ctx i).sec.keyId = 0 ∧ (t.ctx i).sec.key = [] ∧ (t.ctx i).sec.session = none)) ∧
      (target ≠ life + 1 ∨ s.sec.tally.lifecycle ≤ life → t = { s with host := { s.host with change := none } })) ∧
    (s.host.change = none → changeTick s = s)

/-- R451, R453, R472: SEALED_LOCK commits and records the lock under the operator's signature, once; in the next tick it takes
effect, and the command is answered. That the two are a tick apart is the model's choice (log entry 118). Without an operator key
the signature does not verify: log entry 80 (DEDUCED). -/
def Claims.sealedLockCommits : Prop :=
  ∀ (p : Pending) (s : State),
    (takenUp 0x0506 p s → opened p s → s.optionS = true → s.mgmt.st = .ready → allEmpty s = true →
      s.sec.life ≠ 0 → unusedZero p [] = true → hLen p.hdr = 2912 → statementOk 4 0 p.body = true →
      let u := s.taken 0x0506 p
      (operatorSigned p.body s = true → s.sec.tally.lock = false → ∃ t, exec .sealedLock s = .next t ∧ logs 1 s t ∧
        t.sec = { s.sec with tally := { s.sec.tally with lock := true, intents := s.sec.tally.intents ++ [cntLock] } } ∧
        t.host.change = some (4, p) ∧ t.host.sent = s.host.sent ∧ t.cores = s.cores ∧ t.mem = s.mem) ∧
      (operatorSigned p.body s = true → s.sec.tally.lock = true → exec .sealedLock s = .next (reply p 11 [] [] true u)) ∧
      (operatorSigned p.body s = false → exec .sealedLock s = .next (reply p 12 [] [] true u))) ∧
    (s.host.change = some (4, p) → s.sec.tally.lock = true →
      let t := changeTick s
      answered p.iface (hTag p.hdr) 0 s t ∧ t.host.change = none ∧ t.sec.locked = true ∧
        t.sec.tally = { s.sec.tally with intents := s.sec.tally.intents.filter (· != cntLock) } ∧ t.cores = s.cores ∧ t.mem = s.mem)

/-- R382, R449, R498: the tamper response zeroises every secret, sets the tamper bit for good, and takes the module to SAFE with cause
6; its record is committed. -/
def Claims.tamperZeroises : Prop :=
  ∀ (sensor : Nat) (s : State),
    (s.mgmt.aux = true → ∃ t, exec (.tamperResponse sensor) s = .next t ∧ t.sec.zeroised = true ∧
      t.sec.tally = { s.sec.tally with tamper := true } ∧ t.mgmt.st = .safe ∧ t.crumb.flash = t.crumb.slots ∧
      (s.mgmt.st ≠ .safe → t.mgmt.safeCause = 6) ∧ (∀ i, i < 4 → (t.ctx i).sec.keyId = 0 ∧ (t.ctx i).sec.session = none ∧
        (t.ctx i).sec.key = [] ∧ (t.ctx i).sec.ranges = [] ∧ (t.ctx i).sec.traceKey = none)) ∧
    (s.mgmt.aux = false → exec (.tamperResponse sensor) s = .next s)

/-- R395, R399, R418, R454, R465, R489–R492, R498: a RESET answers OK and then performs its kind; the release of RESET_N performs a
WARM reset, unless a RESET of its tick has taken effect, or a COLD or SHUTDOWN that can be taken up now does; a WARM one without
power in DRAM is performed as COLD. What of the links and the events survives is log entry 76 (DESIGN CHOICE), RESET_N and a RESET
in one tick log entry 121 (DEDUCED). -/
def Claims.resetsPreserve : Prop :=
  ∀ (p : Pending) (s : State),
    let cmd := takenUp 0x0105 p s ∧ opened p s ∧ plainForm p [(12, 1)] = true
    let released : State := { s with mgmt := { s.mgmt with resetN := true } }
    let told := fun (t : State) => answered p.iface (hTag p.hdr) 0 s t
    (cmd → field p.hdr 12 1 = 0 → ∃ t, exec .resetWarm s = .next t ∧ told t ∧ wasReset 0 2 s t) ∧
    (cmd → field p.hdr 12 1 = 1 → ∃ t, exec .resetCold s = .next t ∧ told t ∧ wasReset 1 3 s t) ∧
    (cmd → field p.hdr 12 1 = 2 → ∃ t, exec .resetShutdown s = .next t ∧ told t ∧ wasReset 2 4 s t) ∧
    (cmd → 2 < field p.hdr 12 1 → exec .resetWarm s = .next (reply p 5 [] [] true (s.taken 0x0105 p))) ∧
    (s.mgmt.aux = true → s.mgmt.resetAt = some s.now → exec .resetNRelease s = .next released) ∧
    (s.mgmt.aux = true → s.mgmt.resetAt ≠ some s.now →
      (cmd → (field p.hdr 12 1 = 1 → exec .resetNRelease s = exec .resetCold released) ∧
        (field p.hdr 12 1 = 2 → exec .resetNRelease s = exec .resetShutdown released)) ∧
      ((∀ q ∈ s.host.control.take 1, hOp q.hdr = 0x0105 → field q.hdr 12 1 ≠ 1 ∧ field q.hdr 12 1 ≠ 2) →
        ∃ t, exec .resetNRelease s = .next t ∧ t.mgmt.resetN = true ∧ wasReset 0 1 s t ∧
          t.host.sent = (if (s.stack 0).powered then finishRow s else s).host.sent)) ∧
    (s.mgmt.aux = false → exec .resetNRelease s = .next s)

/-- R477, R478, R480, R488, R498: the auxiliary domain runs from 36.0 V on, and the host link then trains; at 40.0 V the module
leaves OFF for POWERING and counts a power cycle; below 36.0 V it is OFF, and keeps only what flash and the Tally store hold. How
the module leaves OFF after a SHUTDOWN is log entry 81 (DEDUCED), the level of SLOT_ID that it samples log entry 122 (DESIGN
CHOICE). -/
def Claims.inputPowerMoves : Prop :=
  ∀ (mV : Nat) (s : State),
    let g := s.mgmt
    (g.st = .off → g.aux = false → 36000 ≤ mV → ∃ t, exec (.auxiliaryDomainStart mV) s = .next t ∧ t.mgmt.aux = true ∧
      t.mgmt.st = .off ∧ t.host.link = .training ∧ t.mgmt.main = g.main) ∧
    (g.st = .off → 40000 ≤ mV → g.lastReset ≠ 4 → ∃ t, exec (.inputPowerStable mV) s = .next t ∧ t.mgmt.aux = true ∧
      t.mgmt.st = .powering ∧ t.mgmt.prev = .off ∧ t.mgmt.cycles = (g.cycles + 1) % 2 ^ 28 ∧ t.mgmt.slotUsed = t.mgmt.slotId ∧
      t.mgmt.lastReset = 0 ∧ t.host.link = (if g.aux then s.host.link else .training)) ∧
    (g.aux = true → mV < 36000 → ∃ t, exec (.inputBelowAux mV) s = .next t ∧ t.mgmt.st = .off ∧ t.mgmt.aux = false ∧
      t.mgmt.main = false ∧ t.mem = [] ∧ t.cores = [] ∧ t.host = {} ∧ t.mgmt.copyA = g.copyA ∧ t.mgmt.copyB = g.copyB ∧
      t.mgmt.cycles = g.cycles ∧ t.sec.tally = s.sec.tally ∧ t.sec.rekeyJournal = s.sec.rekeyJournal ∧ t.sec.mr = [] ∧
      t.crumb.slots = s.crumb.flash ∧ ∀ i, (t.ctx i).st = .empty) ∧
    (g.main = true → mV < 40000 → ∃ t, exec (.inputOutOfRange mV) s = .next t ∧ tripped 7 s t) ∧
    (g.main = true → 47500 < mV → ∃ t, exec (.inputOutOfRange mV) s = .next t ∧ tripped 8 s t) ∧
    (g.main = true → 40000 ≤ mV → mV ≤ 47500 → exec (.inputOutOfRange mV) s = .next s) ∧
    (g.lastReset = 4 → exec (.inputPowerStable mV) s = .next s) ∧
    (mV < 36000 → exec (.auxiliaryDomainStart mV) s = .next s ∧ exec (.inputPowerStable mV) s = .next s) ∧
    (36000 ≤ mV → exec (.inputBelowAux mV) s = .next s)

/-- R480, R481, R488, R493: once the coolant has been stable, the plausibility check decides: the main domain ramps and the module
enters SELF_CHECK with power good, or an ERROR record names the lowest condition that fails, and the check repeats. A loss of the
coolant while the main domain is powered trips. That the coolant must be stable again after each entry into POWERING, and the
reading of that trip, are log entry 77 (DEDUCED). -/
def Claims.coolantGates : Prop :=
  ∀ (r : Coolant) (s : State), s.mgmt.aux = true →
    let all := [r.inlet0, r.inlet1, r.outlet0, r.outlet1]
    let c1 := ∀ x ∈ all, 80 ≤ x ∧ x ≤ 720
    let c2 := (r.inlet0 - r.inlet1).natAbs ≤ 16 ∧ (r.outlet0 - r.outlet1).natAbs ≤ 16
    let c3 := (r.outlet0 + r.outlet1 - (r.inlet0 + r.inlet1)).natAbs ≤ 96
    let passes := fun (t : State) => t.mgmt.st = .selfCheck ∧ t.mgmt.main = true ∧ t.mgmt.pwrGood = true ∧ t.mem = s.mem
    let fails := fun (t : State) => t.mgmt.st = .powering ∧ t.mgmt.main = s.mgmt.main ∧ logs 3 s t
    (s.mgmt.st = .powering → s.mgmt.coolantAck = false →
      (c1 ∧ c2 ∧ c3 → ∃ t, exec (.coolantOkStable r) s = .next t ∧ passes t ∧ t.mgmt.coolant = true) ∧
      (¬(c1 ∧ c2 ∧ c3) → ∃ t, exec (.coolantOkStable r) s = .next t ∧ fails t ∧ t.mgmt.coolantAck = true)) ∧
    (s.mgmt.st = .powering → s.mgmt.coolantAck = true →
      (c1 ∧ c2 ∧ c3 → ∃ t, exec (.plausibilityRetry r) s = .next t ∧ passes t) ∧
      (¬(c1 ∧ c2 ∧ c3) → ∃ t, exec (.plausibilityRetry r) s = .next t ∧ fails t)) ∧
    (s.mgmt.st ≠ .powering → exec (.coolantOkStable r) s = .next s ∧ exec (.plausibilityRetry r) s = .next s) ∧
    (s.mgmt.main = true → ∃ t, exec .coolantOkLoss s = .next t ∧ tripped 6 s t ∧ t.mgmt.coolant = false) ∧
    (s.mgmt.main = false → exec .coolantOkLoss s = .next { s with mgmt := { s.mgmt with coolant := false, coolantAck := false } })

/-- R400, R401, R448, R453–R455, R458, R482–R484, R529: SELF_CHECK ends in SAFE at the step that fails, in WAIT_HOST without a
valid record, in RETIRED, in REKEY_RESUME for a sweep that a WARM reset left open, or in READY; an image runs from an update, or from
the copy that ran last, or from the other one, as far as each verifies and has the version that the record asks for; the firmware that
runs and the record are measured, and nothing of the Tally store stays pending. The numbers of the images are log entry 11, that the
statuses of the copies stay as they were found log entry 117 (DEDUCED). -/
def Claims.selfCheckOutcomes : Prop :=
  ∀ (o : CheckOutcome) (s : State), s.mgmt.st = .selfCheck → s.mgmt.main = true →
    let ends := fun (t : State) => exec (.selfCheck o) s = .next t
    let safe := fun (cause : BitVec 8) (t : State) => ends t ∧ t.mgmt.st = .safe ∧ t.mgmt.safeCause = cause
    let least := match chosen s with
      | some (_, r) => r.minFw.toNat
      | none => 0
    let runs := fun (n : Nat) (ran : Bool) (img : Option Bytes) =>
      (n, ran) ∉ o.badCopies ∧ least ≤ Config.imageVersion (img.getD (Config.image n))
    let loads := fun (n : Nat) (x : FlashImage) => runs n true x.run ∨ runs n false x.other
    let all := loads 1 {} ∧ loads 2 s.mgmt.fw ∧ loads 3 s.mgmt.uc
    let early := s.mgmt.resume4 = true ∨ (o.katFail = none ∧ all)
    let later := s.mgmt.resume4 = false
    (∀ a, later → o.katFail = some a → ∃ t, safe 4 t) ∧
    (later → o.katFail = none → ¬all → ∃ t, safe 5 t ∧ t.sec.selftest = true) ∧
    (early → chosen s = none → ∃ t, ends t ∧ t.mgmt.st = .waitHost ∧ t.mgmt.main = false ∧ t.mgmt.record = none ∧
      t.mgmt.inUse = 0 ∧ t.mgmt.aStatus = copyStatus s.mgmt.copyA s ∧ t.mgmt.bStatus = copyStatus s.mgmt.copyB s) ∧
    (∀ n r x, early → chosen s = some (n, r) → o.marginFail = some x → ∃ t, safe 1 t) ∧
    (∀ n r, early → chosen s = some (n, r) → o.marginFail = none → o.stacksOk = false → ∃ t, safe 7 t) ∧
    (∀ n r, early → chosen s = some (n, r) → o.marginFail = none → o.stacksOk = true → ∃ t, ends t ∧
      t.mgmt.record = some r ∧ t.mgmt.inUse = n ∧ t.mgmt.trims = r.crossings ∧
      t.mgmt.aStatus = copyStatus s.mgmt.copyA s ∧ t.mgmt.bStatus = copyStatus s.mgmt.copyB s ∧
      mget t.sec.mr 3 [] = shake256 (padTo 64 (mget s.sec.mr 3 []) ++ shake256 (Config.recordBytes (recordCode r)) 64) 64 ∧
      (later → t.sec.tally = { s.sec.tally with pending := none, intents := [] } ∧ t.sec.selftest = true ∧
        (let x := s.mgmt.fw
          if runs 2 false x.other ∧ (x.fresh = true ∨ ¬runs 2 true x.run) then t.mgmt.fw = { run := x.other, other := x.run }
          else t.mgmt.fw = { x with fresh := false }) ∧
        mget t.sec.mr 1 [] = shake256 (padTo 64 (mget s.sec.mr 1 []) ++ shake256 t.firmware 64) 64) ∧
      (copyStatus s.mgmt.copyA s ≠ 0 → t.mgmt.copyA = .copy r) ∧ (copyStatus s.mgmt.copyB s ≠ 0 → t.mgmt.copyB = .copy r) ∧
      (if s.sec.life = 3 then t.mgmt.st = .retired ∧ t.mgmt.main = false
        else if s.sec.rekeyOpen = true ∧ s.mgmt.warm = true then t.mgmt.st = .rekeyResume ∧ t.sec.rekeyOpen = true
        else t.mgmt.st = .ready ∧ t.sec.rekeyOpen = false)) ∧
    (chosen s = if copyStatus s.mgmt.copyA s = 0 then (copyRecord s.mgmt.copyA).map (fun r => (1, r))
      else if copyStatus s.mgmt.copyB s = 0 then (copyRecord s.mgmt.copyB).map (fun r => (2, r)) else none)

/-- R486–R488: with every reading of the thermal guard a group is active from the reading at which a sensor reaches its guard level until
every sensor is below its guard-off level; the reading that makes the first group active raises THERMAL, which is raised again every
196,608 ticks. A reading at a trip level trips, with the first of the groups as the cause, unless the module is in SAFE after a trip
(the model's reading, log entry 120). -/
def Claims.thermalGuard : Prop :=
  ∀ (r : GuardReading) (s : State), s.mgmt.aux = true →
    let g := s.mgmt
    let groups := [(r.junction, 1680, 1600, 1840), (r.stack, 1440, 1392, 1600), (r.regulator, 1840, 1760, 2000),
      ([r.inlet], 640, 608, 720), ([r.rise], 256, 224, (320 : Int))]
    let hot := fun (n : Nat) => ∃ x, groups[n]? = some x ∧ ∃ y ∈ x.1, x.2.2.2 ≤ y
    let lit := fun (n : Nat) => ∃ x, groups[n]? = some x ∧ ((∃ y ∈ x.1, x.2.1 ≤ y) ∨ (g.active.getLsbD n = true ∧
      ∃ y ∈ x.1, x.2.2.1 ≤ y))
    let raised := fun (t : State) => t.mgmt.episodes = min 0xFFFF (g.episodes + 1) ∧ t.mgmt.lastRaise = s.now
    let kept := fun (t : State) => t.mgmt.episodes = g.episodes ∧ t.mgmt.lastRaise = g.lastRaise
    let counts := fun (t : State) => (∀ n, n < 5 → (t.mgmt.active.getLsbD n = true ↔ lit n)) ∧
      if g.active = 0 ∧ t.mgmt.active ≠ 0 then raised t else kept t
    let holds := fun (t : State) => if s.cur.isSome then t.hold = (raiseService .mgmt causeThermal none s).hold else t.hold = s.hold
    let after := g.st = .safe ∧ g.safeCause = 3
    (∀ n, hot n → (∀ m, m < n → ¬hot m) → ¬after →
      ∃ t, exec (.thermalGuardReading r) s = .next t ∧ tripped (BitVec.ofNat 8 (n + 1)) s t ∧ counts t) ∧
    ((∀ n, ¬hot n) ∨ after → ∃ t, exec (.thermalGuardReading r) s = .next t ∧ t.mgmt.st = g.st ∧ t.cores = s.cores ∧ t.mem = s.mem ∧
      counts t ∧ if g.active = 0 ∧ t.mgmt.active ≠ 0 then holds t else t.hold = s.hold) ∧
    (g.active ≠ 0 → g.lastRaise + 196608 ≤ s.now →
      ∃ t, exec .thermalRaise s = .next t ∧ raised t ∧ holds t ∧ t.mgmt.active = g.active) ∧
    (g.active = 0 ∨ s.now < g.lastRaise + 196608 → exec .thermalRaise s = .next s)

/-- R325, R381, R382, R498: a lost crossing margin and a watchdog expiry take the module to SAFE, where nothing of a job that is not
FAULTED runs on, the host's bulk transfers end ABORTED (the model's choice, log entry 12) and the stacks refresh themselves; a
trim step moves one trim within 0 to 63 and no k; a commit writes its record to flash, and so does the millisecond that has passed
since it was written. The numbers of the crossings, of which the last three are of the auxiliary domain, are log entry 116. -/
def Claims.safeIsEntered : Prop :=
  ∀ (x : Nat) (s : State),
    let runs := x < 319 ∧ (if x < 316 then s.mgmt.main else s.mgmt.aux) = true
    let entered := fun (cause : BitVec 8) (t : State) => t.mgmt.st = .safe ∧ t.mgmt.prev = s.mgmt.st ∧ t.mgmt.safeCause = cause ∧
      t.mgmt.main = s.mgmt.main ∧ t.mem = s.mem ∧ t.crumb.flash = t.crumb.slots ∧ t.sec.tally = s.sec.tally ∧
      (∀ i, s.cur = some i → if (s.ctx i).st = .faulted then (t.ctx i).st = .faulted
        else (t.ctx i).st = .aborted ∧ jobGone t) ∧
      (∀ e ∈ t.drams, e.2.selfRef = true) ∧ (∀ e ∈ t.ports, e.2.queue = [] ∧ e.2.transit = [] ∧ e.2.part = none) ∧
      t.host.jobs = [] ∧ ∀ j ∈ s.host.jobs, j.op = none → answered j.cmd.iface (hTag j.cmd.hdr) 8 s t
    (runs → s.mgmt.st ≠ .safe → ∃ t, exec (.crossingMarginLost x) s = .next t ∧ entered 1 t) ∧
    (s.mgmt.aux = true → s.mgmt.st ≠ .safe → ∃ t, exec .mgmtWatchdogExpiry s = .next t ∧ entered 2 t) ∧
    (s.mgmt.st = .safe → exec (.crossingMarginLost x) s = .next s ∧ exec .mgmtWatchdogExpiry s = .next s) ∧
    (¬runs → exec (.crossingMarginLost x) s = .next s ∧ ∀ up, exec (.crossingTrimStep x up) s = .next s) ∧
    (∀ up, runs → ∃ t, exec (.crossingTrimStep x up) s = .next t ∧ t = { s with mgmt := t.mgmt } ∧
      t.mgmt.trims.length = s.mgmt.trims.length ∧ ∀ i c, s.mgmt.trims[i]? = some c → t.mgmt.trims[i]? = some
        (if i = x then { c with trim := if up then min 63 (c.trim + 1) else c.trim - 1 } else c)) ∧
    (∀ n r, s.mgmt.aux = true → (s.crumb.slots.find? fun e => e.2.seq == x) = some (n, r) →
      exec (.crumbFlashCommit x) s = .next { s with crumb := { s.crumb with flash := mset s.crumb.flash n r, fresh := [] } }) ∧
    (∀ e, s.crumb.slots.filter (fun e => e.2.atT + 1600000 == s.now) = [e] →
      crumbTick s = { s with crumb := { s.crumb with flash := mset s.crumb.flash e.1 e.2 } }) ∧
    ((∀ e ∈ s.crumb.slots, e.2.atT + 1600000 ≠ s.now) → crumbTick s = s) ∧
    ((∀ e ∈ s.crumb.slots, e.2.seq ≠ x) → exec (.crumbFlashCommit x) s = .next s)

/-- R497, R499–R501: a record takes the next number and the lowest empty slot; in a full log the oldest of the lowest severity that is
below its own, else, up to WARN, the oldest of its own, else it is dropped, takes no number, and counts. Of two records of one tick the
one of the higher severity, then of the lower source, then of the lower site is written first. -/
def Claims.crumbLogWrites : Prop :=
  ∀ (a b : CrumbRec) (now n : Nat) (c : CrumbSt), a.severity ≤ 4 →
    let l := c.log
    let after := ((c.add a now).2.2.add b now).2.2.log
    let first := b.severity > a.severity ∨ (b.severity = a.severity ∧ (b.source < a.source ∨
      (b.source = a.source ∧ b.site.toNat < a.site.toNat)))
    let takes := fun (m : Nat) => (l.write a).2 = { l with
      slots := mset l.slots m { a with seq := l.lastSeq + 1 }, lastSlot := m, lastSeq := l.lastSeq + 1 }
    let oldest := fun (sev : Nat) (e : Nat × CrumbRec) => e ∈ l.slots ∧ e.2.severity = sev ∧
      ∀ x ∈ l.slots, x.2.severity = sev → x = e ∨ e.2.seq < x.2.seq
    let full := l.slots.map (·.1) = List.range 16384
    (c.freshAt ≠ now ∨ c.fresh = [] → (c.add a now).2.2.log = (l.write a).2 ∧
      after = if first then ((l.write b).2.write a).2 else ((l.write a).2.write b).2) ∧
    (l.slots.map (·.1) = List.range n → n < 16384 → takes n) ∧
    (full → ∀ e, oldest e.2.severity e → e.2.severity < a.severity → (∀ x ∈ l.slots, e.2.severity ≤ x.2.severity) → takes e.1) ∧
    (full → (∀ x ∈ l.slots, a.severity ≤ x.2.severity) →
      (∀ e, oldest a.severity e → a.severity ≤ 2 → takes e.1) ∧
      ((∀ x ∈ l.slots, a.severity < x.2.severity) → a.severity ≤ 2 → (l.write a).2 = { l with dropLow := min 0xFFFF (l.dropLow + 1) }) ∧
      (a.severity = 3 → (l.write a).2 = { l with dropErr := min 0xFFFF (l.dropErr + 1) }) ∧
      (a.severity = 4 → (l.write a).2 = { l with dropFat := min 0xFFFF (l.dropFat + 1) }))

/-- R444: the management port answers the MCTP control messages, to the endpoint that sent each: an endpoint ID that is set is kept,
with the endpoint that events go to; the vendor number is that of IDENTIFY. The codes and layouts of the answers are the model's
(DSP0236, log entry 9). -/
def Claims.endpointsAnswered : Prop :=
  ∀ (src eid : Byte) (s : State), s.mgmt.aux = true →
    let spoken := fun (code : Nat) (payload : Bytes) (h : HostSt) =>
      { h with sent := h.sent ++ [⟨.mgmt, [src, 0#8, BitVec.ofNat 8 code], 0#8 :: payload, s.now, some src⟩] }
    exec (.setEndpointId src eid) s = .next { s with host := spoken 1 [0#8, eid, 0#8] { s.host with eid := eid, eidBy := some src } } ∧
    exec (.getEndpointId src) s = .next { s with host := spoken 2 [s.host.eid, 0#8, 0#8] s.host } ∧
    (∃ v, v.length = 4 ∧ ∃ t, exec (.getMctpVersionSupport src) s = .next t ∧ t.host = spoken 4 (1#8 :: v) s.host ∧
      t.cores = s.cores ∧ t.mem = s.mem) ∧
    exec (.getMessageTypeSupport src) s = .next { s with host := spoken 5 [1#8, 0x7F#8] s.host } ∧
    ∃ v, v.length = 2 ∧ ∃ t, exec (.getVendorDefinedMessageSupport src) s = .next t ∧ t.cores = s.cores ∧ t.mem = s.mem ∧
      t.host = spoken 6 ([0xFF#8, 1#8] ++ (leBytes 4 Config.vendorIana).reverse ++ v) s.host

/-! ### Three rules of the manual -/

/-- R263: signals that would take the count of a cell past 0xFFFF_FFFF leave it there, before its waiters take from it; they set `OVF`,
and `OVERFLOWS` counts; no fault is raised. -/
def Obligations.signalOverflowStops : Prop :=
  ∀ (r : CellRef) (x : SigFly) (xs : List SigFly) (s : State), firstSigs s r = x :: xs →
    let h := homeOf r
    let c := s.cell r
    s.frozen h = false → x.dueAt (s.ticks h) ≤ s.ticks h → (∀ y ∈ x :: xs, s.arrived y.pkt = true) →
    0xFFFFFFFF < c.count + ((x :: xs).map (·.amount)).sum →
    ∃ t, exec (.signalApply r) s = .next t ∧ (t.cell r).ovf = true ∧ t.sync.overflows = min 0xFFFFFFFF (s.sync.overflows + 1) ∧
      (∀ k, (t.core k).fault = (s.core k).fault ∧ (t.core k).recov = (s.core k).recov) ∧
      (c.queue = [] → (t.cell r).count = 0xFFFFFFFF) ∧
      (∀ j a d m v, c.queue = [(j, a)] → (s.core j).seq.wait = .sync d m v .queued → a ≤ 0xFFFFFFFF →
        (t.cell r).count = 0xFFFFFFFF - a)

/-- R87: a context restore onto a module whose shape fingerprint differs from that of the saved context is answered with REFUSED_SHAPE, and
no state of the cores, of the contexts or of memory changes. -/
def Obligations.restoreOfOtherShapeRefused : Prop :=
  ∀ (id : BitVec 32) (e : OpEnd) (o : Op) (x : SavedCtx) (s : State), s.op id = some o → o.opcode = 0x0205 → mainOff s = false →
    cancelPast o s.now = false → mfind s.images (o.args.headD 0) = some x →
    (s.ctx o.ctx.toNat).st = .empty ∨ (s.ctx o.ctx.toNat).st = .aborted → x.bin.shape ≠ s.shape →
    ∃ t, exec (.operationComplete id e) s = .next t ∧ answered o.iface o.tag 13 s t ∧ t.op id = none ∧ t.cores = s.cores ∧
      t.clusters = s.clusters ∧ t.mem = s.mem ∧ t.sync = s.sync ∧
      ∀ j, (t.ctx j).st = (s.ctx j).st ∧ (t.ctx j).save = (s.ctx j).save ∧ (t.ctx j).bin = (s.ctx j).bin

/-- R393: the epoch-set command returns REFUSED_STATE if a context of the module is RUNNING or HELD (or FAULTED, which counts as RUNNING,
R383) or the module is quarantined, BAD_PARAM if its value is 0 or not greater than the module's epoch, and OK otherwise, when the
module's epoch becomes that value. -/
def Obligations.epochSetAnswers : Prop :=
  ∀ (p : Pending) (s : State), takenUp 0x0704 p s → opened p s → (s.mgmt.st = .ready ∨ s.mgmt.st = .running) →
    plainForm p [(12, 4)] = true →
    let e := field p.hdr 12 4
    let u := s.taken 0x0704 p
    let busy := (∃ i, i < 4 ∧ (s.ctx i).st ∈ [CtxState.running, .held, .faulted]) ∨ s.fab.quar = true
    (busy → exec .epochSet s = .next (replyAs false p 3 [] [] true u)) ∧
    (¬busy → e = 0 ∨ e ≤ s.fab.epoch.toNat → exec .epochSet s = .next (reply p 5 [] [] true u)) ∧
    (¬busy → 0 < e → s.fab.epoch.toNat < e →
      exec .epochSet s = .next (reply p 0 [] [] true { u with fab := { s.fab with epoch := BitVec.ofNat 32 e } }))

/-! ### The block -/

/-- A step with a command at the front of the queue is the command's effect on the state with the rest of the queue. -/
def Obligations.stepRunsFrontCommand : Prop :=
  ∀ (c : Instr) (rest : List Instr) (s : State), step { s with pending := c :: rest } = exec c { s with pending := rest }

/-- A step with an empty queue is one clock tick (DESIGN CHOICE, log entry 13): the module's clock moves while the auxiliary domain
runs, the fabric time while the main domain is powered too (R13, R315, R478); without the auxiliary domain nothing changes. -/
def Claims.idleStepTicks : Prop :=
  ∀ (s : State), s.pending = [] →
    (∃ t, step s = .next t ∧ t.pending = [] ∧
      t.now = s.now + bnat s.mgmt.aux ∧ t.fab.ftime = s.fab.ftime + bnat (s.mgmt.aux && s.mgmt.main)) ∧
    (s.mgmt.aux = false → step s = .next s)

/-- R237, R395, R418, R450, R452, R476, R479, R489, R495, R497: the machine right after reset. Its module is in POWERING, the main domain
is off; every context is EMPTY; the epoch is 0; the lifecycle and the Tally store stand at their first values. The flash copies,
the pins and the input are the model's choice (log entries 6 and 7). -/
def Claims.resetState : Prop :=
  let s := State.reset
  s.pending = [] ∧ s.now = 0 ∧ s.mgmt.st = .powering ∧ s.mgmt.prev = .off ∧ s.mgmt.safeCause = 0 ∧ s.mgmt.main = false ∧
    s.mgmt.record = none ∧ s.enabled = [] ∧ s.allCores = [] ∧ s.mem = [] ∧ s.ports = [] ∧ s.fab.epoch = 0 ∧ s.fab.quar = false ∧
    (∀ i, (s.ctx i).st = .empty ∧ (s.ctx i).sec.session = none) ∧ s.sec.mr = [] ∧ s.sec.life = 0 ∧ s.sec.selftest = false ∧
    s.sec.rekeyOpen = false ∧ s.host.link = .off ∧ s.host.hdrCred = 64 ∧ s.host.payCred = 65536 ∧ s.host.maskR = 7 ∧
    s.host.maskM = 7 ∧ s.crumb.slots = [] ∧ s.mon.mons = [] ∧ s.mgmt.active = 0 ∧ s.mgmt.trip = 0

/-- R450, R452: after reset the Tally store keeps to its limits, and its lifecycle count is the lifecycle. -/
def Claims.tallyAtReset : Prop := TallyOk State.reset

/-- R450, R452, R453, R457: the store of limited changes keeps to its limits in every step: no counter passes its limit or moves back,
no leaf becomes unused again, the lock and the tamper bit stay, and the lifecycle is always the count of its transitions. -/
def Obligations.tallyKeptByEveryStep : Prop :=
  ∀ (s t : State), TallyOk s → step s = .next t → TallyOk t ∧ Tally.le s.sec.tally t.sec.tally

/-- Every command has an effect: it answers a next state, leaves the queue of commands alone, and no command but the passing of a
tick moves the clock. -/
def Claims.commandsKeepQueueAndClock : Prop :=
  ∀ (c : Instr) (s : State), ∃ t, exec c s = .next t ∧ t.pending = s.pending ∧ t.now = s.now

/-- R452: no command but ATTEST, SESSION_OPEN, LIFECYCLE, SEALED_LOCK, the tamper response and the end of an operation changes a
counter of the Tally store, or the lifecycle; and no command ends a tamper response. -/
def Claims.onlyCommitsChangeTally : Prop :=
  ∀ (c : Instr) (s t : State), exec c s = .next t →
    (c ∉ [Instr.attestReport, .sessionOpen, .lifecycleProvision, .lifecycleDeploy, .lifecycleRetire, .sealedLock] →
      (∀ id e, c ≠ .operationComplete id e) → (∀ n, c ≠ .tamperResponse n) →
      t.sec.life = s.sec.life ∧ t.sec.tally.lifecycle = s.sec.tally.lifecycle ∧ t.sec.tally.lock = s.sec.tally.lock ∧
      t.sec.tally.grade = s.sec.tally.grade ∧ t.sec.tally.config = s.sec.tally.config ∧ t.sec.tally.next = s.sec.tally.next ∧
      t.sec.tally.tamper = s.sec.tally.tamper)

/-! ### Events that complete -/

/-- R68, R70, R298, R299, R304, R330–R332, R335, R359, R362, R487: BUNDLE_ISSUE_AFTER_WAIT, LOADB, BINJ, BRAID_TILE_ARRIVAL,
BRAID_FORWARD, HOLD_FREEZE, HOLD_THAW, HOLD_LIMIT, BRAID_CREDIT_CAUSE_CLEAR, THERMAL_CAUSE_CLEAR, POWER_OVERDRAW and
OVERDRAW_CAUSE_CLEAR complete: in every state that meets the conditions of the manual, each answers a next state with its effect. -/
def Obligations.coreAndHoldEventsComplete : Prop :=
  ∀ (k c : Nat) (budget : Option Nat) (a : Acc) (s : State),
    let x := s.core k
    let tick := s.coreTick k
    let next := s.braidNext k
    (∀ b cmd st, x.seq.wait = .bundle [b] → b.cmd = some cmd → seqAwake k s → cmdStation cmd = (stCode st).toNat →
      cmdError s k cmd = none → ¬(st = .knead ∧ cmdOpcode cmd = 2) → ((s.stq k st).outstanding tick).length < 4 →
      ∃ t, exec (.bundleIssueAfterWait k) s = .next t ∧ acceptsOne k st cmd b.pcw s t ∧ (t.core k).seq.wait = .none ∧
        (t.core k).seq.pc = BitVec.ofNat 18 (4 * (b.pcw + 1))) ∧
    (∀ tile rest, comesUp k .matrix a 0x03 [] [] s → x.mx.loadLast ≤ tick → (∀ i, (x.mx.array i).flipIn ≤ tick) →
      x.braid.buf = tile :: rest → tile.arrived ≤ tick → mxGauss a.cmd = false →
      ∃ t, exec (.loadb k) s = .next t ∧ (t.core k).braid.buf = rest ∧ begun k .matrix (tick + fmtTile (mxFmt a.cmd) / 256) s t) ∧
    (comesUp k .knead a 3 [cmdIn a.cmd] [] s → braidFree x.braid tick ≠ 0 →
      ∃ t, exec (.binj k) s = .next t ∧ (t.core k).braid.buf = x.braid.buf ++ [⟨x.inSlot (cmdIn a.cmd), tick + 2⟩]) ∧
    (∀ due tile late rest, x.braid.inbound = (due, tile, late) :: rest → due ≤ tick → s.coreFrozen k = false →
      (∀ y ∈ x.braid.buf, y.arrived ≤ due) →
      ∃ t, exec (.braidTileArrival k) s = .next t ∧ (t.core k).braid.inbound = rest ∧
        (t.core k).braid.buf = x.braid.buf ++ [⟨tile, due⟩]) ∧
    (∀ tile layer op rest, x.braid.forward = (tile, layer, op) :: rest → next ≠ k → stationsOn k s = true →
      braidFree (s.core next).braid tick ≠ 0 →
      ∃ t, exec (.braidForward k) s = .next t ∧ (t.core k).braid.forward = rest ∧
        ∃ e ∈ (t.core next).braid.inbound, e.1 = tick + 3 ∧ e.2.1 = tile) ∧
    (∀ e, arriving s c = some e → s.frozen c = false → c < 96 →
      ∃ t, exec (.holdFreeze c) s = .next t ∧ t.frozen c = true ∧ (t.island c).since = some (e.u0 + 16)) ∧
    (∀ e since, (s.island c).since = some since → episodeOf s c = some e → (∀ r ∈ e.raisers, r.clear ≠ none) →
      since + e.dur + 32 ≤ s.now → (s.cluster c).resv = [] →
      ∃ t, exec (.holdThaw c) s = .next t ∧ t.frozen c = false ∧ (t.island c).frozen = (s.island c).frozen + (e.dur + 32)) ∧
    (∀ e, s.hold.eps = [e] → e.timed = true → e.limited = false → s.curCtx.launch.holdLimit = 1 → e.debugTicks = 0 →
      65536 ≤ s.now - e.u0 → (mfind e.froze (s.clusterOf k)).isSome = true → k ∈ s.allCores → x.seq.st ≠ .idle →
      x.fault.valid = false →
      ∃ t, exec .holdLimit s = .next t ∧ (t.core k).seq.st = .faulted ∧ (t.core k).fault.code = 0x11) ∧
    (∀ e r, s.hold.eps = [e] → e.raisers = [r] → r.who = .island c → r.cause = 5 → r.clear = none → r.s + 1 ≤ s.now →
      ∃ t, exec (.braidCreditCauseClear c) s = .next t ∧
        t.hold.eps = [{ e with raisers := [{ r with clear := some r.s }] }]) ∧
    (∀ e r, s.hold.eps = [e] → e.raisers = [r] → r.who = .mgmt → r.cause = 7 → r.clear = none → r.s + 49151 ≤ s.now →
      ∃ t, exec .thermalCauseClear s = .next t ∧ t.hold.eps = [{ e with raisers := [{ r with clear := some (r.s + 49151) }] }]) ∧
    (s.cur.isSome = true → budget ∉ s.meter.drawn → 256 * budgetOf s budget < windowSum s budget →
      ∃ t, exec (.powerOverdraw budget) s = .next t ∧ t.meter.drawn = s.meter.drawn ++ [budget]) ∧
    (budget ∈ s.meter.drawn → windowSum s budget ≤ 128 * budgetOf s budget →
      ∃ t, exec (.overdrawCauseClear budget) s = .next t ∧ t.meter.drawn = s.meter.drawn.filter (· != budget))

/-- R306–R308, R310, R314, R316–R319, R321, R322, R425, R426: LATTICE_ROW, LATTICE_SIG, LATTICE_PROOF_ARRIVE, LATTICE_PROOF_RELEASE,
FABRIC_PROOF_RELEASE_TIME, LATTICE_ACK, LATTICE_NAK, LATTICE_STALE, LATTICE_IDLE, LATTICE_CODEWORD_UNCORRECTABLE,
LATTICE_REPLAY_FRAME, PORT_TRAINING_COMPLETE, PORT_LANE_LOSS, HOST_LINK_ACK, HOST_LINK_NAK, HOST_FILL_FRAME,
HOST_CODEWORD_UNCORRECTABLE, HOST_REPLAY_FRAME and HOST_LINK_RETRAIN complete: in every state that meets the conditions of the
manual, each answers a next state with its effect. The end of a retry and the link after a training rest on log entries 43, 57 and
69 (DESIGN CHOICE). -/
def Obligations.linkEventsComplete : Prop :=
  ∀ (p n : Nat) (h : LatHdr) (row : Bytes) (fseq : BitVec 12) (credits : BitVec 8) (epoch : BitVec 32) (s : State),
    let q := s.port p
    let u := s.host
    let up := q.st = .up ∨ q.st = .replay
    let linked := u.link = .up ∨ u.link = .replay
    let hears := up ∧ q.waitFor = none
    let fresh := portHears s p = true ∧ h.epoch = s.fab.epoch
    (fresh → h.dst.toNat ≠ s.moduleIndex → h.dcluster ≠ 0x7F → s.landUsed p < 128 →
      s.portTo h.dst.toNat h.row.toNat = some n →
      ∃ t, exec (.latticeRow p h row) s = .next t ∧ (t.port p).transit = q.transit ++ [⟨n, .row h row, s.now + 4⟩]) ∧
    (fresh → h.dst.toNat ≠ s.moduleIndex → s.portTo h.dst.toNat 0 = some n → q.transit = [] →
      ∃ t, exec (.latticeSig p h) s = .next t ∧ (t.port p).transit = [⟨n, .sig h, s.now + 4⟩]) ∧
    (fresh → h.dst.toNat = s.moduleIndex → (proofOf s h).src / 8 = s.moduleIndex / 8 → s.cur.isSome = true →
      s.proof.trayIn.length + 1 < (s.trayModules s.moduleIndex).length →
      ∃ t, exec (.latticeProofArrive p h) s = .next t ∧ t.proof.trayIn = s.proof.trayIn ++ [proofOf s h]) ∧
    (fresh → h.dst.toNat = s.moduleIndex → s.moduleIndex ≠ s.trayRoot s.moduleIndex → h.mismatch = false →
      ∃ t r, exec (.latticeProofRelease p h) s = .next t ∧ t.proof.fab = some r ∧ r.scope = h.scope ∧ r.tag = h.ptag ∧
        r.orW = h.orWord ∧ r.andW = h.andWord) ∧
    (∀ i r, s.proof.fab = some r → r.time ≤ s.fab.ftime → r.late = false → r.mismatch = false → r.scope = 2 → s.cur = some i →
      (s.ctx i).st = .running → s.proof.entry = none → (s.ctx i).arm = none → (s.ctx i).switchAt = none →
      s.obs.pendTrace = [] → s.obs.mode ≠ 1 →
      ∃ t, exec .fabricProofReleaseTime s = .next t ∧ t.proof.fab = none ∧ (t.ctx i).w = (s.ctx i).w + 1) ∧
    (hears → ∃ t, exec (.latticeAck p fseq credits) s = .next t ∧ (t.port p).credits = min 128 (q.credits + credits.toNat)) ∧
    (hears → ∃ t, exec (.latticeNak p fseq) s = .next t ∧ (t.port p).retry = min 0xFFFFFFFF (q.retry + 1)) ∧
    (hears → s.fab.quar = false → ∃ t, exec (.latticeStale p epoch) s = .next t ∧ t.fab.quar = true) ∧
    (hears → ∃ t, exec (.latticeIdle p) s = .next t ∧ t.cores = s.cores ∧ t.mem = s.mem ∧
      (t.port p).st = (if q.again = [] ∧ q.replays = 0 then .up else q.st)) ∧
    (up → ∃ t, exec (.latticeCodewordUncorrectable p) s = .next t ∧ (t.port p).fecUnc = min 0xFFFFFFFF (q.fecUnc + 1)) ∧
    (up → q.waitFor = some fseq → ∃ t, exec (.latticeReplayFrame p fseq) s = .next t ∧ (t.port p).waitFor = none) ∧
    (∀ tr : Training, q.st = .training → tr.lanes = 0xFF → tr.locked = true → tr.peerModule.toNat = (partner s p).1 →
      tr.peerPort.toNat = (partner s p).2 →
      ∃ t, exec (.portTrainingComplete p tr) s = .next t ∧ (t.port p).st = .up ∧ (t.port p).lanes = 0xFF) ∧
    (∀ lanes, up → lanes ≠ 0xFF → ∃ t, exec (.portLaneLoss p lanes) s = .next t ∧ (t.port p).st = .down ∧
      (t.port p).lanes = lanes) ∧
    (∀ hc pc, linked → ∃ t, exec (.hostLinkAck fseq hc pc) s = .next t ∧ t.host.acked = fseq) ∧
    (linked → ∃ t, exec (.hostLinkNak fseq) s = .next t ∧ t.host.retry = min 0xFFFFFFFF (u.retry + 1)) ∧
    (linked → ∃ t, exec .hostFillFrame s = .next t ∧ t.host.fillSeen = true) ∧
    (linked → ∃ t, exec .hostCodewordUncorrectable s = .next t ∧ t.host.fecUnc = min 0xFFFFFFFF (u.fecUnc + 1)) ∧
    (linked → u.waitFor = some fseq → ∃ t, exec (.hostReplayFrame fseq) s = .next t ∧ t.host.waitFor = none) ∧
    (s.mgmt.aux = true → u.link = .training → ∃ t, exec (.hostLinkRetrain true) s = .next t ∧ t.host.link = .up)

/-- R383, R384, R400, R408, R411, R414, R417, R432, R433, R450, R451, R484: SNAPSHOT_RECORD_ARRIVAL, TRACE_ROW_WRITE,
PLANNED_TRACE_TURN, MONITOR_LEVEL_SAMPLE, MONITOR_WINDOW_SAMPLE, ABORT_POINT, ABORT_REPLY, CANCEL_POINT, OPERATION_COMPLETE,
CONTEXT_DONE, CONFIG_APPLY_RESET, LIFECYCLE to PROVISIONED, DEPLOYED and RETIRED, and SELF_CHECK complete: in every state that meets
the conditions of the manual, each answers a next state with its effect. That a LIFECYCLE commits in one tick and steps in the next
is log entry 118. The turn of a planned trace is log entry 113, the phase of the samples log entry 100 (DESIGN CHOICE). -/
def Obligations.moduleEventsComplete : Prop :=
  ∀ (k : Nat) (row data : Bytes) (ctx : BitVec 2) (id : BitVec 32) (e : OpEnd) (o : Op) (p : Pending) (s : State),
    let ob := s.obs
    let c := s.ctx ctx.toNat
    let moved := fun (t : State) => ∃ z, t.pkts = s.pkts ++ [z] ∧ z.kind = .writeRow ∧ z.data = data
    let level := fun (target : Nat) => takenUp 0x0505 p s ∧ opened p s ∧ s.mgmt.st = .ready ∧ allEmpty s = true ∧
      field p.hdr 12 1 = target ∧ target = s.sec.life.toNat + 1 ∧ unusedZero p [(12, 1)] = true ∧
      hLen p.hdr = authLen target ∧ statementOk target s.sec.tally.lifecycle p.body = true ∧
      authVerifies target p.body s = true ∧ s.sec.tally.lifecycle < 3 ∧ s.sec.life.toNat ≤ s.sec.tally.lifecycle
    let steps := fun (target : Nat) (t : State) => t.sec.tally.lifecycle = s.sec.tally.lifecycle + 1 ∧
      t.host.change = some (target, p) ∧ (changeTick t).sec.life.toNat = target ∧
      answered p.iface (hTag p.hdr) 0 s (changeTick t)
    (ob.mode = 1 → s.cur.isSome = true → ob.side.length < 64 →
      ∃ t, exec (.snapshotRecordArrival row) s = .next t ∧ t.obs.side = ob.side ++ [padTo 512 row]) ∧
    ((s.core k).trc.ready = [data] → s.sealedJob = false → ob.trace = 2 → (s.core k).outAt ≤ s.now →
      ∃ t, exec (.traceRowWrite k) s = .next t ∧ moved t) ∧
    ((s.core k).trc.ready = [data] → s.sealedJob = false → ob.trace = 1 → ob.share ≠ 0 → (s.core k).outAt ≤ s.now →
      (s.core k).trc.turnAt ≤ s.coreTick k →
      ∃ t, exec (.plannedTraceTurn k) s = .next t ∧ moved t) ∧
    (∀ readings, s.now % 1048576 = 0 → s.mon.levelAt ≤ s.now →
      ∃ t, exec (.monitorLevelSample readings) s = .next t ∧ t.mon.levelAt = s.now + 1 ∧ t.mon.eccSeen = 0 ∧
        (56, s.mon.eccSeen) ∈ t.mon.fresh) ∧
    (s.now % 256 = 0 → s.mon.windowAt ≤ s.now →
      ∃ t, exec .monitorWindowSample s = .next t ∧ (47, windowSum s none / 256) ∈ t.mon.fresh) ∧
    (∀ d, c.abortAt = some d → d ≤ s.now → c.abortEnd = none → c.st = .running → doneCondition s = false →
      ∃ t, exec (.abortPoint ctx) s = .next t ∧ (t.ctx ctx.toNat).st = .aborted) ∧
    (∀ d, c.abortAt = some d → c.abortEnd = some false → s.xfers = [] → s.pkts = [] →
      ∃ t, exec (.abortReply ctx) s = .next t ∧ (t.ctx ctx.toNat).abortAt = none) ∧
    (∀ d, s.op id = some o → o.cancel = some (d, p) → d ≤ s.now → opKind o ≠ 7 →
      ∃ t, exec (.cancelPoint id) s = .next t ∧ t.op id = none ∧ answered p.iface (hTag p.hdr) 8 s t) ∧
    (s.op id = some o → o.cancel = none → o.opcode = 0x0601 → mainOff s = false →
      ∃ t, exec (.operationComplete id e) s = .next t ∧ t.op id = none ∧ answered o.iface o.tag 0 s t) ∧
    (c.st = .running → doneCondition s = true → c.switchAt = none →
      ∃ t, exec (.contextDone ctx) s = .next t ∧ (t.ctx ctx.toNat).st = .done) ∧
    (∀ r, s.mgmt.applyPend = some (r, false) →
      ∃ t, exec .configApplyReset s = .next t ∧ t.mgmt.copyA = .copy r ∧ t.mgmt.copyB = .copy r) ∧
    (level 1 → ∃ t, exec .lifecycleProvision s = .next t ∧ steps 1 t) ∧
    (level 2 → ∃ t, exec .lifecycleDeploy s = .next t ∧ steps 2 t) ∧
    (level 3 → ∃ t, exec .lifecycleRetire s = .next t ∧ steps 3 t) ∧
    (∀ y : CheckOutcome, s.mgmt.st = .selfCheck → s.mgmt.main = true → s.mgmt.resume4 = false → s.sec.life ≠ 3 →
      s.sec.rekeyOpen = false → y.katFail = none → y.badCopies = [] → (chosen s).isSome = true →
      (∀ x ∈ [Config.image 1, s.firmware, s.microcode], leastVersion s ≤ Config.imageVersion x) → y.marginFail = none →
      y.stacksOk = true → ∃ t, exec (.selfCheck y) s = .next t ∧ t.mgmt.st = .ready)

/-! ### Sequencer words -/

/-- R62–R65, R276: the words of every sequencer instruction, written from the formats of the manual, decode to that instruction, with its
guard and every operand at every value that its field holds; the second word counts for PROOF alone. -/
def Obligations.sequencerWordsDecode : Prop :=
  (∀ (i : Instr) (k : Nat) (w w1 : BitVec 32), seqEncode i = some (k, w, w1) → seqDecode k w w1 = some i) ∧
    (∀ (k : Nat) (w w1 w2 : BitVec 32), w.extractLsb' 22 6 ≠ 0x30#6 → seqDecode k w w1 = seqDecode k w w2)


/-! ### The obligations that join several claims -/

/-- Register and immediate arithmetic of the sequencer: result, latency, frame. Rules R65, R66, as each part says. -/
def Obligations.sequencerArithmetic : Prop :=
  Claims.aluRegisterResults ∧ Claims.aluImmediateResults

/-- Loads and stores: the value, the bytes written, and what faults. Rules R65, R66, R72, R73, R79, R80, as each part says. -/
def Obligations.localStoreAccess : Prop :=
  Claims.loadResults ∧ Claims.storeResult ∧ Claims.localStoreFaults

/-- Predicates, branches, CALL and RET; what stops a sequencer, and what a false guard leaves unchanged. Rules R60, R62, R64,
R65, R66, R77, R79, R80, R413, as each part says. -/
def Obligations.predicatesFlowAndStops : Prop :=
  Claims.predicateResults ∧ Claims.flowResults ∧ Claims.sequencerStops ∧ Claims.guardFalseChangesNothing

/-- ISSUE and ISSUER accept a command, or fault on one that no station defines. Rules R49, R50, R67, R69, R70, R80, R82, as
each part says. -/
def Obligations.commandsAccepted : Prop :=
  Claims.issueAcceptsCommand ∧ Claims.badCommandFaults

/-- A bundle collects its commands and is accepted whole. Rules R68, R70, as each part says. -/
def Obligations.bundlesCollectAndIssue : Prop :=
  Claims.bundleCollects ∧ Claims.bundleEnds

/-- WAIT_TICK, DRAIN, FLAGCLR, LINKCFG, HALT and the writes of CORE.CTRL. Rules R8, R51, R65, R71, R74, R78, R83, R84, R90,
R98, R468, R510, as each part says. -/
def Obligations.stationControlAndHalts : Prop :=
  Claims.waitTickResult ∧ Claims.drainAndFlagclr ∧ Claims.linkConfiguration ∧ Claims.haltResult ∧ Claims.coreControl

/-- SIG and WAIT leave a core, and a signal is applied at its cell. Rules R233, R260, R261, R263, R264, R268, R269, as each
part says. -/
def Obligations.signalsAreApplied : Prop :=
  Claims.signalAndWaitLeave ∧ Claims.signalApplied

/-- A WAIT reaches its cell, and a released waiter goes on; a late CTL packet holds. Rules R260, R261, R269, R327, as each
part says. -/
def Obligations.waitersAreReleased : Prop :=
  Claims.waitArrivesAndResumes ∧ Claims.lateControlHolds

/-- SEND, the message at its ring, RECV and RELEASE. Rules R278, R279, R281, R282, R283, as each part says. -/
def Obligations.messagesMove : Prop :=
  Claims.sendLeaves ∧ Claims.messageUnitsMove ∧ Claims.messageWrittenAndAcknowledged ∧ Claims.receiveAndRelease

/-- A core reaches a Proof, waits, or faults. Rules R37, R41, R43, R62, R76, R80, R294, R300, as each part says. -/
def Obligations.proofsAreReached : Prop :=
  Claims.proofArrivalJoins ∧ Claims.proofWaitsOrFaults

/-- CLUSTER and MODULE Proofs release their cores with the reduced words. Rules R39, R40, R42, R75, R123, R272, R284, R531, as
each part says. -/
def Obligations.proofsRelease : Prop :=
  Claims.clusterProofReleases ∧ Claims.moduleProofReleases

/-- TRAY, FABRIC and entry Proofs take effect. Rules R40, R57, R316, R317, R331, R334, R438, R511, R531, as each part says. -/
def Obligations.fabricAndEntryProofs : Prop :=
  Claims.fabricProofReleases ∧ Claims.lateReleaseIsAHold ∧ Claims.entryProofArrives

/-- SETMODE, SETIDX, LOAD, LOADPAIR and LOAD32. Rules R101, R102, R104, R105, R107, R114, R115, R117, R120, R127, as each part
says. -/
def Obligations.matrixStationary : Prop :=
  Claims.matrixModeAndIndex ∧ Claims.matrixLoads

/-- STREAM, STREAMI, STREAM32 and STREAMC add to their banks. Rules R101, R103, R105, R110, R111, R113, R115, R118, R121,
R129, as each part says. -/
def Obligations.matrixAccumulates : Prop :=
  Claims.matrixStream ∧ Claims.matrixPasses

/-- The row statistics: commands that update them, read them, and SMAX_FWD. Rules R161, R163, R164, as each part says. -/
def Obligations.vectorStatistics : Prop :=
  Claims.vectorStatistics ∧ Claims.vectorReadsStatistics ∧ Claims.vectorSoftmaxForward

/-- CONVERT, DROPOUT, RAND_U, RAND_N and the start of a draw phase. Rules R120, R139, R144, R160, R166, R169, R170, as each
part says. -/
def Obligations.vectorDraws : Prop :=
  Claims.vectorDraws ∧ Claims.drawPhaseBegins

/-- COMPACT, TAPOUT, TAPCLR, SETIDX, LVBASE, PACKZ and UNPACKZ. Rules R120, R147, R153, R155, R161, R166, R172, R173, R174,
R175, as each part says. -/
def Obligations.vectorPacking : Prop :=
  Claims.vectorOtherCommands ∧ Claims.vectorZeroPacking

/-- SETB, SXLOAD, SETIDX, SPMM and DRAIN of SPARSE. Rules R184, R185, R187, R190, R192, R195, R199, R202, as each part says.
-/
def Obligations.sparseCommands : Prop :=
  Claims.sparseSetup ∧ Claims.sparseProducts

/-- Waiting commands go on; tiles fill slots, slots are freed, transfers retire. Rules R52, R53, R54, R70, R78, R107, R129,
R147, R150, R163, R169, R173, R175, R189, as each part says. -/
def Obligations.stationsMove : Prop :=
  Claims.waitingCommandsGoOn ∧ Claims.slotEvents

/-- What the rings give and take, and what a refused access does. Rules R79, R204, R212, R213, R252, as each part says. -/
def Obligations.ringsKeepTheirRules : Prop :=
  Claims.ringRules ∧ Claims.ringAccessFaults

/-- RD, WR, ACC, FILL, WBACK and RDROP. Rules R206, R208, R214, R216, R219, R223, R226, R233, R240, R244, as each part says.
-/
def Obligations.ringCommands : Prop :=
  Claims.ringCommandsReserve ∧ Claims.ringTransfersStart

/-- Rows of transfers arrive, and transfers complete. Rules R207, R215, R221, R234, R240, R244, as each part says. -/
def Obligations.transfersArrive : Prop :=
  Claims.dmaRowsArrive ∧ Claims.transfersComplete

/-- Bank cycles of the DMA path write and read one row. Rules R205, R207, R209, R214, R215, R233, R236, R292, R296, R440, as
each part says. -/
def Obligations.bankCycles : Prop :=
  Claims.bankCyclesStart ∧ Claims.bankCyclesWrite ∧ Claims.bankCyclesRead

/-- KSEND, KRECV and the rows they move. Rules R68, R70, R214, R291, R292, R295, R296, R297, R303, R304, as each part says. -/
def Obligations.kneadMoves : Prop :=
  Claims.kneadCommands ∧ Claims.kneadReceiveAccepted ∧ Claims.kneadRowsMove

/-- Packets move hop by hop; the watchdog raises MESH_STALL. Rules R232, R236, R239, R246, R281, R284, R285, R326, as each
part says. -/
def Obligations.meshMoves : Prop :=
  Claims.meshPacketsMove ∧ Claims.watchdogRaisesMeshStall

/-- Stacks serve requests, refresh, and scrub. Rules R242, R245, R246, R247, R249, R250, R259, R440, R531, as each part says.
-/
def Obligations.stacksServe : Prop :=
  Claims.stackRequestsServed ∧ Claims.stacksMaintained

/-- Holds freeze and thaw; the Hold limit; token budgets and the thermal cause. Rules R330, R332, R334, R335, R359, R362,
R487, as each part says. -/
def Obligations.holdsRunAndEnd : Prop :=
  Claims.holdsFreezeAndThaw ∧ Claims.holdLimitFaults ∧ Claims.budgetHolds

/-- Rows, signals and Proof packets that a Lattice port receives. Rules R292, R295, R307, R310, R316, R318, R319, as each part
says. -/
def Obligations.latticePackets : Prop :=
  Claims.latticePacketsArrive ∧ Claims.latticeProofPackets

/-- The link level of a Lattice port, and its training. Rules R306, R308, R309, R311, R312, R314, R319, R321, R322, as each
part says. -/
def Obligations.latticeLink : Prop :=
  Claims.latticeLinkLevel ∧ Claims.portsTrain

/-- Snapshot records, trace rows and monitors. Rules R240, R357, R408, R411, R413, R415, R417, R418, R422, R423, R470, R509,
as each part says. -/
def Obligations.observation : Prop :=
  Claims.recordsReachMemory ∧ Claims.monitorsSample

/-- The host link, and command packets that arrive. Rules R424, R426, R428, R430, R431, R434, R466, as each part says. -/
def Obligations.hostPackets : Prop :=
  Claims.hostLinkLevel ∧ Claims.commandPacketsArrive

/-- Replies, and the answers of the management port. Rules R427, R428, R442, R444, R466, as each part says. -/
def Obligations.answersLeave : Prop :=
  Claims.repliesLeave ∧ Claims.endpointsAnswered

/-- IDENTIFY, ECHO, REG_READ, REG_WRITE, EVENTS, CTX_STATUS, OP_STATUS, EPOCH_SET, PORT_DISABLE. Rules R18, R319, R322, R393,
R434, R441, R442, R534, R535, as each part says. -/
def Obligations.queriesAnswer : Prop :=
  Claims.queriesAnswer ∧ Claims.registersReached

/-- BULK_WRITE, BULK_READ, BULK_FILL and TRACE_CTL. Rules R207, R233, R236, R433, R440, R467, R530, as each part says. -/
def Obligations.bulkCommandsAct : Prop :=
  Claims.bulkCommandsAct ∧ Claims.bulkRowsMove

/-- CTX_LOAD and CTX_RESTORE, and how they complete. Rules R86, R87, R88, R264, R346, R391, R435, R436, R454, R471, as each
part says. -/
def Obligations.contextsLoad : Prop :=
  Claims.loadsAccepted ∧ Claims.loadsComplete ∧ Claims.restoresComplete

/-- JOB_LAUNCH and CTX_SWITCH. Rules R165, R405, R411, R437, R438, R439, R468, as each part says. -/
def Obligations.jobsStart : Prop :=
  Claims.launchStarts ∧ Claims.switchStartsOrWaits

/-- JOB_ABORT, its abort point and its reply. Rules R384, R385, as each part says. -/
def Obligations.abortsAreDecided : Prop :=
  Claims.abortsTakenUp ∧ Claims.abortsDecided

/-- A context is done or freed; STARTER_ARM, STARTER_SUMMARY and STARTER_RELEASE. Rules R383, R387, R388, R415, R439, R465,
R468, R471, as each part says. -/
def Obligations.contextsEnd : Prop :=
  Claims.contextEnds ∧ Claims.contextFreed ∧ Claims.capturesStand

/-- Maintenance operations and FABRIC_BRINGUP begin. Rules R265, R311, R312, R396, R397, R432, R434, R455, R473, R523, R535,
as each part says. -/
def Obligations.maintenanceBegins : Prop :=
  Claims.maintenanceBegins ∧ Claims.fabricBringupBegins

/-- Operations complete, or are cancelled. Rules R396, R432, R433, R434, R455, as each part says. -/
def Obligations.operationsEnd : Prop :=
  Claims.maintenanceEnds ∧ Claims.cancelsDecided

/-- CONFIG_WRITE commits; the rekey sweep and the tamper response. Rules R382, R399, R449, R452, R453, R473, R484, R498, R529,
as each part says. -/
def Obligations.configAndKeysChange : Prop :=
  Claims.configCommits ∧ Claims.rekeySweeps ∧ Claims.tamperZeroises

/-- ATTEST: the report, its leaf and its layout; the certificate. Rules R452, R453, R456, R458, as each part says. -/
def Obligations.attestationAnswers : Prop :=
  Claims.attestationAnswers ∧ Claims.reportLayout

/-- SESSION_OPEN, SESSION_CLOSE, RELEASE_LIST, LIFECYCLE and SEALED_LOCK. Rules R450, R451, R453, R454, R461, R462, R465,
R466, R472, as each part says. -/
def Obligations.sessionsListsAndLifecycle : Prop :=
  Claims.sessionsOpenAndClose ∧ Claims.releaseListChecked ∧ Claims.lifecycleAdvances ∧ Claims.sealedLockCommits

/-- RESET, RESET_N and the input power. Rules R395, R399, R418, R454, R465, R477, R478, R480, R488, R489, R492, R498, as each
part says. -/
def Obligations.resetsAndPower : Prop :=
  Claims.resetsPreserve ∧ Claims.inputPowerMoves

/-- The coolant gate, the plausibility check and SELF_CHECK. Rules R400, R401, R448, R453, R455, R458, R480, R481, R482, R484,
R488, R493, R529, as each part says. -/
def Obligations.startUp : Prop :=
  Claims.coolantGates ∧ Claims.selfCheckOutcomes

/-- The thermal guard, SAFE, trims, flash commits and the slots of the Crumb Log. Rules R325, R381, R382, R486, R488, R497,
R498, R499, R501, as each part says. -/
def Obligations.guardsAndSafe : Prop :=
  Claims.thermalGuard ∧ Claims.safeIsEntered ∧ Claims.crumbLogWrites

/-- The machine right after reset, whose Tally store keeps to its limits. Rules R237, R395, R418, R450, R452, R476, R479,
R489, R495, R497, as each part says. -/
def Obligations.resetState : Prop :=
  Claims.resetState ∧ Claims.tallyAtReset

/-- Every command answers, keeps queue and clock, and only commits change the Tally store; an idle step is one tick. Rules
R452, as each part says. -/
def Obligations.commandsKeepQueueClockAndTally : Prop :=
  Claims.commandsKeepQueueAndClock ∧ Claims.onlyCommitsChangeTally ∧ Claims.idleStepTicks
end

