-- ==== Sys2Proof/Laws/Maps.lean ====
section
/-! SUPPORT. Laws of tables and of memory: a read after a write, a write beside a read, and the canonical form. -/

namespace Sys2Proof.Machine

/-! ### Tables -/

/-- An entry reads as it was written. -/
@[simp] theorem mfind_mset_self {α : Type} (m : SMap α) (k : Nat) (v : α) : mfind (mset m k v) k = some v := by
  induction m with
  | nil => simp [mset, mfind]
  | cons e m ih =>
    obtain ⟨j, w⟩ := e
    simp only [mset]
    split
    · simp [mfind]
    · split
      · simp [mfind]
      · simp [mfind, *]

/-- A write leaves every other entry as it was. -/
theorem mfind_mset_ne {α : Type} (m : SMap α) {j k : Nat} (v : α) (h : j ≠ k) : mfind (mset m k v) j = mfind m j := by
  induction m with
  | nil => simp [mset, mfind, h]
  | cons e m ih =>
    obtain ⟨i, w⟩ := e
    simp only [mset]
    split
    · simp [mfind, h]
    · split
      · rename_i hk
        subst hk
        simp [mfind, h]
      · simp [mfind, ih]

@[simp] theorem mget_mset_self {α : Type} (m : SMap α) (k : Nat) (v d : α) : mget (mset m k v) k d = v := by
  simp [mget]

theorem mget_mset_ne {α : Type} (m : SMap α) {j k : Nat} (v d : α) (h : j ≠ k) :
    mget (mset m k v) j d = mget m j d := by
  simp [mget, mfind_mset_ne m v h]

/-- What a table reads after a write, at any number. -/
theorem mget_mset {α : Type} (m : SMap α) (j k : Nat) (v d : α) :
    mget (mset m k v) j d = if j = k then v else mget m j d := by
  split
  · next h => subst h; simp
  · next h => exact mget_mset_ne m v d h

@[simp] theorem mget_mmod_self {α : Type} (m : SMap α) (k : Nat) (d : α) (f : α → α) :
    mget (mmod m k d f) k d = f (mget m k d) := by
  simp [mmod]

theorem mget_mmod_ne {α : Type} (m : SMap α) {j k : Nat} (d : α) (f : α → α) (h : j ≠ k) :
    mget (mmod m k d f) j d = mget m j d := by
  simp [mmod, mget_mset_ne m _ d h]

/-- The later of two writes of one entry stands. -/
@[simp] theorem mset_mset {α : Type} (m : SMap α) (k : Nat) (v w : α) : mset (mset m k v) k w = mset m k w := by
  induction m with
  | nil => simp [mset]
  | cons e m ih =>
    obtain ⟨j, u⟩ := e
    simp only [mset]
    by_cases h1 : k < j
    · simp [h1, mset]
    · by_cases h2 : k = j
      · simp [h2, mset]
      · simp [h1, h2, mset, ih]

/-! ### Fields -/

@[simp] theorem length_leBytes (n v : Nat) : (leBytes n v).length = n := by
  induction n generalizing v with
  | zero => rfl
  | succ n ih => simp [leBytes, ih]

/-- A number that fits comes back from its bytes (R14). -/
theorem leNat_leBytes (n v : Nat) : leNat (leBytes n v) = v % 256 ^ n := by
  induction n generalizing v with
  | zero => simp [leBytes, leNat, Nat.mod_one]
  | succ n ih =>
    have e : (BitVec.ofNat 8 v).toNat = v % 256 := by simp
    simp only [leBytes, leNat, ih, e]
    rw [Nat.pow_succ, Nat.mul_comm (256 ^ n) 256, Nat.mod_mul]

@[simp] theorem length_padTo (n : Nat) (bs : Bytes) : (padTo n bs).length = n := by
  simp [padTo]
  omega

/-! ### Memory -/

/-- An address that no entry of a list has reads as unlisted. -/
theorem memRead_absent (m : List Host.Cell) (a : Nat) (h : ∀ c ∈ m, c.1 ≠ a) : memRead m a = memDefault := by
  induction m with
  | nil => rfl
  | cons c m ih =>
    obtain ⟨j, b⟩ := c
    have hj : a ≠ j := fun e => h (j, b) (by simp) e.symm
    simp [memRead, hj, ih fun c hc => h c (by simp [hc])]

/-- A part of a memory that does not hold the address does not count in front. -/
theorem memRead_append_left (l m : List Host.Cell) (a : Nat) (h : ∀ c ∈ l, c.1 ≠ a) :
    memRead (l ++ m) a = memRead m a := by
  induction l with
  | nil => rfl
  | cons c l ih =>
    obtain ⟨j, b⟩ := c
    have hj : a ≠ j := fun e => h (j, b) (by simp) e.symm
    simp [memRead, hj, ih fun c hc => h c (by simp [hc])]

/-- A part of a memory that does not hold the address does not count behind. -/
theorem memRead_append_right (l m : List Host.Cell) (a : Nat) (h : ∀ c ∈ m, c.1 ≠ a) :
    memRead (l ++ m) a = memRead l a := by
  induction l with
  | nil => simp [memRead_absent m a h, memRead]
  | cons c l ih =>
    obtain ⟨j, b⟩ := c
    simp only [List.cons_append, memRead, ih]

/-- Filtering by the address keeps what an address that passes reads. -/
theorem memRead_filter (m : List Host.Cell) (a : Nat) (p : Nat → Bool) (h : p a = true) :
    memRead (m.filter fun c => p c.1) a = memRead m a := by
  induction m with
  | nil => rfl
  | cons c m ih =>
    obtain ⟨j, b⟩ := c
    by_cases hj : a = j
    · subst hj; simp [memRead, h]
    · by_cases hp : p j <;> simp [memRead, hj, hp, ih]

/-- The cells of a string lie at its addresses. -/
theorem mem_cellsFrom {a : Nat} {bs : Bytes} {c : Host.Cell} (h : c ∈ cellsFrom a bs) :
    a ≤ c.1 ∧ c.1 < a + bs.length ∧ c.2 ≠ memDefault := by
  induction bs generalizing a with
  | nil => simp [cellsFrom] at h
  | cons b bs ih =>
    simp only [cellsFrom] at h
    split at h
    · have := ih h; simp only [List.length_cons]; exact ⟨by omega, by omega, this.2.2⟩
    · next hb =>
      rcases List.mem_cons.mp h with rfl | h
      · exact ⟨Nat.le_refl _, by simp, hb⟩
      · have := ih h; simp only [List.length_cons]; exact ⟨by omega, by omega, this.2.2⟩

/-- A written address reads the byte written. -/
theorem memRead_cellsFrom (a : Nat) (bs : Bytes) (i : Nat) (h : i < bs.length) :
    memRead (cellsFrom a bs) (a + i) = bs[i] := by
  induction bs generalizing a i with
  | nil => simp at h
  | cons b bs ih =>
    have absent : ∀ c ∈ cellsFrom (a + 1) bs, c.1 ≠ a := fun c hc => by have := mem_cellsFrom hc; omega
    cases i with
    | zero =>
      simp only [cellsFrom, Nat.add_zero, List.getElem_cons_zero]
      split
      · next hb => rw [memRead_absent _ _ absent, hb]
      · simp [memRead]
    | succ i =>
      have e : a + (i + 1) = a + 1 + i := by omega
      have hi : i < bs.length := by simpa using h
      simp only [cellsFrom, List.getElem_cons_succ, e]
      split
      · exact ih _ _ hi
      · have : a + 1 + i ≠ a := by omega
        simp [memRead, this, ih _ _ hi]

/-- A byte inside a written string reads as written. -/
theorem memRead_memWrite_in (m : List Host.Cell) (a : Nat) (bs : Bytes) (i : Nat) (h : i < bs.length) :
    memRead (memWrite m a bs) (a + i) = bs[i] := by
  unfold memWrite
  rw [memRead_append_right, memRead_append_left, memRead_cellsFrom _ _ _ h]
  · intro c hc; have := (List.mem_filter.mp hc).2; simp at this; omega
  · intro c hc; have := (List.mem_filter.mp hc).2; simp at this; omega

/-- A written string reads back as it was written. -/
theorem memBytes_memWrite (m : List Host.Cell) (a : Nat) (bs : Bytes) : memBytes (memWrite m a bs) a bs.length = bs := by
  apply List.ext_getElem
  · simp [memBytes]
  · intro i h1 h2
    simp only [memBytes, List.getElem_map, List.getElem_range]
    rw [memRead_filter _ _ (fun x => decide (a ≤ x) && decide (x < a + bs.length)) (by simp; omega)]
    exact memRead_memWrite_in m a bs i h2

/-- A write leaves every byte outside its string as it was. -/
theorem memRead_memWrite_out (m : List Host.Cell) (a : Nat) (bs : Bytes) (x : Nat)
    (h : x < a ∨ a + bs.length ≤ x) : memRead (memWrite m a bs) x = memRead m x := by
  unfold memWrite
  have hc : ∀ c ∈ cellsFrom a bs, c.1 ≠ x := fun c hc => by have := mem_cellsFrom hc; omega
  rcases h with h | h
  · rw [memRead_append_right, memRead_append_right _ _ _ hc, memRead_filter m x (fun y => decide (y < a)) (by simpa)]
    intro c hc; have := (List.mem_filter.mp hc).2; simp at this; omega
  · rw [List.append_assoc, memRead_append_left, memRead_append_left _ _ _ hc,
      memRead_filter m x (fun y => decide (a + bs.length ≤ y)) (by simpa)]
    intro c hc; have := (List.mem_filter.mp hc).2; simp at this; omega

/-- The cells of a string stand in rising order. -/
theorem pairwise_cellsFrom (a : Nat) (bs : Bytes) : (cellsFrom a bs).Pairwise (fun x y => x.1 < y.1) := by
  induction bs generalizing a with
  | nil => exact List.Pairwise.nil
  | cons b bs ih =>
    simp only [cellsFrom]
    split
    · exact ih _
    · exact List.Pairwise.cons (fun c hc => by have := mem_cellsFrom hc; simp only; omega) (ih _)

/-- Every write keeps the canonical form of a memory. -/
theorem Memory.wf_memWrite {m : List Host.Cell} (h : Memory.wf m) (a : Nat) (bs : Bytes) :
    Memory.wf (memWrite m a bs) := by
  refine ⟨?_, ?_⟩
  · unfold memWrite
    rw [List.pairwise_append, List.pairwise_append]
    refine ⟨⟨h.1.filter _, pairwise_cellsFrom a bs, ?_⟩, h.1.filter _, ?_⟩
    · intro x hx y hy
      have h1 := (List.mem_filter.mp hx).2
      have h2 := mem_cellsFrom hy
      simp at h1; omega
    · intro x hx y hy
      have h2 := (List.mem_filter.mp hy).2
      simp at h2
      rcases List.mem_append.mp hx with hx | hx
      · have h1 := (List.mem_filter.mp hx).2
        simp at h1; omega
      · have h1 := mem_cellsFrom hx; omega
  · intro c hc
    unfold memWrite at hc
    rcases List.mem_append.mp hc with hc | hc
    · rcases List.mem_append.mp hc with hc | hc
      · exact h.2 c (List.mem_filter.mp hc).1
      · exact (mem_cellsFrom hc).2.2
    · exact h.2 c (List.mem_filter.mp hc).1

/-- A part of a memory in canonical form is in canonical form. -/
theorem Memory.wf_filter {m : List Host.Cell} (h : Memory.wf m) (p : Host.Cell → Bool) : Memory.wf (m.filter p) :=
  ⟨h.1.filter _, fun c hc => h.2 c (List.mem_filter.mp hc).1⟩

/-- A memory with nothing listed is in canonical form. -/
theorem Memory.wf_nil : Memory.wf [] := ⟨List.Pairwise.nil, fun c hc => absurd hc (by simp)⟩

end Sys2Proof.Machine
end

