-- ==== Sys2Proof/Laws/State.lean ====
section
/-! SUPPORT. One lemma per field per update of the state, and what the accessors of its parts read after a write of a part. -/

namespace Sys2Proof.Machine

/-! `State.setCore` -/

@[simp] theorem State.setCore_pending (s : State) (k : Nat) (c : Core) :
    (s.setCore k c).pending = s.pending := rfl
@[simp] theorem State.setCore_now (s : State) (k : Nat) (c : Core) :
    (s.setCore k c).now = s.now := rfl
@[simp] theorem State.setCore_free (s : State) (k : Nat) (c : Core) :
    (s.setCore k c).free = s.free := rfl
@[simp] theorem State.setCore_cores (s : State) (k : Nat) (c : Core) :
    (s.setCore k c).cores = mset s.cores k c := rfl
@[simp] theorem State.setCore_clusters (s : State) (k : Nat) (c : Core) :
    (s.setCore k c).clusters = s.clusters := rfl
@[simp] theorem State.setCore_mem (s : State) (k : Nat) (c : Core) :
    (s.setCore k c).mem = s.mem := rfl
@[simp] theorem State.setCore_pkts (s : State) (k : Nat) (c : Core) :
    (s.setCore k c).pkts = s.pkts := rfl
@[simp] theorem State.setCore_gates (s : State) (k : Nat) (c : Core) :
    (s.setCore k c).gates = s.gates := rfl
@[simp] theorem State.setCore_xfers (s : State) (k : Nat) (c : Core) :
    (s.setCore k c).xfers = s.xfers := rfl
@[simp] theorem State.setCore_nextId (s : State) (k : Nat) (c : Core) :
    (s.setCore k c).nextId = s.nextId := rfl
@[simp] theorem State.setCore_routers (s : State) (k : Nat) (c : Core) :
    (s.setCore k c).routers = s.routers := rfl
@[simp] theorem State.setCore_drams (s : State) (k : Nat) (c : Core) :
    (s.setCore k c).drams = s.drams := rfl
@[simp] theorem State.setCore_sync (s : State) (k : Nat) (c : Core) :
    (s.setCore k c).sync = s.sync := rfl
@[simp] theorem State.setCore_proof (s : State) (k : Nat) (c : Core) :
    (s.setCore k c).proof = s.proof := rfl
@[simp] theorem State.setCore_hold (s : State) (k : Nat) (c : Core) :
    (s.setCore k c).hold = s.hold := rfl
@[simp] theorem State.setCore_meter (s : State) (k : Nat) (c : Core) :
    (s.setCore k c).meter = s.meter := rfl
@[simp] theorem State.setCore_fab (s : State) (k : Nat) (c : Core) :
    (s.setCore k c).fab = s.fab := rfl
@[simp] theorem State.setCore_ports (s : State) (k : Nat) (c : Core) :
    (s.setCore k c).ports = s.ports := rfl
@[simp] theorem State.setCore_ctxs (s : State) (k : Nat) (c : Core) :
    (s.setCore k c).ctxs = s.ctxs := rfl
@[simp] theorem State.setCore_images (s : State) (k : Nat) (c : Core) :
    (s.setCore k c).images = s.images := rfl
@[simp] theorem State.setCore_onCores (s : State) (k : Nat) (c : Core) :
    (s.setCore k c).onCores = s.onCores := rfl
@[simp] theorem State.setCore_host (s : State) (k : Nat) (c : Core) :
    (s.setCore k c).host = s.host := rfl
@[simp] theorem State.setCore_sec (s : State) (k : Nat) (c : Core) :
    (s.setCore k c).sec = s.sec := rfl
@[simp] theorem State.setCore_mgmt (s : State) (k : Nat) (c : Core) :
    (s.setCore k c).mgmt = s.mgmt := rfl
@[simp] theorem State.setCore_crumb (s : State) (k : Nat) (c : Core) :
    (s.setCore k c).crumb = s.crumb := rfl
@[simp] theorem State.setCore_obs (s : State) (k : Nat) (c : Core) :
    (s.setCore k c).obs = s.obs := rfl
@[simp] theorem State.setCore_mon (s : State) (k : Nat) (c : Core) :
    (s.setCore k c).mon = s.mon := rfl

/-! `State.onCore` -/

@[simp] theorem State.onCore_pending (s : State) (k : Nat) (f : Core → Core) :
    (s.onCore k f).pending = s.pending := rfl
@[simp] theorem State.onCore_now (s : State) (k : Nat) (f : Core → Core) :
    (s.onCore k f).now = s.now := rfl
@[simp] theorem State.onCore_free (s : State) (k : Nat) (f : Core → Core) :
    (s.onCore k f).free = s.free := rfl
@[simp] theorem State.onCore_cores (s : State) (k : Nat) (f : Core → Core) :
    (s.onCore k f).cores = mset s.cores k (f (s.core k)) := rfl
@[simp] theorem State.onCore_clusters (s : State) (k : Nat) (f : Core → Core) :
    (s.onCore k f).clusters = s.clusters := rfl
@[simp] theorem State.onCore_mem (s : State) (k : Nat) (f : Core → Core) :
    (s.onCore k f).mem = s.mem := rfl
@[simp] theorem State.onCore_pkts (s : State) (k : Nat) (f : Core → Core) :
    (s.onCore k f).pkts = s.pkts := rfl
@[simp] theorem State.onCore_gates (s : State) (k : Nat) (f : Core → Core) :
    (s.onCore k f).gates = s.gates := rfl
@[simp] theorem State.onCore_xfers (s : State) (k : Nat) (f : Core → Core) :
    (s.onCore k f).xfers = s.xfers := rfl
@[simp] theorem State.onCore_nextId (s : State) (k : Nat) (f : Core → Core) :
    (s.onCore k f).nextId = s.nextId := rfl
@[simp] theorem State.onCore_routers (s : State) (k : Nat) (f : Core → Core) :
    (s.onCore k f).routers = s.routers := rfl
@[simp] theorem State.onCore_drams (s : State) (k : Nat) (f : Core → Core) :
    (s.onCore k f).drams = s.drams := rfl
@[simp] theorem State.onCore_sync (s : State) (k : Nat) (f : Core → Core) :
    (s.onCore k f).sync = s.sync := rfl
@[simp] theorem State.onCore_proof (s : State) (k : Nat) (f : Core → Core) :
    (s.onCore k f).proof = s.proof := rfl
@[simp] theorem State.onCore_hold (s : State) (k : Nat) (f : Core → Core) :
    (s.onCore k f).hold = s.hold := rfl
@[simp] theorem State.onCore_meter (s : State) (k : Nat) (f : Core → Core) :
    (s.onCore k f).meter = s.meter := rfl
@[simp] theorem State.onCore_fab (s : State) (k : Nat) (f : Core → Core) :
    (s.onCore k f).fab = s.fab := rfl
@[simp] theorem State.onCore_ports (s : State) (k : Nat) (f : Core → Core) :
    (s.onCore k f).ports = s.ports := rfl
@[simp] theorem State.onCore_ctxs (s : State) (k : Nat) (f : Core → Core) :
    (s.onCore k f).ctxs = s.ctxs := rfl
@[simp] theorem State.onCore_images (s : State) (k : Nat) (f : Core → Core) :
    (s.onCore k f).images = s.images := rfl
@[simp] theorem State.onCore_onCores (s : State) (k : Nat) (f : Core → Core) :
    (s.onCore k f).onCores = s.onCores := rfl
@[simp] theorem State.onCore_host (s : State) (k : Nat) (f : Core → Core) :
    (s.onCore k f).host = s.host := rfl
@[simp] theorem State.onCore_sec (s : State) (k : Nat) (f : Core → Core) :
    (s.onCore k f).sec = s.sec := rfl
@[simp] theorem State.onCore_mgmt (s : State) (k : Nat) (f : Core → Core) :
    (s.onCore k f).mgmt = s.mgmt := rfl
@[simp] theorem State.onCore_crumb (s : State) (k : Nat) (f : Core → Core) :
    (s.onCore k f).crumb = s.crumb := rfl
@[simp] theorem State.onCore_obs (s : State) (k : Nat) (f : Core → Core) :
    (s.onCore k f).obs = s.obs := rfl
@[simp] theorem State.onCore_mon (s : State) (k : Nat) (f : Core → Core) :
    (s.onCore k f).mon = s.mon := rfl

/-! `State.onSeq` -/

@[simp] theorem State.onSeq_pending (s : State) (k : Nat) (f : Seq → Seq) :
    (s.onSeq k f).pending = s.pending := rfl
@[simp] theorem State.onSeq_now (s : State) (k : Nat) (f : Seq → Seq) :
    (s.onSeq k f).now = s.now := rfl
@[simp] theorem State.onSeq_free (s : State) (k : Nat) (f : Seq → Seq) :
    (s.onSeq k f).free = s.free := rfl
@[simp] theorem State.onSeq_cores (s : State) (k : Nat) (f : Seq → Seq) :
    (s.onSeq k f).cores = mset s.cores k { s.core k with seq := f (s.core k).seq } := rfl
@[simp] theorem State.onSeq_clusters (s : State) (k : Nat) (f : Seq → Seq) :
    (s.onSeq k f).clusters = s.clusters := rfl
@[simp] theorem State.onSeq_mem (s : State) (k : Nat) (f : Seq → Seq) :
    (s.onSeq k f).mem = s.mem := rfl
@[simp] theorem State.onSeq_pkts (s : State) (k : Nat) (f : Seq → Seq) :
    (s.onSeq k f).pkts = s.pkts := rfl
@[simp] theorem State.onSeq_gates (s : State) (k : Nat) (f : Seq → Seq) :
    (s.onSeq k f).gates = s.gates := rfl
@[simp] theorem State.onSeq_xfers (s : State) (k : Nat) (f : Seq → Seq) :
    (s.onSeq k f).xfers = s.xfers := rfl
@[simp] theorem State.onSeq_nextId (s : State) (k : Nat) (f : Seq → Seq) :
    (s.onSeq k f).nextId = s.nextId := rfl
@[simp] theorem State.onSeq_routers (s : State) (k : Nat) (f : Seq → Seq) :
    (s.onSeq k f).routers = s.routers := rfl
@[simp] theorem State.onSeq_drams (s : State) (k : Nat) (f : Seq → Seq) :
    (s.onSeq k f).drams = s.drams := rfl
@[simp] theorem State.onSeq_sync (s : State) (k : Nat) (f : Seq → Seq) :
    (s.onSeq k f).sync = s.sync := rfl
@[simp] theorem State.onSeq_proof (s : State) (k : Nat) (f : Seq → Seq) :
    (s.onSeq k f).proof = s.proof := rfl
@[simp] theorem State.onSeq_hold (s : State) (k : Nat) (f : Seq → Seq) :
    (s.onSeq k f).hold = s.hold := rfl
@[simp] theorem State.onSeq_meter (s : State) (k : Nat) (f : Seq → Seq) :
    (s.onSeq k f).meter = s.meter := rfl
@[simp] theorem State.onSeq_fab (s : State) (k : Nat) (f : Seq → Seq) :
    (s.onSeq k f).fab = s.fab := rfl
@[simp] theorem State.onSeq_ports (s : State) (k : Nat) (f : Seq → Seq) :
    (s.onSeq k f).ports = s.ports := rfl
@[simp] theorem State.onSeq_ctxs (s : State) (k : Nat) (f : Seq → Seq) :
    (s.onSeq k f).ctxs = s.ctxs := rfl
@[simp] theorem State.onSeq_images (s : State) (k : Nat) (f : Seq → Seq) :
    (s.onSeq k f).images = s.images := rfl
@[simp] theorem State.onSeq_onCores (s : State) (k : Nat) (f : Seq → Seq) :
    (s.onSeq k f).onCores = s.onCores := rfl
@[simp] theorem State.onSeq_host (s : State) (k : Nat) (f : Seq → Seq) :
    (s.onSeq k f).host = s.host := rfl
@[simp] theorem State.onSeq_sec (s : State) (k : Nat) (f : Seq → Seq) :
    (s.onSeq k f).sec = s.sec := rfl
@[simp] theorem State.onSeq_mgmt (s : State) (k : Nat) (f : Seq → Seq) :
    (s.onSeq k f).mgmt = s.mgmt := rfl
@[simp] theorem State.onSeq_crumb (s : State) (k : Nat) (f : Seq → Seq) :
    (s.onSeq k f).crumb = s.crumb := rfl
@[simp] theorem State.onSeq_obs (s : State) (k : Nat) (f : Seq → Seq) :
    (s.onSeq k f).obs = s.obs := rfl
@[simp] theorem State.onSeq_mon (s : State) (k : Nat) (f : Seq → Seq) :
    (s.onSeq k f).mon = s.mon := rfl

/-! `State.setCluster` -/

@[simp] theorem State.setCluster_pending (s : State) (c : Nat) (x : Cluster) :
    (s.setCluster c x).pending = s.pending := rfl
@[simp] theorem State.setCluster_now (s : State) (c : Nat) (x : Cluster) :
    (s.setCluster c x).now = s.now := rfl
@[simp] theorem State.setCluster_free (s : State) (c : Nat) (x : Cluster) :
    (s.setCluster c x).free = s.free := rfl
@[simp] theorem State.setCluster_cores (s : State) (c : Nat) (x : Cluster) :
    (s.setCluster c x).cores = s.cores := rfl
@[simp] theorem State.setCluster_clusters (s : State) (c : Nat) (x : Cluster) :
    (s.setCluster c x).clusters = mset s.clusters c x := rfl
@[simp] theorem State.setCluster_mem (s : State) (c : Nat) (x : Cluster) :
    (s.setCluster c x).mem = s.mem := rfl
@[simp] theorem State.setCluster_pkts (s : State) (c : Nat) (x : Cluster) :
    (s.setCluster c x).pkts = s.pkts := rfl
@[simp] theorem State.setCluster_gates (s : State) (c : Nat) (x : Cluster) :
    (s.setCluster c x).gates = s.gates := rfl
@[simp] theorem State.setCluster_xfers (s : State) (c : Nat) (x : Cluster) :
    (s.setCluster c x).xfers = s.xfers := rfl
@[simp] theorem State.setCluster_nextId (s : State) (c : Nat) (x : Cluster) :
    (s.setCluster c x).nextId = s.nextId := rfl
@[simp] theorem State.setCluster_routers (s : State) (c : Nat) (x : Cluster) :
    (s.setCluster c x).routers = s.routers := rfl
@[simp] theorem State.setCluster_drams (s : State) (c : Nat) (x : Cluster) :
    (s.setCluster c x).drams = s.drams := rfl
@[simp] theorem State.setCluster_sync (s : State) (c : Nat) (x : Cluster) :
    (s.setCluster c x).sync = s.sync := rfl
@[simp] theorem State.setCluster_proof (s : State) (c : Nat) (x : Cluster) :
    (s.setCluster c x).proof = s.proof := rfl
@[simp] theorem State.setCluster_hold (s : State) (c : Nat) (x : Cluster) :
    (s.setCluster c x).hold = s.hold := rfl
@[simp] theorem State.setCluster_meter (s : State) (c : Nat) (x : Cluster) :
    (s.setCluster c x).meter = s.meter := rfl
@[simp] theorem State.setCluster_fab (s : State) (c : Nat) (x : Cluster) :
    (s.setCluster c x).fab = s.fab := rfl
@[simp] theorem State.setCluster_ports (s : State) (c : Nat) (x : Cluster) :
    (s.setCluster c x).ports = s.ports := rfl
@[simp] theorem State.setCluster_ctxs (s : State) (c : Nat) (x : Cluster) :
    (s.setCluster c x).ctxs = s.ctxs := rfl
@[simp] theorem State.setCluster_images (s : State) (c : Nat) (x : Cluster) :
    (s.setCluster c x).images = s.images := rfl
@[simp] theorem State.setCluster_onCores (s : State) (c : Nat) (x : Cluster) :
    (s.setCluster c x).onCores = s.onCores := rfl
@[simp] theorem State.setCluster_host (s : State) (c : Nat) (x : Cluster) :
    (s.setCluster c x).host = s.host := rfl
@[simp] theorem State.setCluster_sec (s : State) (c : Nat) (x : Cluster) :
    (s.setCluster c x).sec = s.sec := rfl
@[simp] theorem State.setCluster_mgmt (s : State) (c : Nat) (x : Cluster) :
    (s.setCluster c x).mgmt = s.mgmt := rfl
@[simp] theorem State.setCluster_crumb (s : State) (c : Nat) (x : Cluster) :
    (s.setCluster c x).crumb = s.crumb := rfl
@[simp] theorem State.setCluster_obs (s : State) (c : Nat) (x : Cluster) :
    (s.setCluster c x).obs = s.obs := rfl
@[simp] theorem State.setCluster_mon (s : State) (c : Nat) (x : Cluster) :
    (s.setCluster c x).mon = s.mon := rfl

/-! `State.onCluster` -/

@[simp] theorem State.onCluster_pending (s : State) (c : Nat) (f : Cluster → Cluster) :
    (s.onCluster c f).pending = s.pending := rfl
@[simp] theorem State.onCluster_now (s : State) (c : Nat) (f : Cluster → Cluster) :
    (s.onCluster c f).now = s.now := rfl
@[simp] theorem State.onCluster_free (s : State) (c : Nat) (f : Cluster → Cluster) :
    (s.onCluster c f).free = s.free := rfl
@[simp] theorem State.onCluster_cores (s : State) (c : Nat) (f : Cluster → Cluster) :
    (s.onCluster c f).cores = s.cores := rfl
@[simp] theorem State.onCluster_clusters (s : State) (c : Nat) (f : Cluster → Cluster) :
    (s.onCluster c f).clusters = mset s.clusters c (f (s.cluster c)) := rfl
@[simp] theorem State.onCluster_mem (s : State) (c : Nat) (f : Cluster → Cluster) :
    (s.onCluster c f).mem = s.mem := rfl
@[simp] theorem State.onCluster_pkts (s : State) (c : Nat) (f : Cluster → Cluster) :
    (s.onCluster c f).pkts = s.pkts := rfl
@[simp] theorem State.onCluster_gates (s : State) (c : Nat) (f : Cluster → Cluster) :
    (s.onCluster c f).gates = s.gates := rfl
@[simp] theorem State.onCluster_xfers (s : State) (c : Nat) (f : Cluster → Cluster) :
    (s.onCluster c f).xfers = s.xfers := rfl
@[simp] theorem State.onCluster_nextId (s : State) (c : Nat) (f : Cluster → Cluster) :
    (s.onCluster c f).nextId = s.nextId := rfl
@[simp] theorem State.onCluster_routers (s : State) (c : Nat) (f : Cluster → Cluster) :
    (s.onCluster c f).routers = s.routers := rfl
@[simp] theorem State.onCluster_drams (s : State) (c : Nat) (f : Cluster → Cluster) :
    (s.onCluster c f).drams = s.drams := rfl
@[simp] theorem State.onCluster_sync (s : State) (c : Nat) (f : Cluster → Cluster) :
    (s.onCluster c f).sync = s.sync := rfl
@[simp] theorem State.onCluster_proof (s : State) (c : Nat) (f : Cluster → Cluster) :
    (s.onCluster c f).proof = s.proof := rfl
@[simp] theorem State.onCluster_hold (s : State) (c : Nat) (f : Cluster → Cluster) :
    (s.onCluster c f).hold = s.hold := rfl
@[simp] theorem State.onCluster_meter (s : State) (c : Nat) (f : Cluster → Cluster) :
    (s.onCluster c f).meter = s.meter := rfl
@[simp] theorem State.onCluster_fab (s : State) (c : Nat) (f : Cluster → Cluster) :
    (s.onCluster c f).fab = s.fab := rfl
@[simp] theorem State.onCluster_ports (s : State) (c : Nat) (f : Cluster → Cluster) :
    (s.onCluster c f).ports = s.ports := rfl
@[simp] theorem State.onCluster_ctxs (s : State) (c : Nat) (f : Cluster → Cluster) :
    (s.onCluster c f).ctxs = s.ctxs := rfl
@[simp] theorem State.onCluster_images (s : State) (c : Nat) (f : Cluster → Cluster) :
    (s.onCluster c f).images = s.images := rfl
@[simp] theorem State.onCluster_onCores (s : State) (c : Nat) (f : Cluster → Cluster) :
    (s.onCluster c f).onCores = s.onCores := rfl
@[simp] theorem State.onCluster_host (s : State) (c : Nat) (f : Cluster → Cluster) :
    (s.onCluster c f).host = s.host := rfl
@[simp] theorem State.onCluster_sec (s : State) (c : Nat) (f : Cluster → Cluster) :
    (s.onCluster c f).sec = s.sec := rfl
@[simp] theorem State.onCluster_mgmt (s : State) (c : Nat) (f : Cluster → Cluster) :
    (s.onCluster c f).mgmt = s.mgmt := rfl
@[simp] theorem State.onCluster_crumb (s : State) (c : Nat) (f : Cluster → Cluster) :
    (s.onCluster c f).crumb = s.crumb := rfl
@[simp] theorem State.onCluster_obs (s : State) (c : Nat) (f : Cluster → Cluster) :
    (s.onCluster c f).obs = s.obs := rfl
@[simp] theorem State.onCluster_mon (s : State) (c : Nat) (f : Cluster → Cluster) :
    (s.onCluster c f).mon = s.mon := rfl

/-! `State.onCtx` -/

@[simp] theorem State.onCtx_pending (s : State) (i : Nat) (f : Ctx → Ctx) :
    (s.onCtx i f).pending = s.pending := rfl
@[simp] theorem State.onCtx_now (s : State) (i : Nat) (f : Ctx → Ctx) :
    (s.onCtx i f).now = s.now := rfl
@[simp] theorem State.onCtx_free (s : State) (i : Nat) (f : Ctx → Ctx) :
    (s.onCtx i f).free = s.free := rfl
@[simp] theorem State.onCtx_cores (s : State) (i : Nat) (f : Ctx → Ctx) :
    (s.onCtx i f).cores = s.cores := rfl
@[simp] theorem State.onCtx_clusters (s : State) (i : Nat) (f : Ctx → Ctx) :
    (s.onCtx i f).clusters = s.clusters := rfl
@[simp] theorem State.onCtx_mem (s : State) (i : Nat) (f : Ctx → Ctx) :
    (s.onCtx i f).mem = s.mem := rfl
@[simp] theorem State.onCtx_pkts (s : State) (i : Nat) (f : Ctx → Ctx) :
    (s.onCtx i f).pkts = s.pkts := rfl
@[simp] theorem State.onCtx_gates (s : State) (i : Nat) (f : Ctx → Ctx) :
    (s.onCtx i f).gates = s.gates := rfl
@[simp] theorem State.onCtx_xfers (s : State) (i : Nat) (f : Ctx → Ctx) :
    (s.onCtx i f).xfers = s.xfers := rfl
@[simp] theorem State.onCtx_nextId (s : State) (i : Nat) (f : Ctx → Ctx) :
    (s.onCtx i f).nextId = s.nextId := rfl
@[simp] theorem State.onCtx_routers (s : State) (i : Nat) (f : Ctx → Ctx) :
    (s.onCtx i f).routers = s.routers := rfl
@[simp] theorem State.onCtx_drams (s : State) (i : Nat) (f : Ctx → Ctx) :
    (s.onCtx i f).drams = s.drams := rfl
@[simp] theorem State.onCtx_sync (s : State) (i : Nat) (f : Ctx → Ctx) :
    (s.onCtx i f).sync = s.sync := rfl
@[simp] theorem State.onCtx_proof (s : State) (i : Nat) (f : Ctx → Ctx) :
    (s.onCtx i f).proof = s.proof := rfl
@[simp] theorem State.onCtx_hold (s : State) (i : Nat) (f : Ctx → Ctx) :
    (s.onCtx i f).hold = s.hold := rfl
@[simp] theorem State.onCtx_meter (s : State) (i : Nat) (f : Ctx → Ctx) :
    (s.onCtx i f).meter = s.meter := rfl
@[simp] theorem State.onCtx_fab (s : State) (i : Nat) (f : Ctx → Ctx) :
    (s.onCtx i f).fab = s.fab := rfl
@[simp] theorem State.onCtx_ports (s : State) (i : Nat) (f : Ctx → Ctx) :
    (s.onCtx i f).ports = s.ports := rfl
@[simp] theorem State.onCtx_ctxs (s : State) (i : Nat) (f : Ctx → Ctx) :
    (s.onCtx i f).ctxs = mset s.ctxs i (f (s.ctx i)) := rfl
@[simp] theorem State.onCtx_images (s : State) (i : Nat) (f : Ctx → Ctx) :
    (s.onCtx i f).images = s.images := rfl
@[simp] theorem State.onCtx_onCores (s : State) (i : Nat) (f : Ctx → Ctx) :
    (s.onCtx i f).onCores = s.onCores := rfl
@[simp] theorem State.onCtx_host (s : State) (i : Nat) (f : Ctx → Ctx) :
    (s.onCtx i f).host = s.host := rfl
@[simp] theorem State.onCtx_sec (s : State) (i : Nat) (f : Ctx → Ctx) :
    (s.onCtx i f).sec = s.sec := rfl
@[simp] theorem State.onCtx_mgmt (s : State) (i : Nat) (f : Ctx → Ctx) :
    (s.onCtx i f).mgmt = s.mgmt := rfl
@[simp] theorem State.onCtx_crumb (s : State) (i : Nat) (f : Ctx → Ctx) :
    (s.onCtx i f).crumb = s.crumb := rfl
@[simp] theorem State.onCtx_obs (s : State) (i : Nat) (f : Ctx → Ctx) :
    (s.onCtx i f).obs = s.obs := rfl
@[simp] theorem State.onCtx_mon (s : State) (i : Nat) (f : Ctx → Ctx) :
    (s.onCtx i f).mon = s.mon := rfl

/-! `State.onPort` -/

@[simp] theorem State.onPort_pending (s : State) (p : Nat) (f : Port → Port) :
    (s.onPort p f).pending = s.pending := rfl
@[simp] theorem State.onPort_now (s : State) (p : Nat) (f : Port → Port) :
    (s.onPort p f).now = s.now := rfl
@[simp] theorem State.onPort_free (s : State) (p : Nat) (f : Port → Port) :
    (s.onPort p f).free = s.free := rfl
@[simp] theorem State.onPort_cores (s : State) (p : Nat) (f : Port → Port) :
    (s.onPort p f).cores = s.cores := rfl
@[simp] theorem State.onPort_clusters (s : State) (p : Nat) (f : Port → Port) :
    (s.onPort p f).clusters = s.clusters := rfl
@[simp] theorem State.onPort_mem (s : State) (p : Nat) (f : Port → Port) :
    (s.onPort p f).mem = s.mem := rfl
@[simp] theorem State.onPort_pkts (s : State) (p : Nat) (f : Port → Port) :
    (s.onPort p f).pkts = s.pkts := rfl
@[simp] theorem State.onPort_gates (s : State) (p : Nat) (f : Port → Port) :
    (s.onPort p f).gates = s.gates := rfl
@[simp] theorem State.onPort_xfers (s : State) (p : Nat) (f : Port → Port) :
    (s.onPort p f).xfers = s.xfers := rfl
@[simp] theorem State.onPort_nextId (s : State) (p : Nat) (f : Port → Port) :
    (s.onPort p f).nextId = s.nextId := rfl
@[simp] theorem State.onPort_routers (s : State) (p : Nat) (f : Port → Port) :
    (s.onPort p f).routers = s.routers := rfl
@[simp] theorem State.onPort_drams (s : State) (p : Nat) (f : Port → Port) :
    (s.onPort p f).drams = s.drams := rfl
@[simp] theorem State.onPort_sync (s : State) (p : Nat) (f : Port → Port) :
    (s.onPort p f).sync = s.sync := rfl
@[simp] theorem State.onPort_proof (s : State) (p : Nat) (f : Port → Port) :
    (s.onPort p f).proof = s.proof := rfl
@[simp] theorem State.onPort_hold (s : State) (p : Nat) (f : Port → Port) :
    (s.onPort p f).hold = s.hold := rfl
@[simp] theorem State.onPort_meter (s : State) (p : Nat) (f : Port → Port) :
    (s.onPort p f).meter = s.meter := rfl
@[simp] theorem State.onPort_fab (s : State) (p : Nat) (f : Port → Port) :
    (s.onPort p f).fab = s.fab := rfl
@[simp] theorem State.onPort_ports (s : State) (p : Nat) (f : Port → Port) :
    (s.onPort p f).ports = mset s.ports p (f (s.port p)) := rfl
@[simp] theorem State.onPort_ctxs (s : State) (p : Nat) (f : Port → Port) :
    (s.onPort p f).ctxs = s.ctxs := rfl
@[simp] theorem State.onPort_images (s : State) (p : Nat) (f : Port → Port) :
    (s.onPort p f).images = s.images := rfl
@[simp] theorem State.onPort_onCores (s : State) (p : Nat) (f : Port → Port) :
    (s.onPort p f).onCores = s.onCores := rfl
@[simp] theorem State.onPort_host (s : State) (p : Nat) (f : Port → Port) :
    (s.onPort p f).host = s.host := rfl
@[simp] theorem State.onPort_sec (s : State) (p : Nat) (f : Port → Port) :
    (s.onPort p f).sec = s.sec := rfl
@[simp] theorem State.onPort_mgmt (s : State) (p : Nat) (f : Port → Port) :
    (s.onPort p f).mgmt = s.mgmt := rfl
@[simp] theorem State.onPort_crumb (s : State) (p : Nat) (f : Port → Port) :
    (s.onPort p f).crumb = s.crumb := rfl
@[simp] theorem State.onPort_obs (s : State) (p : Nat) (f : Port → Port) :
    (s.onPort p f).obs = s.obs := rfl
@[simp] theorem State.onPort_mon (s : State) (p : Nat) (f : Port → Port) :
    (s.onPort p f).mon = s.mon := rfl

/-! `State.onStack` -/

@[simp] theorem State.onStack_pending (s : State) (i : Nat) (f : Stack → Stack) :
    (s.onStack i f).pending = s.pending := rfl
@[simp] theorem State.onStack_now (s : State) (i : Nat) (f : Stack → Stack) :
    (s.onStack i f).now = s.now := rfl
@[simp] theorem State.onStack_free (s : State) (i : Nat) (f : Stack → Stack) :
    (s.onStack i f).free = s.free := rfl
@[simp] theorem State.onStack_cores (s : State) (i : Nat) (f : Stack → Stack) :
    (s.onStack i f).cores = s.cores := rfl
@[simp] theorem State.onStack_clusters (s : State) (i : Nat) (f : Stack → Stack) :
    (s.onStack i f).clusters = s.clusters := rfl
@[simp] theorem State.onStack_mem (s : State) (i : Nat) (f : Stack → Stack) :
    (s.onStack i f).mem = s.mem := rfl
@[simp] theorem State.onStack_pkts (s : State) (i : Nat) (f : Stack → Stack) :
    (s.onStack i f).pkts = s.pkts := rfl
@[simp] theorem State.onStack_gates (s : State) (i : Nat) (f : Stack → Stack) :
    (s.onStack i f).gates = s.gates := rfl
@[simp] theorem State.onStack_xfers (s : State) (i : Nat) (f : Stack → Stack) :
    (s.onStack i f).xfers = s.xfers := rfl
@[simp] theorem State.onStack_nextId (s : State) (i : Nat) (f : Stack → Stack) :
    (s.onStack i f).nextId = s.nextId := rfl
@[simp] theorem State.onStack_routers (s : State) (i : Nat) (f : Stack → Stack) :
    (s.onStack i f).routers = s.routers := rfl
@[simp] theorem State.onStack_drams (s : State) (i : Nat) (f : Stack → Stack) :
    (s.onStack i f).drams = mset s.drams i (f (s.stack i)) := rfl
@[simp] theorem State.onStack_sync (s : State) (i : Nat) (f : Stack → Stack) :
    (s.onStack i f).sync = s.sync := rfl
@[simp] theorem State.onStack_proof (s : State) (i : Nat) (f : Stack → Stack) :
    (s.onStack i f).proof = s.proof := rfl
@[simp] theorem State.onStack_hold (s : State) (i : Nat) (f : Stack → Stack) :
    (s.onStack i f).hold = s.hold := rfl
@[simp] theorem State.onStack_meter (s : State) (i : Nat) (f : Stack → Stack) :
    (s.onStack i f).meter = s.meter := rfl
@[simp] theorem State.onStack_fab (s : State) (i : Nat) (f : Stack → Stack) :
    (s.onStack i f).fab = s.fab := rfl
@[simp] theorem State.onStack_ports (s : State) (i : Nat) (f : Stack → Stack) :
    (s.onStack i f).ports = s.ports := rfl
@[simp] theorem State.onStack_ctxs (s : State) (i : Nat) (f : Stack → Stack) :
    (s.onStack i f).ctxs = s.ctxs := rfl
@[simp] theorem State.onStack_images (s : State) (i : Nat) (f : Stack → Stack) :
    (s.onStack i f).images = s.images := rfl
@[simp] theorem State.onStack_onCores (s : State) (i : Nat) (f : Stack → Stack) :
    (s.onStack i f).onCores = s.onCores := rfl
@[simp] theorem State.onStack_host (s : State) (i : Nat) (f : Stack → Stack) :
    (s.onStack i f).host = s.host := rfl
@[simp] theorem State.onStack_sec (s : State) (i : Nat) (f : Stack → Stack) :
    (s.onStack i f).sec = s.sec := rfl
@[simp] theorem State.onStack_mgmt (s : State) (i : Nat) (f : Stack → Stack) :
    (s.onStack i f).mgmt = s.mgmt := rfl
@[simp] theorem State.onStack_crumb (s : State) (i : Nat) (f : Stack → Stack) :
    (s.onStack i f).crumb = s.crumb := rfl
@[simp] theorem State.onStack_obs (s : State) (i : Nat) (f : Stack → Stack) :
    (s.onStack i f).obs = s.obs := rfl
@[simp] theorem State.onStack_mon (s : State) (i : Nat) (f : Stack → Stack) :
    (s.onStack i f).mon = s.mon := rfl

/-! `State.onHost` -/

@[simp] theorem State.onHost_pending (s : State) (f : HostSt → HostSt) :
    (s.onHost f).pending = s.pending := rfl
@[simp] theorem State.onHost_now (s : State) (f : HostSt → HostSt) :
    (s.onHost f).now = s.now := rfl
@[simp] theorem State.onHost_free (s : State) (f : HostSt → HostSt) :
    (s.onHost f).free = s.free := rfl
@[simp] theorem State.onHost_cores (s : State) (f : HostSt → HostSt) :
    (s.onHost f).cores = s.cores := rfl
@[simp] theorem State.onHost_clusters (s : State) (f : HostSt → HostSt) :
    (s.onHost f).clusters = s.clusters := rfl
@[simp] theorem State.onHost_mem (s : State) (f : HostSt → HostSt) :
    (s.onHost f).mem = s.mem := rfl
@[simp] theorem State.onHost_pkts (s : State) (f : HostSt → HostSt) :
    (s.onHost f).pkts = s.pkts := rfl
@[simp] theorem State.onHost_gates (s : State) (f : HostSt → HostSt) :
    (s.onHost f).gates = s.gates := rfl
@[simp] theorem State.onHost_xfers (s : State) (f : HostSt → HostSt) :
    (s.onHost f).xfers = s.xfers := rfl
@[simp] theorem State.onHost_nextId (s : State) (f : HostSt → HostSt) :
    (s.onHost f).nextId = s.nextId := rfl
@[simp] theorem State.onHost_routers (s : State) (f : HostSt → HostSt) :
    (s.onHost f).routers = s.routers := rfl
@[simp] theorem State.onHost_drams (s : State) (f : HostSt → HostSt) :
    (s.onHost f).drams = s.drams := rfl
@[simp] theorem State.onHost_sync (s : State) (f : HostSt → HostSt) :
    (s.onHost f).sync = s.sync := rfl
@[simp] theorem State.onHost_proof (s : State) (f : HostSt → HostSt) :
    (s.onHost f).proof = s.proof := rfl
@[simp] theorem State.onHost_hold (s : State) (f : HostSt → HostSt) :
    (s.onHost f).hold = s.hold := rfl
@[simp] theorem State.onHost_meter (s : State) (f : HostSt → HostSt) :
    (s.onHost f).meter = s.meter := rfl
@[simp] theorem State.onHost_fab (s : State) (f : HostSt → HostSt) :
    (s.onHost f).fab = s.fab := rfl
@[simp] theorem State.onHost_ports (s : State) (f : HostSt → HostSt) :
    (s.onHost f).ports = s.ports := rfl
@[simp] theorem State.onHost_ctxs (s : State) (f : HostSt → HostSt) :
    (s.onHost f).ctxs = s.ctxs := rfl
@[simp] theorem State.onHost_images (s : State) (f : HostSt → HostSt) :
    (s.onHost f).images = s.images := rfl
@[simp] theorem State.onHost_onCores (s : State) (f : HostSt → HostSt) :
    (s.onHost f).onCores = s.onCores := rfl
@[simp] theorem State.onHost_host (s : State) (f : HostSt → HostSt) :
    (s.onHost f).host = f s.host := rfl
@[simp] theorem State.onHost_sec (s : State) (f : HostSt → HostSt) :
    (s.onHost f).sec = s.sec := rfl
@[simp] theorem State.onHost_mgmt (s : State) (f : HostSt → HostSt) :
    (s.onHost f).mgmt = s.mgmt := rfl
@[simp] theorem State.onHost_crumb (s : State) (f : HostSt → HostSt) :
    (s.onHost f).crumb = s.crumb := rfl
@[simp] theorem State.onHost_obs (s : State) (f : HostSt → HostSt) :
    (s.onHost f).obs = s.obs := rfl
@[simp] theorem State.onHost_mon (s : State) (f : HostSt → HostSt) :
    (s.onHost f).mon = s.mon := rfl

/-! `State.onMgmt` -/

@[simp] theorem State.onMgmt_pending (s : State) (f : MgmtSt → MgmtSt) :
    (s.onMgmt f).pending = s.pending := rfl
@[simp] theorem State.onMgmt_now (s : State) (f : MgmtSt → MgmtSt) :
    (s.onMgmt f).now = s.now := rfl
@[simp] theorem State.onMgmt_free (s : State) (f : MgmtSt → MgmtSt) :
    (s.onMgmt f).free = s.free := rfl
@[simp] theorem State.onMgmt_cores (s : State) (f : MgmtSt → MgmtSt) :
    (s.onMgmt f).cores = s.cores := rfl
@[simp] theorem State.onMgmt_clusters (s : State) (f : MgmtSt → MgmtSt) :
    (s.onMgmt f).clusters = s.clusters := rfl
@[simp] theorem State.onMgmt_mem (s : State) (f : MgmtSt → MgmtSt) :
    (s.onMgmt f).mem = s.mem := rfl
@[simp] theorem State.onMgmt_pkts (s : State) (f : MgmtSt → MgmtSt) :
    (s.onMgmt f).pkts = s.pkts := rfl
@[simp] theorem State.onMgmt_gates (s : State) (f : MgmtSt → MgmtSt) :
    (s.onMgmt f).gates = s.gates := rfl
@[simp] theorem State.onMgmt_xfers (s : State) (f : MgmtSt → MgmtSt) :
    (s.onMgmt f).xfers = s.xfers := rfl
@[simp] theorem State.onMgmt_nextId (s : State) (f : MgmtSt → MgmtSt) :
    (s.onMgmt f).nextId = s.nextId := rfl
@[simp] theorem State.onMgmt_routers (s : State) (f : MgmtSt → MgmtSt) :
    (s.onMgmt f).routers = s.routers := rfl
@[simp] theorem State.onMgmt_drams (s : State) (f : MgmtSt → MgmtSt) :
    (s.onMgmt f).drams = s.drams := rfl
@[simp] theorem State.onMgmt_sync (s : State) (f : MgmtSt → MgmtSt) :
    (s.onMgmt f).sync = s.sync := rfl
@[simp] theorem State.onMgmt_proof (s : State) (f : MgmtSt → MgmtSt) :
    (s.onMgmt f).proof = s.proof := rfl
@[simp] theorem State.onMgmt_hold (s : State) (f : MgmtSt → MgmtSt) :
    (s.onMgmt f).hold = s.hold := rfl
@[simp] theorem State.onMgmt_meter (s : State) (f : MgmtSt → MgmtSt) :
    (s.onMgmt f).meter = s.meter := rfl
@[simp] theorem State.onMgmt_fab (s : State) (f : MgmtSt → MgmtSt) :
    (s.onMgmt f).fab = s.fab := rfl
@[simp] theorem State.onMgmt_ports (s : State) (f : MgmtSt → MgmtSt) :
    (s.onMgmt f).ports = s.ports := rfl
@[simp] theorem State.onMgmt_ctxs (s : State) (f : MgmtSt → MgmtSt) :
    (s.onMgmt f).ctxs = s.ctxs := rfl
@[simp] theorem State.onMgmt_images (s : State) (f : MgmtSt → MgmtSt) :
    (s.onMgmt f).images = s.images := rfl
@[simp] theorem State.onMgmt_onCores (s : State) (f : MgmtSt → MgmtSt) :
    (s.onMgmt f).onCores = s.onCores := rfl
@[simp] theorem State.onMgmt_host (s : State) (f : MgmtSt → MgmtSt) :
    (s.onMgmt f).host = s.host := rfl
@[simp] theorem State.onMgmt_sec (s : State) (f : MgmtSt → MgmtSt) :
    (s.onMgmt f).sec = s.sec := rfl
@[simp] theorem State.onMgmt_mgmt (s : State) (f : MgmtSt → MgmtSt) :
    (s.onMgmt f).mgmt = f s.mgmt := rfl
@[simp] theorem State.onMgmt_crumb (s : State) (f : MgmtSt → MgmtSt) :
    (s.onMgmt f).crumb = s.crumb := rfl
@[simp] theorem State.onMgmt_obs (s : State) (f : MgmtSt → MgmtSt) :
    (s.onMgmt f).obs = s.obs := rfl
@[simp] theorem State.onMgmt_mon (s : State) (f : MgmtSt → MgmtSt) :
    (s.onMgmt f).mon = s.mon := rfl

/-! `State.onSec` -/

@[simp] theorem State.onSec_pending (s : State) (f : SecSt → SecSt) :
    (s.onSec f).pending = s.pending := rfl
@[simp] theorem State.onSec_now (s : State) (f : SecSt → SecSt) :
    (s.onSec f).now = s.now := rfl
@[simp] theorem State.onSec_free (s : State) (f : SecSt → SecSt) :
    (s.onSec f).free = s.free := rfl
@[simp] theorem State.onSec_cores (s : State) (f : SecSt → SecSt) :
    (s.onSec f).cores = s.cores := rfl
@[simp] theorem State.onSec_clusters (s : State) (f : SecSt → SecSt) :
    (s.onSec f).clusters = s.clusters := rfl
@[simp] theorem State.onSec_mem (s : State) (f : SecSt → SecSt) :
    (s.onSec f).mem = s.mem := rfl
@[simp] theorem State.onSec_pkts (s : State) (f : SecSt → SecSt) :
    (s.onSec f).pkts = s.pkts := rfl
@[simp] theorem State.onSec_gates (s : State) (f : SecSt → SecSt) :
    (s.onSec f).gates = s.gates := rfl
@[simp] theorem State.onSec_xfers (s : State) (f : SecSt → SecSt) :
    (s.onSec f).xfers = s.xfers := rfl
@[simp] theorem State.onSec_nextId (s : State) (f : SecSt → SecSt) :
    (s.onSec f).nextId = s.nextId := rfl
@[simp] theorem State.onSec_routers (s : State) (f : SecSt → SecSt) :
    (s.onSec f).routers = s.routers := rfl
@[simp] theorem State.onSec_drams (s : State) (f : SecSt → SecSt) :
    (s.onSec f).drams = s.drams := rfl
@[simp] theorem State.onSec_sync (s : State) (f : SecSt → SecSt) :
    (s.onSec f).sync = s.sync := rfl
@[simp] theorem State.onSec_proof (s : State) (f : SecSt → SecSt) :
    (s.onSec f).proof = s.proof := rfl
@[simp] theorem State.onSec_hold (s : State) (f : SecSt → SecSt) :
    (s.onSec f).hold = s.hold := rfl
@[simp] theorem State.onSec_meter (s : State) (f : SecSt → SecSt) :
    (s.onSec f).meter = s.meter := rfl
@[simp] theorem State.onSec_fab (s : State) (f : SecSt → SecSt) :
    (s.onSec f).fab = s.fab := rfl
@[simp] theorem State.onSec_ports (s : State) (f : SecSt → SecSt) :
    (s.onSec f).ports = s.ports := rfl
@[simp] theorem State.onSec_ctxs (s : State) (f : SecSt → SecSt) :
    (s.onSec f).ctxs = s.ctxs := rfl
@[simp] theorem State.onSec_images (s : State) (f : SecSt → SecSt) :
    (s.onSec f).images = s.images := rfl
@[simp] theorem State.onSec_onCores (s : State) (f : SecSt → SecSt) :
    (s.onSec f).onCores = s.onCores := rfl
@[simp] theorem State.onSec_host (s : State) (f : SecSt → SecSt) :
    (s.onSec f).host = s.host := rfl
@[simp] theorem State.onSec_sec (s : State) (f : SecSt → SecSt) :
    (s.onSec f).sec = f s.sec := rfl
@[simp] theorem State.onSec_mgmt (s : State) (f : SecSt → SecSt) :
    (s.onSec f).mgmt = s.mgmt := rfl
@[simp] theorem State.onSec_crumb (s : State) (f : SecSt → SecSt) :
    (s.onSec f).crumb = s.crumb := rfl
@[simp] theorem State.onSec_obs (s : State) (f : SecSt → SecSt) :
    (s.onSec f).obs = s.obs := rfl
@[simp] theorem State.onSec_mon (s : State) (f : SecSt → SecSt) :
    (s.onSec f).mon = s.mon := rfl

/-! `State.onObs` -/

@[simp] theorem State.onObs_pending (s : State) (f : ObsSt → ObsSt) :
    (s.onObs f).pending = s.pending := rfl
@[simp] theorem State.onObs_now (s : State) (f : ObsSt → ObsSt) :
    (s.onObs f).now = s.now := rfl
@[simp] theorem State.onObs_free (s : State) (f : ObsSt → ObsSt) :
    (s.onObs f).free = s.free := rfl
@[simp] theorem State.onObs_cores (s : State) (f : ObsSt → ObsSt) :
    (s.onObs f).cores = s.cores := rfl
@[simp] theorem State.onObs_clusters (s : State) (f : ObsSt → ObsSt) :
    (s.onObs f).clusters = s.clusters := rfl
@[simp] theorem State.onObs_mem (s : State) (f : ObsSt → ObsSt) :
    (s.onObs f).mem = s.mem := rfl
@[simp] theorem State.onObs_pkts (s : State) (f : ObsSt → ObsSt) :
    (s.onObs f).pkts = s.pkts := rfl
@[simp] theorem State.onObs_gates (s : State) (f : ObsSt → ObsSt) :
    (s.onObs f).gates = s.gates := rfl
@[simp] theorem State.onObs_xfers (s : State) (f : ObsSt → ObsSt) :
    (s.onObs f).xfers = s.xfers := rfl
@[simp] theorem State.onObs_nextId (s : State) (f : ObsSt → ObsSt) :
    (s.onObs f).nextId = s.nextId := rfl
@[simp] theorem State.onObs_routers (s : State) (f : ObsSt → ObsSt) :
    (s.onObs f).routers = s.routers := rfl
@[simp] theorem State.onObs_drams (s : State) (f : ObsSt → ObsSt) :
    (s.onObs f).drams = s.drams := rfl
@[simp] theorem State.onObs_sync (s : State) (f : ObsSt → ObsSt) :
    (s.onObs f).sync = s.sync := rfl
@[simp] theorem State.onObs_proof (s : State) (f : ObsSt → ObsSt) :
    (s.onObs f).proof = s.proof := rfl
@[simp] theorem State.onObs_hold (s : State) (f : ObsSt → ObsSt) :
    (s.onObs f).hold = s.hold := rfl
@[simp] theorem State.onObs_meter (s : State) (f : ObsSt → ObsSt) :
    (s.onObs f).meter = s.meter := rfl
@[simp] theorem State.onObs_fab (s : State) (f : ObsSt → ObsSt) :
    (s.onObs f).fab = s.fab := rfl
@[simp] theorem State.onObs_ports (s : State) (f : ObsSt → ObsSt) :
    (s.onObs f).ports = s.ports := rfl
@[simp] theorem State.onObs_ctxs (s : State) (f : ObsSt → ObsSt) :
    (s.onObs f).ctxs = s.ctxs := rfl
@[simp] theorem State.onObs_images (s : State) (f : ObsSt → ObsSt) :
    (s.onObs f).images = s.images := rfl
@[simp] theorem State.onObs_onCores (s : State) (f : ObsSt → ObsSt) :
    (s.onObs f).onCores = s.onCores := rfl
@[simp] theorem State.onObs_host (s : State) (f : ObsSt → ObsSt) :
    (s.onObs f).host = s.host := rfl
@[simp] theorem State.onObs_sec (s : State) (f : ObsSt → ObsSt) :
    (s.onObs f).sec = s.sec := rfl
@[simp] theorem State.onObs_mgmt (s : State) (f : ObsSt → ObsSt) :
    (s.onObs f).mgmt = s.mgmt := rfl
@[simp] theorem State.onObs_crumb (s : State) (f : ObsSt → ObsSt) :
    (s.onObs f).crumb = s.crumb := rfl
@[simp] theorem State.onObs_obs (s : State) (f : ObsSt → ObsSt) :
    (s.onObs f).obs = f s.obs := rfl
@[simp] theorem State.onObs_mon (s : State) (f : ObsSt → ObsSt) :
    (s.onObs f).mon = s.mon := rfl

/-! `State.onSync` -/

@[simp] theorem State.onSync_pending (s : State) (f : SyncSt → SyncSt) :
    (s.onSync f).pending = s.pending := rfl
@[simp] theorem State.onSync_now (s : State) (f : SyncSt → SyncSt) :
    (s.onSync f).now = s.now := rfl
@[simp] theorem State.onSync_free (s : State) (f : SyncSt → SyncSt) :
    (s.onSync f).free = s.free := rfl
@[simp] theorem State.onSync_cores (s : State) (f : SyncSt → SyncSt) :
    (s.onSync f).cores = s.cores := rfl
@[simp] theorem State.onSync_clusters (s : State) (f : SyncSt → SyncSt) :
    (s.onSync f).clusters = s.clusters := rfl
@[simp] theorem State.onSync_mem (s : State) (f : SyncSt → SyncSt) :
    (s.onSync f).mem = s.mem := rfl
@[simp] theorem State.onSync_pkts (s : State) (f : SyncSt → SyncSt) :
    (s.onSync f).pkts = s.pkts := rfl
@[simp] theorem State.onSync_gates (s : State) (f : SyncSt → SyncSt) :
    (s.onSync f).gates = s.gates := rfl
@[simp] theorem State.onSync_xfers (s : State) (f : SyncSt → SyncSt) :
    (s.onSync f).xfers = s.xfers := rfl
@[simp] theorem State.onSync_nextId (s : State) (f : SyncSt → SyncSt) :
    (s.onSync f).nextId = s.nextId := rfl
@[simp] theorem State.onSync_routers (s : State) (f : SyncSt → SyncSt) :
    (s.onSync f).routers = s.routers := rfl
@[simp] theorem State.onSync_drams (s : State) (f : SyncSt → SyncSt) :
    (s.onSync f).drams = s.drams := rfl
@[simp] theorem State.onSync_sync (s : State) (f : SyncSt → SyncSt) :
    (s.onSync f).sync = f s.sync := rfl
@[simp] theorem State.onSync_proof (s : State) (f : SyncSt → SyncSt) :
    (s.onSync f).proof = s.proof := rfl
@[simp] theorem State.onSync_hold (s : State) (f : SyncSt → SyncSt) :
    (s.onSync f).hold = s.hold := rfl
@[simp] theorem State.onSync_meter (s : State) (f : SyncSt → SyncSt) :
    (s.onSync f).meter = s.meter := rfl
@[simp] theorem State.onSync_fab (s : State) (f : SyncSt → SyncSt) :
    (s.onSync f).fab = s.fab := rfl
@[simp] theorem State.onSync_ports (s : State) (f : SyncSt → SyncSt) :
    (s.onSync f).ports = s.ports := rfl
@[simp] theorem State.onSync_ctxs (s : State) (f : SyncSt → SyncSt) :
    (s.onSync f).ctxs = s.ctxs := rfl
@[simp] theorem State.onSync_images (s : State) (f : SyncSt → SyncSt) :
    (s.onSync f).images = s.images := rfl
@[simp] theorem State.onSync_onCores (s : State) (f : SyncSt → SyncSt) :
    (s.onSync f).onCores = s.onCores := rfl
@[simp] theorem State.onSync_host (s : State) (f : SyncSt → SyncSt) :
    (s.onSync f).host = s.host := rfl
@[simp] theorem State.onSync_sec (s : State) (f : SyncSt → SyncSt) :
    (s.onSync f).sec = s.sec := rfl
@[simp] theorem State.onSync_mgmt (s : State) (f : SyncSt → SyncSt) :
    (s.onSync f).mgmt = s.mgmt := rfl
@[simp] theorem State.onSync_crumb (s : State) (f : SyncSt → SyncSt) :
    (s.onSync f).crumb = s.crumb := rfl
@[simp] theorem State.onSync_obs (s : State) (f : SyncSt → SyncSt) :
    (s.onSync f).obs = s.obs := rfl
@[simp] theorem State.onSync_mon (s : State) (f : SyncSt → SyncSt) :
    (s.onSync f).mon = s.mon := rfl

/-! `State.onProof` -/

@[simp] theorem State.onProof_pending (s : State) (f : ProofSt → ProofSt) :
    (s.onProof f).pending = s.pending := rfl
@[simp] theorem State.onProof_now (s : State) (f : ProofSt → ProofSt) :
    (s.onProof f).now = s.now := rfl
@[simp] theorem State.onProof_free (s : State) (f : ProofSt → ProofSt) :
    (s.onProof f).free = s.free := rfl
@[simp] theorem State.onProof_cores (s : State) (f : ProofSt → ProofSt) :
    (s.onProof f).cores = s.cores := rfl
@[simp] theorem State.onProof_clusters (s : State) (f : ProofSt → ProofSt) :
    (s.onProof f).clusters = s.clusters := rfl
@[simp] theorem State.onProof_mem (s : State) (f : ProofSt → ProofSt) :
    (s.onProof f).mem = s.mem := rfl
@[simp] theorem State.onProof_pkts (s : State) (f : ProofSt → ProofSt) :
    (s.onProof f).pkts = s.pkts := rfl
@[simp] theorem State.onProof_gates (s : State) (f : ProofSt → ProofSt) :
    (s.onProof f).gates = s.gates := rfl
@[simp] theorem State.onProof_xfers (s : State) (f : ProofSt → ProofSt) :
    (s.onProof f).xfers = s.xfers := rfl
@[simp] theorem State.onProof_nextId (s : State) (f : ProofSt → ProofSt) :
    (s.onProof f).nextId = s.nextId := rfl
@[simp] theorem State.onProof_routers (s : State) (f : ProofSt → ProofSt) :
    (s.onProof f).routers = s.routers := rfl
@[simp] theorem State.onProof_drams (s : State) (f : ProofSt → ProofSt) :
    (s.onProof f).drams = s.drams := rfl
@[simp] theorem State.onProof_sync (s : State) (f : ProofSt → ProofSt) :
    (s.onProof f).sync = s.sync := rfl
@[simp] theorem State.onProof_proof (s : State) (f : ProofSt → ProofSt) :
    (s.onProof f).proof = f s.proof := rfl
@[simp] theorem State.onProof_hold (s : State) (f : ProofSt → ProofSt) :
    (s.onProof f).hold = s.hold := rfl
@[simp] theorem State.onProof_meter (s : State) (f : ProofSt → ProofSt) :
    (s.onProof f).meter = s.meter := rfl
@[simp] theorem State.onProof_fab (s : State) (f : ProofSt → ProofSt) :
    (s.onProof f).fab = s.fab := rfl
@[simp] theorem State.onProof_ports (s : State) (f : ProofSt → ProofSt) :
    (s.onProof f).ports = s.ports := rfl
@[simp] theorem State.onProof_ctxs (s : State) (f : ProofSt → ProofSt) :
    (s.onProof f).ctxs = s.ctxs := rfl
@[simp] theorem State.onProof_images (s : State) (f : ProofSt → ProofSt) :
    (s.onProof f).images = s.images := rfl
@[simp] theorem State.onProof_onCores (s : State) (f : ProofSt → ProofSt) :
    (s.onProof f).onCores = s.onCores := rfl
@[simp] theorem State.onProof_host (s : State) (f : ProofSt → ProofSt) :
    (s.onProof f).host = s.host := rfl
@[simp] theorem State.onProof_sec (s : State) (f : ProofSt → ProofSt) :
    (s.onProof f).sec = s.sec := rfl
@[simp] theorem State.onProof_mgmt (s : State) (f : ProofSt → ProofSt) :
    (s.onProof f).mgmt = s.mgmt := rfl
@[simp] theorem State.onProof_crumb (s : State) (f : ProofSt → ProofSt) :
    (s.onProof f).crumb = s.crumb := rfl
@[simp] theorem State.onProof_obs (s : State) (f : ProofSt → ProofSt) :
    (s.onProof f).obs = s.obs := rfl
@[simp] theorem State.onProof_mon (s : State) (f : ProofSt → ProofSt) :
    (s.onProof f).mon = s.mon := rfl

/-! `State.onFab` -/

@[simp] theorem State.onFab_pending (s : State) (f : Fabric → Fabric) :
    (s.onFab f).pending = s.pending := rfl
@[simp] theorem State.onFab_now (s : State) (f : Fabric → Fabric) :
    (s.onFab f).now = s.now := rfl
@[simp] theorem State.onFab_free (s : State) (f : Fabric → Fabric) :
    (s.onFab f).free = s.free := rfl
@[simp] theorem State.onFab_cores (s : State) (f : Fabric → Fabric) :
    (s.onFab f).cores = s.cores := rfl
@[simp] theorem State.onFab_clusters (s : State) (f : Fabric → Fabric) :
    (s.onFab f).clusters = s.clusters := rfl
@[simp] theorem State.onFab_mem (s : State) (f : Fabric → Fabric) :
    (s.onFab f).mem = s.mem := rfl
@[simp] theorem State.onFab_pkts (s : State) (f : Fabric → Fabric) :
    (s.onFab f).pkts = s.pkts := rfl
@[simp] theorem State.onFab_gates (s : State) (f : Fabric → Fabric) :
    (s.onFab f).gates = s.gates := rfl
@[simp] theorem State.onFab_xfers (s : State) (f : Fabric → Fabric) :
    (s.onFab f).xfers = s.xfers := rfl
@[simp] theorem State.onFab_nextId (s : State) (f : Fabric → Fabric) :
    (s.onFab f).nextId = s.nextId := rfl
@[simp] theorem State.onFab_routers (s : State) (f : Fabric → Fabric) :
    (s.onFab f).routers = s.routers := rfl
@[simp] theorem State.onFab_drams (s : State) (f : Fabric → Fabric) :
    (s.onFab f).drams = s.drams := rfl
@[simp] theorem State.onFab_sync (s : State) (f : Fabric → Fabric) :
    (s.onFab f).sync = s.sync := rfl
@[simp] theorem State.onFab_proof (s : State) (f : Fabric → Fabric) :
    (s.onFab f).proof = s.proof := rfl
@[simp] theorem State.onFab_hold (s : State) (f : Fabric → Fabric) :
    (s.onFab f).hold = s.hold := rfl
@[simp] theorem State.onFab_meter (s : State) (f : Fabric → Fabric) :
    (s.onFab f).meter = s.meter := rfl
@[simp] theorem State.onFab_fab (s : State) (f : Fabric → Fabric) :
    (s.onFab f).fab = f s.fab := rfl
@[simp] theorem State.onFab_ports (s : State) (f : Fabric → Fabric) :
    (s.onFab f).ports = s.ports := rfl
@[simp] theorem State.onFab_ctxs (s : State) (f : Fabric → Fabric) :
    (s.onFab f).ctxs = s.ctxs := rfl
@[simp] theorem State.onFab_images (s : State) (f : Fabric → Fabric) :
    (s.onFab f).images = s.images := rfl
@[simp] theorem State.onFab_onCores (s : State) (f : Fabric → Fabric) :
    (s.onFab f).onCores = s.onCores := rfl
@[simp] theorem State.onFab_host (s : State) (f : Fabric → Fabric) :
    (s.onFab f).host = s.host := rfl
@[simp] theorem State.onFab_sec (s : State) (f : Fabric → Fabric) :
    (s.onFab f).sec = s.sec := rfl
@[simp] theorem State.onFab_mgmt (s : State) (f : Fabric → Fabric) :
    (s.onFab f).mgmt = s.mgmt := rfl
@[simp] theorem State.onFab_crumb (s : State) (f : Fabric → Fabric) :
    (s.onFab f).crumb = s.crumb := rfl
@[simp] theorem State.onFab_obs (s : State) (f : Fabric → Fabric) :
    (s.onFab f).obs = s.obs := rfl
@[simp] theorem State.onFab_mon (s : State) (f : Fabric → Fabric) :
    (s.onFab f).mon = s.mon := rfl

/-! `State.onStq` -/

@[simp] theorem State.onStq_pending (s : State) (k : Nat) (st : Station) (f : StationQ → StationQ) :
    (s.onStq k st f).pending = s.pending := rfl
@[simp] theorem State.onStq_now (s : State) (k : Nat) (st : Station) (f : StationQ → StationQ) :
    (s.onStq k st f).now = s.now := rfl
@[simp] theorem State.onStq_free (s : State) (k : Nat) (st : Station) (f : StationQ → StationQ) :
    (s.onStq k st f).free = s.free := rfl
@[simp] theorem State.onStq_cores (s : State) (k : Nat) (st : Station) (f : StationQ → StationQ) :
    (s.onStq k st f).cores = mset s.cores k { s.core k with stn := (s.core k).stn.setQ st (f ((s.core k).stn.q st)) } := rfl
@[simp] theorem State.onStq_clusters (s : State) (k : Nat) (st : Station) (f : StationQ → StationQ) :
    (s.onStq k st f).clusters = s.clusters := rfl
@[simp] theorem State.onStq_mem (s : State) (k : Nat) (st : Station) (f : StationQ → StationQ) :
    (s.onStq k st f).mem = s.mem := rfl
@[simp] theorem State.onStq_pkts (s : State) (k : Nat) (st : Station) (f : StationQ → StationQ) :
    (s.onStq k st f).pkts = s.pkts := rfl
@[simp] theorem State.onStq_gates (s : State) (k : Nat) (st : Station) (f : StationQ → StationQ) :
    (s.onStq k st f).gates = s.gates := rfl
@[simp] theorem State.onStq_xfers (s : State) (k : Nat) (st : Station) (f : StationQ → StationQ) :
    (s.onStq k st f).xfers = s.xfers := rfl
@[simp] theorem State.onStq_nextId (s : State) (k : Nat) (st : Station) (f : StationQ → StationQ) :
    (s.onStq k st f).nextId = s.nextId := rfl
@[simp] theorem State.onStq_routers (s : State) (k : Nat) (st : Station) (f : StationQ → StationQ) :
    (s.onStq k st f).routers = s.routers := rfl
@[simp] theorem State.onStq_drams (s : State) (k : Nat) (st : Station) (f : StationQ → StationQ) :
    (s.onStq k st f).drams = s.drams := rfl
@[simp] theorem State.onStq_sync (s : State) (k : Nat) (st : Station) (f : StationQ → StationQ) :
    (s.onStq k st f).sync = s.sync := rfl
@[simp] theorem State.onStq_proof (s : State) (k : Nat) (st : Station) (f : StationQ → StationQ) :
    (s.onStq k st f).proof = s.proof := rfl
@[simp] theorem State.onStq_hold (s : State) (k : Nat) (st : Station) (f : StationQ → StationQ) :
    (s.onStq k st f).hold = s.hold := rfl
@[simp] theorem State.onStq_meter (s : State) (k : Nat) (st : Station) (f : StationQ → StationQ) :
    (s.onStq k st f).meter = s.meter := rfl
@[simp] theorem State.onStq_fab (s : State) (k : Nat) (st : Station) (f : StationQ → StationQ) :
    (s.onStq k st f).fab = s.fab := rfl
@[simp] theorem State.onStq_ports (s : State) (k : Nat) (st : Station) (f : StationQ → StationQ) :
    (s.onStq k st f).ports = s.ports := rfl
@[simp] theorem State.onStq_ctxs (s : State) (k : Nat) (st : Station) (f : StationQ → StationQ) :
    (s.onStq k st f).ctxs = s.ctxs := rfl
@[simp] theorem State.onStq_images (s : State) (k : Nat) (st : Station) (f : StationQ → StationQ) :
    (s.onStq k st f).images = s.images := rfl
@[simp] theorem State.onStq_onCores (s : State) (k : Nat) (st : Station) (f : StationQ → StationQ) :
    (s.onStq k st f).onCores = s.onCores := rfl
@[simp] theorem State.onStq_host (s : State) (k : Nat) (st : Station) (f : StationQ → StationQ) :
    (s.onStq k st f).host = s.host := rfl
@[simp] theorem State.onStq_sec (s : State) (k : Nat) (st : Station) (f : StationQ → StationQ) :
    (s.onStq k st f).sec = s.sec := rfl
@[simp] theorem State.onStq_mgmt (s : State) (k : Nat) (st : Station) (f : StationQ → StationQ) :
    (s.onStq k st f).mgmt = s.mgmt := rfl
@[simp] theorem State.onStq_crumb (s : State) (k : Nat) (st : Station) (f : StationQ → StationQ) :
    (s.onStq k st f).crumb = s.crumb := rfl
@[simp] theorem State.onStq_obs (s : State) (k : Nat) (st : Station) (f : StationQ → StationQ) :
    (s.onStq k st f).obs = s.obs := rfl
@[simp] theorem State.onStq_mon (s : State) (k : Nat) (st : Station) (f : StationQ → StationQ) :
    (s.onStq k st f).mon = s.mon := rfl

/-! `State.onTrc` -/

@[simp] theorem State.onTrc_pending (s : State) (k : Nat) (f : Trace → Trace) :
    (s.onTrc k f).pending = s.pending := rfl
@[simp] theorem State.onTrc_now (s : State) (k : Nat) (f : Trace → Trace) :
    (s.onTrc k f).now = s.now := rfl
@[simp] theorem State.onTrc_free (s : State) (k : Nat) (f : Trace → Trace) :
    (s.onTrc k f).free = s.free := rfl
@[simp] theorem State.onTrc_cores (s : State) (k : Nat) (f : Trace → Trace) :
    (s.onTrc k f).cores = mset s.cores k { s.core k with trc := f (s.core k).trc } := rfl
@[simp] theorem State.onTrc_clusters (s : State) (k : Nat) (f : Trace → Trace) :
    (s.onTrc k f).clusters = s.clusters := rfl
@[simp] theorem State.onTrc_mem (s : State) (k : Nat) (f : Trace → Trace) :
    (s.onTrc k f).mem = s.mem := rfl
@[simp] theorem State.onTrc_pkts (s : State) (k : Nat) (f : Trace → Trace) :
    (s.onTrc k f).pkts = s.pkts := rfl
@[simp] theorem State.onTrc_gates (s : State) (k : Nat) (f : Trace → Trace) :
    (s.onTrc k f).gates = s.gates := rfl
@[simp] theorem State.onTrc_xfers (s : State) (k : Nat) (f : Trace → Trace) :
    (s.onTrc k f).xfers = s.xfers := rfl
@[simp] theorem State.onTrc_nextId (s : State) (k : Nat) (f : Trace → Trace) :
    (s.onTrc k f).nextId = s.nextId := rfl
@[simp] theorem State.onTrc_routers (s : State) (k : Nat) (f : Trace → Trace) :
    (s.onTrc k f).routers = s.routers := rfl
@[simp] theorem State.onTrc_drams (s : State) (k : Nat) (f : Trace → Trace) :
    (s.onTrc k f).drams = s.drams := rfl
@[simp] theorem State.onTrc_sync (s : State) (k : Nat) (f : Trace → Trace) :
    (s.onTrc k f).sync = s.sync := rfl
@[simp] theorem State.onTrc_proof (s : State) (k : Nat) (f : Trace → Trace) :
    (s.onTrc k f).proof = s.proof := rfl
@[simp] theorem State.onTrc_hold (s : State) (k : Nat) (f : Trace → Trace) :
    (s.onTrc k f).hold = s.hold := rfl
@[simp] theorem State.onTrc_meter (s : State) (k : Nat) (f : Trace → Trace) :
    (s.onTrc k f).meter = s.meter := rfl
@[simp] theorem State.onTrc_fab (s : State) (k : Nat) (f : Trace → Trace) :
    (s.onTrc k f).fab = s.fab := rfl
@[simp] theorem State.onTrc_ports (s : State) (k : Nat) (f : Trace → Trace) :
    (s.onTrc k f).ports = s.ports := rfl
@[simp] theorem State.onTrc_ctxs (s : State) (k : Nat) (f : Trace → Trace) :
    (s.onTrc k f).ctxs = s.ctxs := rfl
@[simp] theorem State.onTrc_images (s : State) (k : Nat) (f : Trace → Trace) :
    (s.onTrc k f).images = s.images := rfl
@[simp] theorem State.onTrc_onCores (s : State) (k : Nat) (f : Trace → Trace) :
    (s.onTrc k f).onCores = s.onCores := rfl
@[simp] theorem State.onTrc_host (s : State) (k : Nat) (f : Trace → Trace) :
    (s.onTrc k f).host = s.host := rfl
@[simp] theorem State.onTrc_sec (s : State) (k : Nat) (f : Trace → Trace) :
    (s.onTrc k f).sec = s.sec := rfl
@[simp] theorem State.onTrc_mgmt (s : State) (k : Nat) (f : Trace → Trace) :
    (s.onTrc k f).mgmt = s.mgmt := rfl
@[simp] theorem State.onTrc_crumb (s : State) (k : Nat) (f : Trace → Trace) :
    (s.onTrc k f).crumb = s.crumb := rfl
@[simp] theorem State.onTrc_obs (s : State) (k : Nat) (f : Trace → Trace) :
    (s.onTrc k f).obs = s.obs := rfl
@[simp] theorem State.onTrc_mon (s : State) (k : Nat) (f : Trace → Trace) :
    (s.onTrc k f).mon = s.mon := rfl

/-! `State.putRow` -/

@[simp] theorem State.putRow_pending (s : State) (c r : Nat) (d : Bytes) :
    (s.putRow c r d).pending = s.pending := rfl
@[simp] theorem State.putRow_now (s : State) (c r : Nat) (d : Bytes) :
    (s.putRow c r d).now = s.now := rfl
@[simp] theorem State.putRow_free (s : State) (c r : Nat) (d : Bytes) :
    (s.putRow c r d).free = s.free := rfl
@[simp] theorem State.putRow_cores (s : State) (c r : Nat) (d : Bytes) :
    (s.putRow c r d).cores = s.cores := rfl
@[simp] theorem State.putRow_clusters (s : State) (c r : Nat) (d : Bytes) :
    (s.putRow c r d).clusters = s.clusters := rfl
@[simp] theorem State.putRow_mem (s : State) (c r : Nat) (d : Bytes) :
    (s.putRow c r d).mem = memWrite s.mem (rowAddr c r) d := rfl
@[simp] theorem State.putRow_pkts (s : State) (c r : Nat) (d : Bytes) :
    (s.putRow c r d).pkts = s.pkts := rfl
@[simp] theorem State.putRow_gates (s : State) (c r : Nat) (d : Bytes) :
    (s.putRow c r d).gates = s.gates := rfl
@[simp] theorem State.putRow_xfers (s : State) (c r : Nat) (d : Bytes) :
    (s.putRow c r d).xfers = s.xfers := rfl
@[simp] theorem State.putRow_nextId (s : State) (c r : Nat) (d : Bytes) :
    (s.putRow c r d).nextId = s.nextId := rfl
@[simp] theorem State.putRow_routers (s : State) (c r : Nat) (d : Bytes) :
    (s.putRow c r d).routers = s.routers := rfl
@[simp] theorem State.putRow_drams (s : State) (c r : Nat) (d : Bytes) :
    (s.putRow c r d).drams = s.drams := rfl
@[simp] theorem State.putRow_sync (s : State) (c r : Nat) (d : Bytes) :
    (s.putRow c r d).sync = s.sync := rfl
@[simp] theorem State.putRow_proof (s : State) (c r : Nat) (d : Bytes) :
    (s.putRow c r d).proof = s.proof := rfl
@[simp] theorem State.putRow_hold (s : State) (c r : Nat) (d : Bytes) :
    (s.putRow c r d).hold = s.hold := rfl
@[simp] theorem State.putRow_meter (s : State) (c r : Nat) (d : Bytes) :
    (s.putRow c r d).meter = s.meter := rfl
@[simp] theorem State.putRow_fab (s : State) (c r : Nat) (d : Bytes) :
    (s.putRow c r d).fab = s.fab := rfl
@[simp] theorem State.putRow_ports (s : State) (c r : Nat) (d : Bytes) :
    (s.putRow c r d).ports = s.ports := rfl
@[simp] theorem State.putRow_ctxs (s : State) (c r : Nat) (d : Bytes) :
    (s.putRow c r d).ctxs = s.ctxs := rfl
@[simp] theorem State.putRow_images (s : State) (c r : Nat) (d : Bytes) :
    (s.putRow c r d).images = s.images := rfl
@[simp] theorem State.putRow_onCores (s : State) (c r : Nat) (d : Bytes) :
    (s.putRow c r d).onCores = s.onCores := rfl
@[simp] theorem State.putRow_host (s : State) (c r : Nat) (d : Bytes) :
    (s.putRow c r d).host = s.host := rfl
@[simp] theorem State.putRow_sec (s : State) (c r : Nat) (d : Bytes) :
    (s.putRow c r d).sec = s.sec := rfl
@[simp] theorem State.putRow_mgmt (s : State) (c r : Nat) (d : Bytes) :
    (s.putRow c r d).mgmt = s.mgmt := rfl
@[simp] theorem State.putRow_crumb (s : State) (c r : Nat) (d : Bytes) :
    (s.putRow c r d).crumb = s.crumb := rfl
@[simp] theorem State.putRow_obs (s : State) (c r : Nat) (d : Bytes) :
    (s.putRow c r d).obs = s.obs := rfl
@[simp] theorem State.putRow_mon (s : State) (c r : Nat) (d : Bytes) :
    (s.putRow c r d).mon = s.mon := rfl

/-! `State.drawFree` -/

@[simp] theorem State.drawFree_pending (s : State) :
    (s.drawFree.2).pending = s.pending := rfl
@[simp] theorem State.drawFree_now (s : State) :
    (s.drawFree.2).now = s.now := rfl
@[simp] theorem State.drawFree_free (s : State) :
    (s.drawFree.2).free = s.free + 1 := rfl
@[simp] theorem State.drawFree_cores (s : State) :
    (s.drawFree.2).cores = s.cores := rfl
@[simp] theorem State.drawFree_clusters (s : State) :
    (s.drawFree.2).clusters = s.clusters := rfl
@[simp] theorem State.drawFree_mem (s : State) :
    (s.drawFree.2).mem = s.mem := rfl
@[simp] theorem State.drawFree_pkts (s : State) :
    (s.drawFree.2).pkts = s.pkts := rfl
@[simp] theorem State.drawFree_gates (s : State) :
    (s.drawFree.2).gates = s.gates := rfl
@[simp] theorem State.drawFree_xfers (s : State) :
    (s.drawFree.2).xfers = s.xfers := rfl
@[simp] theorem State.drawFree_nextId (s : State) :
    (s.drawFree.2).nextId = s.nextId := rfl
@[simp] theorem State.drawFree_routers (s : State) :
    (s.drawFree.2).routers = s.routers := rfl
@[simp] theorem State.drawFree_drams (s : State) :
    (s.drawFree.2).drams = s.drams := rfl
@[simp] theorem State.drawFree_sync (s : State) :
    (s.drawFree.2).sync = s.sync := rfl
@[simp] theorem State.drawFree_proof (s : State) :
    (s.drawFree.2).proof = s.proof := rfl
@[simp] theorem State.drawFree_hold (s : State) :
    (s.drawFree.2).hold = s.hold := rfl
@[simp] theorem State.drawFree_meter (s : State) :
    (s.drawFree.2).meter = s.meter := rfl
@[simp] theorem State.drawFree_fab (s : State) :
    (s.drawFree.2).fab = s.fab := rfl
@[simp] theorem State.drawFree_ports (s : State) :
    (s.drawFree.2).ports = s.ports := rfl
@[simp] theorem State.drawFree_ctxs (s : State) :
    (s.drawFree.2).ctxs = s.ctxs := rfl
@[simp] theorem State.drawFree_images (s : State) :
    (s.drawFree.2).images = s.images := rfl
@[simp] theorem State.drawFree_onCores (s : State) :
    (s.drawFree.2).onCores = s.onCores := rfl
@[simp] theorem State.drawFree_host (s : State) :
    (s.drawFree.2).host = s.host := rfl
@[simp] theorem State.drawFree_sec (s : State) :
    (s.drawFree.2).sec = s.sec := rfl
@[simp] theorem State.drawFree_mgmt (s : State) :
    (s.drawFree.2).mgmt = s.mgmt := rfl
@[simp] theorem State.drawFree_crumb (s : State) :
    (s.drawFree.2).crumb = s.crumb := rfl
@[simp] theorem State.drawFree_obs (s : State) :
    (s.drawFree.2).obs = s.obs := rfl
@[simp] theorem State.drawFree_mon (s : State) :
    (s.drawFree.2).mon = s.mon := rfl

/-! `State.fresh` -/

@[simp] theorem State.fresh_pending (s : State) :
    (s.fresh.2).pending = s.pending := rfl
@[simp] theorem State.fresh_now (s : State) :
    (s.fresh.2).now = s.now := rfl
@[simp] theorem State.fresh_free (s : State) :
    (s.fresh.2).free = s.free := rfl
@[simp] theorem State.fresh_cores (s : State) :
    (s.fresh.2).cores = s.cores := rfl
@[simp] theorem State.fresh_clusters (s : State) :
    (s.fresh.2).clusters = s.clusters := rfl
@[simp] theorem State.fresh_mem (s : State) :
    (s.fresh.2).mem = s.mem := rfl
@[simp] theorem State.fresh_pkts (s : State) :
    (s.fresh.2).pkts = s.pkts := rfl
@[simp] theorem State.fresh_gates (s : State) :
    (s.fresh.2).gates = s.gates := rfl
@[simp] theorem State.fresh_xfers (s : State) :
    (s.fresh.2).xfers = s.xfers := rfl
@[simp] theorem State.fresh_nextId (s : State) :
    (s.fresh.2).nextId = s.nextId + 1 := rfl
@[simp] theorem State.fresh_routers (s : State) :
    (s.fresh.2).routers = s.routers := rfl
@[simp] theorem State.fresh_drams (s : State) :
    (s.fresh.2).drams = s.drams := rfl
@[simp] theorem State.fresh_sync (s : State) :
    (s.fresh.2).sync = s.sync := rfl
@[simp] theorem State.fresh_proof (s : State) :
    (s.fresh.2).proof = s.proof := rfl
@[simp] theorem State.fresh_hold (s : State) :
    (s.fresh.2).hold = s.hold := rfl
@[simp] theorem State.fresh_meter (s : State) :
    (s.fresh.2).meter = s.meter := rfl
@[simp] theorem State.fresh_fab (s : State) :
    (s.fresh.2).fab = s.fab := rfl
@[simp] theorem State.fresh_ports (s : State) :
    (s.fresh.2).ports = s.ports := rfl
@[simp] theorem State.fresh_ctxs (s : State) :
    (s.fresh.2).ctxs = s.ctxs := rfl
@[simp] theorem State.fresh_images (s : State) :
    (s.fresh.2).images = s.images := rfl
@[simp] theorem State.fresh_onCores (s : State) :
    (s.fresh.2).onCores = s.onCores := rfl
@[simp] theorem State.fresh_host (s : State) :
    (s.fresh.2).host = s.host := rfl
@[simp] theorem State.fresh_sec (s : State) :
    (s.fresh.2).sec = s.sec := rfl
@[simp] theorem State.fresh_mgmt (s : State) :
    (s.fresh.2).mgmt = s.mgmt := rfl
@[simp] theorem State.fresh_crumb (s : State) :
    (s.fresh.2).crumb = s.crumb := rfl
@[simp] theorem State.fresh_obs (s : State) :
    (s.fresh.2).obs = s.obs := rfl
@[simp] theorem State.fresh_mon (s : State) :
    (s.fresh.2).mon = s.mon := rfl

/-! ### Accessors after writes -/

/-- A core reads as it was put. -/
theorem State.core_setCore (s : State) (j k : Nat) (c : Core) :
    (s.setCore k c).core j = if j = k then c else s.core j := by
  simp [State.core, State.setCore, mget_mset]

@[simp] theorem State.core_setCore_self (s : State) (k : Nat) (c : Core) : (s.setCore k c).core k = c := by
  simp [State.core_setCore]

theorem State.core_onCore (s : State) (j k : Nat) (f : Core → Core) :
    (s.onCore k f).core j = if j = k then f (s.core k) else s.core j := by
  simp [State.onCore, State.core_setCore]

@[simp] theorem State.core_onCore_self (s : State) (k : Nat) (f : Core → Core) : (s.onCore k f).core k = f (s.core k) := by
  simp [State.core_onCore]

theorem State.core_onCore_ne (s : State) {j k : Nat} (f : Core → Core) (h : j ≠ k) : (s.onCore k f).core j = s.core j := by
  simp [State.core_onCore, h]

@[simp] theorem State.core_onSeq_self (s : State) (k : Nat) (f : Seq → Seq) :
    (s.onSeq k f).core k = { s.core k with seq := f (s.core k).seq } := by
  simp [State.onSeq]

theorem State.core_onSeq_ne (s : State) {j k : Nat} (f : Seq → Seq) (h : j ≠ k) : (s.onSeq k f).core j = s.core j := by
  simp [State.onSeq, State.core_onCore_ne _ _ h]

@[simp] theorem State.core_onTrc_self (s : State) (k : Nat) (f : Trace → Trace) :
    (s.onTrc k f).core k = { s.core k with trc := f (s.core k).trc } := by
  simp [State.onTrc]

theorem State.core_onTrc_ne (s : State) {j k : Nat} (f : Trace → Trace) (h : j ≠ k) :
    (s.onTrc k f).core j = s.core j := by
  simp [State.onTrc, State.core_onCore_ne _ _ h]

@[simp] theorem State.core_onStq_self (s : State) (k : Nat) (st : Station) (f : StationQ → StationQ) :
    (s.onStq k st f).core k = { s.core k with stn := (s.core k).stn.setQ st (f ((s.core k).stn.q st)) } := by
  simp [State.onStq]

@[simp] theorem Stations.q_setQ_self (x : Stations) (st : Station) (q : StationQ) : (x.setQ st q).q st = q := by
  cases st <;> rfl

theorem Stations.q_setQ_ne (x : Stations) {st st' : Station} (q : StationQ) (h : st' ≠ st) :
    (x.setQ st q).q st' = x.q st' := by
  cases st <;> cases st' <;> first | rfl | exact absurd rfl h

@[simp] theorem State.stq_onStq_self (s : State) (k : Nat) (st : Station) (f : StationQ → StationQ) :
    (s.onStq k st f).stq k st = f (s.stq k st) := by
  simp [State.stq]

/-- Two writes of one core are one. -/
theorem State.setCore_setCore (s : State) (k : Nat) (c d : Core) : (s.setCore k c).setCore k d = s.setCore k d := by
  simp [State.setCore]

theorem State.onCore_onCore (s : State) (k : Nat) (f g : Core → Core) :
    (s.onCore k f).onCore k g = s.onCore k (g ∘ f) := by
  simp [State.onCore, State.setCore_setCore]

theorem State.cluster_onCluster (s : State) (j c : Nat) (f : Cluster → Cluster) :
    (s.onCluster c f).cluster j = if j = c then f (s.cluster c) else s.cluster j := by
  simp [State.cluster, State.onCluster, State.setCluster, mget_mset]

@[simp] theorem State.cluster_onCluster_self (s : State) (c : Nat) (f : Cluster → Cluster) :
    (s.onCluster c f).cluster c = f (s.cluster c) := by
  simp [State.cluster_onCluster]

theorem State.ctx_onCtx (s : State) (j i : Nat) (f : Ctx → Ctx) :
    (s.onCtx i f).ctx j = if j = i then f (s.ctx i) else s.ctx j := by
  simp [State.ctx, State.onCtx, mmod, mget_mset]

@[simp] theorem State.ctx_onCtx_self (s : State) (i : Nat) (f : Ctx → Ctx) : (s.onCtx i f).ctx i = f (s.ctx i) := by
  simp [State.ctx_onCtx]

theorem State.port_onPort (s : State) (j p : Nat) (f : Port → Port) :
    (s.onPort p f).port j = if j = p then f (s.port p) else s.port j := by
  simp [State.port, State.onPort, mmod, mget_mset]

@[simp] theorem State.port_onPort_self (s : State) (p : Nat) (f : Port → Port) : (s.onPort p f).port p = f (s.port p) := by
  simp [State.port_onPort]

theorem State.stack_onStack (s : State) (j i : Nat) (f : Stack → Stack) :
    (s.onStack i f).stack j = if j = i then f (s.stack i) else s.stack j := by
  simp [State.stack, State.onStack, mmod, mget_mset]

@[simp] theorem State.stack_onStack_self (s : State) (i : Nat) (f : Stack → Stack) :
    (s.onStack i f).stack i = f (s.stack i) := by
  simp [State.stack_onStack]

/-- A write of a row leaves every byte outside the row as it was. -/
theorem State.read_putRow_out (s : State) (c r : Nat) (d : Bytes) (x : Nat)
    (h : x < rowAddr c r ∨ rowAddr c r + d.length ≤ x) : memRead (s.putRow c r d).mem x = memRead s.mem x := by
  simp [memRead_memWrite_out _ _ _ _ h]

/-! ### Accessors beside a write of another part -/

@[simp] theorem State.cluster_setCore (s : State) (k : Nat) (c : Core) (j : Nat) :
    (s.setCore k c).cluster j = s.cluster j := rfl
@[simp] theorem State.ctx_setCore (s : State) (k : Nat) (c : Core) (j : Nat) :
    (s.setCore k c).ctx j = s.ctx j := rfl
@[simp] theorem State.port_setCore (s : State) (k : Nat) (c : Core) (j : Nat) :
    (s.setCore k c).port j = s.port j := rfl
@[simp] theorem State.stack_setCore (s : State) (k : Nat) (c : Core) (j : Nat) :
    (s.setCore k c).stack j = s.stack j := rfl
@[simp] theorem State.coreMap_setCore (s : State) (k : Nat) (c : Core) :
    (s.setCore k c).coreMap = s.coreMap := rfl
@[simp] theorem State.clusterOf_setCore (s : State) (k : Nat) (c : Core) (j : Nat) :
    (s.setCore k c).clusterOf j = s.clusterOf j := rfl
@[simp] theorem State.allCores_setCore (s : State) (k : Nat) (c : Core) :
    (s.setCore k c).allCores = s.allCores := rfl
@[simp] theorem State.enabled_setCore (s : State) (k : Nat) (c : Core) :
    (s.setCore k c).enabled = s.enabled := rfl
@[simp] theorem State.frozen_setCore (s : State) (k : Nat) (c : Core) (j : Nat) :
    (s.setCore k c).frozen j = s.frozen j := rfl
@[simp] theorem State.ticks_setCore (s : State) (k : Nat) (c : Core) (j : Nat) :
    (s.setCore k c).ticks j = s.ticks j := rfl
@[simp] theorem State.coreTick_setCore (s : State) (k : Nat) (c : Core) (j : Nat) :
    (s.setCore k c).coreTick j = s.coreTick j := rfl
@[simp] theorem State.coreFrozen_setCore (s : State) (k : Nat) (c : Core) (j : Nat) :
    (s.setCore k c).coreFrozen j = s.coreFrozen j := rfl
@[simp] theorem State.cur_setCore (s : State) (k : Nat) (c : Core) :
    (s.setCore k c).cur = s.cur := rfl
@[simp] theorem State.curCtx_setCore (s : State) (k : Nat) (c : Core) :
    (s.setCore k c).curCtx = s.curCtx := rfl
@[simp] theorem State.superstep_setCore (s : State) (k : Nat) (c : Core) :
    (s.setCore k c).superstep = s.superstep := rfl
@[simp] theorem State.debugJob_setCore (s : State) (k : Nat) (c : Core) :
    (s.setCore k c).debugJob = s.debugJob := rfl
@[simp] theorem State.sealedJob_setCore (s : State) (k : Nat) (c : Core) :
    (s.setCore k c).sealedJob = s.sealedJob := rfl
@[simp] theorem State.traced_setCore (s : State) (k : Nat) (c : Core) :
    (s.setCore k c).traced = s.traced := rfl

@[simp] theorem State.cluster_onCore (s : State) (k : Nat) (f : Core → Core) (j : Nat) :
    (s.onCore k f).cluster j = s.cluster j := rfl
@[simp] theorem State.ctx_onCore (s : State) (k : Nat) (f : Core → Core) (j : Nat) :
    (s.onCore k f).ctx j = s.ctx j := rfl
@[simp] theorem State.port_onCore (s : State) (k : Nat) (f : Core → Core) (j : Nat) :
    (s.onCore k f).port j = s.port j := rfl
@[simp] theorem State.stack_onCore (s : State) (k : Nat) (f : Core → Core) (j : Nat) :
    (s.onCore k f).stack j = s.stack j := rfl
@[simp] theorem State.coreMap_onCore (s : State) (k : Nat) (f : Core → Core) :
    (s.onCore k f).coreMap = s.coreMap := rfl
@[simp] theorem State.clusterOf_onCore (s : State) (k : Nat) (f : Core → Core) (j : Nat) :
    (s.onCore k f).clusterOf j = s.clusterOf j := rfl
@[simp] theorem State.allCores_onCore (s : State) (k : Nat) (f : Core → Core) :
    (s.onCore k f).allCores = s.allCores := rfl
@[simp] theorem State.enabled_onCore (s : State) (k : Nat) (f : Core → Core) :
    (s.onCore k f).enabled = s.enabled := rfl
@[simp] theorem State.frozen_onCore (s : State) (k : Nat) (f : Core → Core) (j : Nat) :
    (s.onCore k f).frozen j = s.frozen j := rfl
@[simp] theorem State.ticks_onCore (s : State) (k : Nat) (f : Core → Core) (j : Nat) :
    (s.onCore k f).ticks j = s.ticks j := rfl
@[simp] theorem State.coreTick_onCore (s : State) (k : Nat) (f : Core → Core) (j : Nat) :
    (s.onCore k f).coreTick j = s.coreTick j := rfl
@[simp] theorem State.coreFrozen_onCore (s : State) (k : Nat) (f : Core → Core) (j : Nat) :
    (s.onCore k f).coreFrozen j = s.coreFrozen j := rfl
@[simp] theorem State.cur_onCore (s : State) (k : Nat) (f : Core → Core) :
    (s.onCore k f).cur = s.cur := rfl
@[simp] theorem State.curCtx_onCore (s : State) (k : Nat) (f : Core → Core) :
    (s.onCore k f).curCtx = s.curCtx := rfl
@[simp] theorem State.superstep_onCore (s : State) (k : Nat) (f : Core → Core) :
    (s.onCore k f).superstep = s.superstep := rfl
@[simp] theorem State.debugJob_onCore (s : State) (k : Nat) (f : Core → Core) :
    (s.onCore k f).debugJob = s.debugJob := rfl
@[simp] theorem State.sealedJob_onCore (s : State) (k : Nat) (f : Core → Core) :
    (s.onCore k f).sealedJob = s.sealedJob := rfl
@[simp] theorem State.traced_onCore (s : State) (k : Nat) (f : Core → Core) :
    (s.onCore k f).traced = s.traced := rfl

@[simp] theorem State.cluster_onSeq (s : State) (k : Nat) (f : Seq → Seq) (j : Nat) :
    (s.onSeq k f).cluster j = s.cluster j := rfl
@[simp] theorem State.ctx_onSeq (s : State) (k : Nat) (f : Seq → Seq) (j : Nat) :
    (s.onSeq k f).ctx j = s.ctx j := rfl
@[simp] theorem State.port_onSeq (s : State) (k : Nat) (f : Seq → Seq) (j : Nat) :
    (s.onSeq k f).port j = s.port j := rfl
@[simp] theorem State.stack_onSeq (s : State) (k : Nat) (f : Seq → Seq) (j : Nat) :
    (s.onSeq k f).stack j = s.stack j := rfl
@[simp] theorem State.coreMap_onSeq (s : State) (k : Nat) (f : Seq → Seq) :
    (s.onSeq k f).coreMap = s.coreMap := rfl
@[simp] theorem State.clusterOf_onSeq (s : State) (k : Nat) (f : Seq → Seq) (j : Nat) :
    (s.onSeq k f).clusterOf j = s.clusterOf j := rfl
@[simp] theorem State.allCores_onSeq (s : State) (k : Nat) (f : Seq → Seq) :
    (s.onSeq k f).allCores = s.allCores := rfl
@[simp] theorem State.enabled_onSeq (s : State) (k : Nat) (f : Seq → Seq) :
    (s.onSeq k f).enabled = s.enabled := rfl
@[simp] theorem State.frozen_onSeq (s : State) (k : Nat) (f : Seq → Seq) (j : Nat) :
    (s.onSeq k f).frozen j = s.frozen j := rfl
@[simp] theorem State.ticks_onSeq (s : State) (k : Nat) (f : Seq → Seq) (j : Nat) :
    (s.onSeq k f).ticks j = s.ticks j := rfl
@[simp] theorem State.coreTick_onSeq (s : State) (k : Nat) (f : Seq → Seq) (j : Nat) :
    (s.onSeq k f).coreTick j = s.coreTick j := rfl
@[simp] theorem State.coreFrozen_onSeq (s : State) (k : Nat) (f : Seq → Seq) (j : Nat) :
    (s.onSeq k f).coreFrozen j = s.coreFrozen j := rfl
@[simp] theorem State.cur_onSeq (s : State) (k : Nat) (f : Seq → Seq) :
    (s.onSeq k f).cur = s.cur := rfl
@[simp] theorem State.curCtx_onSeq (s : State) (k : Nat) (f : Seq → Seq) :
    (s.onSeq k f).curCtx = s.curCtx := rfl
@[simp] theorem State.superstep_onSeq (s : State) (k : Nat) (f : Seq → Seq) :
    (s.onSeq k f).superstep = s.superstep := rfl
@[simp] theorem State.debugJob_onSeq (s : State) (k : Nat) (f : Seq → Seq) :
    (s.onSeq k f).debugJob = s.debugJob := rfl
@[simp] theorem State.sealedJob_onSeq (s : State) (k : Nat) (f : Seq → Seq) :
    (s.onSeq k f).sealedJob = s.sealedJob := rfl
@[simp] theorem State.traced_onSeq (s : State) (k : Nat) (f : Seq → Seq) :
    (s.onSeq k f).traced = s.traced := rfl

@[simp] theorem State.core_setCluster (s : State) (c : Nat) (x : Cluster) (j : Nat) :
    (s.setCluster c x).core j = s.core j := rfl
@[simp] theorem State.ctx_setCluster (s : State) (c : Nat) (x : Cluster) (j : Nat) :
    (s.setCluster c x).ctx j = s.ctx j := rfl
@[simp] theorem State.port_setCluster (s : State) (c : Nat) (x : Cluster) (j : Nat) :
    (s.setCluster c x).port j = s.port j := rfl
@[simp] theorem State.stack_setCluster (s : State) (c : Nat) (x : Cluster) (j : Nat) :
    (s.setCluster c x).stack j = s.stack j := rfl
@[simp] theorem State.coreMap_setCluster (s : State) (c : Nat) (x : Cluster) :
    (s.setCluster c x).coreMap = s.coreMap := rfl
@[simp] theorem State.clusterOf_setCluster (s : State) (c : Nat) (x : Cluster) (j : Nat) :
    (s.setCluster c x).clusterOf j = s.clusterOf j := rfl
@[simp] theorem State.allCores_setCluster (s : State) (c : Nat) (x : Cluster) :
    (s.setCluster c x).allCores = s.allCores := rfl
@[simp] theorem State.enabled_setCluster (s : State) (c : Nat) (x : Cluster) :
    (s.setCluster c x).enabled = s.enabled := rfl
@[simp] theorem State.frozen_setCluster (s : State) (c : Nat) (x : Cluster) (j : Nat) :
    (s.setCluster c x).frozen j = s.frozen j := rfl
@[simp] theorem State.ticks_setCluster (s : State) (c : Nat) (x : Cluster) (j : Nat) :
    (s.setCluster c x).ticks j = s.ticks j := rfl
@[simp] theorem State.coreTick_setCluster (s : State) (c : Nat) (x : Cluster) (j : Nat) :
    (s.setCluster c x).coreTick j = s.coreTick j := rfl
@[simp] theorem State.coreFrozen_setCluster (s : State) (c : Nat) (x : Cluster) (j : Nat) :
    (s.setCluster c x).coreFrozen j = s.coreFrozen j := rfl
@[simp] theorem State.cur_setCluster (s : State) (c : Nat) (x : Cluster) :
    (s.setCluster c x).cur = s.cur := rfl
@[simp] theorem State.curCtx_setCluster (s : State) (c : Nat) (x : Cluster) :
    (s.setCluster c x).curCtx = s.curCtx := rfl
@[simp] theorem State.superstep_setCluster (s : State) (c : Nat) (x : Cluster) :
    (s.setCluster c x).superstep = s.superstep := rfl
@[simp] theorem State.debugJob_setCluster (s : State) (c : Nat) (x : Cluster) :
    (s.setCluster c x).debugJob = s.debugJob := rfl
@[simp] theorem State.sealedJob_setCluster (s : State) (c : Nat) (x : Cluster) :
    (s.setCluster c x).sealedJob = s.sealedJob := rfl
@[simp] theorem State.traced_setCluster (s : State) (c : Nat) (x : Cluster) :
    (s.setCluster c x).traced = s.traced := rfl

@[simp] theorem State.core_onCluster (s : State) (c : Nat) (f : Cluster → Cluster) (j : Nat) :
    (s.onCluster c f).core j = s.core j := rfl
@[simp] theorem State.ctx_onCluster (s : State) (c : Nat) (f : Cluster → Cluster) (j : Nat) :
    (s.onCluster c f).ctx j = s.ctx j := rfl
@[simp] theorem State.port_onCluster (s : State) (c : Nat) (f : Cluster → Cluster) (j : Nat) :
    (s.onCluster c f).port j = s.port j := rfl
@[simp] theorem State.stack_onCluster (s : State) (c : Nat) (f : Cluster → Cluster) (j : Nat) :
    (s.onCluster c f).stack j = s.stack j := rfl
@[simp] theorem State.coreMap_onCluster (s : State) (c : Nat) (f : Cluster → Cluster) :
    (s.onCluster c f).coreMap = s.coreMap := rfl
@[simp] theorem State.clusterOf_onCluster (s : State) (c : Nat) (f : Cluster → Cluster) (j : Nat) :
    (s.onCluster c f).clusterOf j = s.clusterOf j := rfl
@[simp] theorem State.allCores_onCluster (s : State) (c : Nat) (f : Cluster → Cluster) :
    (s.onCluster c f).allCores = s.allCores := rfl
@[simp] theorem State.enabled_onCluster (s : State) (c : Nat) (f : Cluster → Cluster) :
    (s.onCluster c f).enabled = s.enabled := rfl
@[simp] theorem State.frozen_onCluster (s : State) (c : Nat) (f : Cluster → Cluster) (j : Nat) :
    (s.onCluster c f).frozen j = s.frozen j := rfl
@[simp] theorem State.ticks_onCluster (s : State) (c : Nat) (f : Cluster → Cluster) (j : Nat) :
    (s.onCluster c f).ticks j = s.ticks j := rfl
@[simp] theorem State.coreTick_onCluster (s : State) (c : Nat) (f : Cluster → Cluster) (j : Nat) :
    (s.onCluster c f).coreTick j = s.coreTick j := rfl
@[simp] theorem State.coreFrozen_onCluster (s : State) (c : Nat) (f : Cluster → Cluster) (j : Nat) :
    (s.onCluster c f).coreFrozen j = s.coreFrozen j := rfl
@[simp] theorem State.cur_onCluster (s : State) (c : Nat) (f : Cluster → Cluster) :
    (s.onCluster c f).cur = s.cur := rfl
@[simp] theorem State.curCtx_onCluster (s : State) (c : Nat) (f : Cluster → Cluster) :
    (s.onCluster c f).curCtx = s.curCtx := rfl
@[simp] theorem State.superstep_onCluster (s : State) (c : Nat) (f : Cluster → Cluster) :
    (s.onCluster c f).superstep = s.superstep := rfl
@[simp] theorem State.debugJob_onCluster (s : State) (c : Nat) (f : Cluster → Cluster) :
    (s.onCluster c f).debugJob = s.debugJob := rfl
@[simp] theorem State.sealedJob_onCluster (s : State) (c : Nat) (f : Cluster → Cluster) :
    (s.onCluster c f).sealedJob = s.sealedJob := rfl
@[simp] theorem State.traced_onCluster (s : State) (c : Nat) (f : Cluster → Cluster) :
    (s.onCluster c f).traced = s.traced := rfl

@[simp] theorem State.core_onCtx (s : State) (i : Nat) (f : Ctx → Ctx) (j : Nat) :
    (s.onCtx i f).core j = s.core j := rfl
@[simp] theorem State.cluster_onCtx (s : State) (i : Nat) (f : Ctx → Ctx) (j : Nat) :
    (s.onCtx i f).cluster j = s.cluster j := rfl
@[simp] theorem State.port_onCtx (s : State) (i : Nat) (f : Ctx → Ctx) (j : Nat) :
    (s.onCtx i f).port j = s.port j := rfl
@[simp] theorem State.stack_onCtx (s : State) (i : Nat) (f : Ctx → Ctx) (j : Nat) :
    (s.onCtx i f).stack j = s.stack j := rfl
@[simp] theorem State.coreMap_onCtx (s : State) (i : Nat) (f : Ctx → Ctx) :
    (s.onCtx i f).coreMap = s.coreMap := rfl
@[simp] theorem State.clusterOf_onCtx (s : State) (i : Nat) (f : Ctx → Ctx) (j : Nat) :
    (s.onCtx i f).clusterOf j = s.clusterOf j := rfl
@[simp] theorem State.allCores_onCtx (s : State) (i : Nat) (f : Ctx → Ctx) :
    (s.onCtx i f).allCores = s.allCores := rfl
@[simp] theorem State.enabled_onCtx (s : State) (i : Nat) (f : Ctx → Ctx) :
    (s.onCtx i f).enabled = s.enabled := rfl
@[simp] theorem State.frozen_onCtx (s : State) (i : Nat) (f : Ctx → Ctx) (j : Nat) :
    (s.onCtx i f).frozen j = s.frozen j := rfl
@[simp] theorem State.ticks_onCtx (s : State) (i : Nat) (f : Ctx → Ctx) (j : Nat) :
    (s.onCtx i f).ticks j = s.ticks j := rfl
@[simp] theorem State.coreTick_onCtx (s : State) (i : Nat) (f : Ctx → Ctx) (j : Nat) :
    (s.onCtx i f).coreTick j = s.coreTick j := rfl
@[simp] theorem State.coreFrozen_onCtx (s : State) (i : Nat) (f : Ctx → Ctx) (j : Nat) :
    (s.onCtx i f).coreFrozen j = s.coreFrozen j := rfl

@[simp] theorem State.core_onPort (s : State) (p : Nat) (f : Port → Port) (j : Nat) :
    (s.onPort p f).core j = s.core j := rfl
@[simp] theorem State.cluster_onPort (s : State) (p : Nat) (f : Port → Port) (j : Nat) :
    (s.onPort p f).cluster j = s.cluster j := rfl
@[simp] theorem State.ctx_onPort (s : State) (p : Nat) (f : Port → Port) (j : Nat) :
    (s.onPort p f).ctx j = s.ctx j := rfl
@[simp] theorem State.stack_onPort (s : State) (p : Nat) (f : Port → Port) (j : Nat) :
    (s.onPort p f).stack j = s.stack j := rfl
@[simp] theorem State.coreMap_onPort (s : State) (p : Nat) (f : Port → Port) :
    (s.onPort p f).coreMap = s.coreMap := rfl
@[simp] theorem State.clusterOf_onPort (s : State) (p : Nat) (f : Port → Port) (j : Nat) :
    (s.onPort p f).clusterOf j = s.clusterOf j := rfl
@[simp] theorem State.allCores_onPort (s : State) (p : Nat) (f : Port → Port) :
    (s.onPort p f).allCores = s.allCores := rfl
@[simp] theorem State.enabled_onPort (s : State) (p : Nat) (f : Port → Port) :
    (s.onPort p f).enabled = s.enabled := rfl
@[simp] theorem State.frozen_onPort (s : State) (p : Nat) (f : Port → Port) (j : Nat) :
    (s.onPort p f).frozen j = s.frozen j := rfl
@[simp] theorem State.ticks_onPort (s : State) (p : Nat) (f : Port → Port) (j : Nat) :
    (s.onPort p f).ticks j = s.ticks j := rfl
@[simp] theorem State.coreTick_onPort (s : State) (p : Nat) (f : Port → Port) (j : Nat) :
    (s.onPort p f).coreTick j = s.coreTick j := rfl
@[simp] theorem State.coreFrozen_onPort (s : State) (p : Nat) (f : Port → Port) (j : Nat) :
    (s.onPort p f).coreFrozen j = s.coreFrozen j := rfl
@[simp] theorem State.cur_onPort (s : State) (p : Nat) (f : Port → Port) :
    (s.onPort p f).cur = s.cur := rfl
@[simp] theorem State.curCtx_onPort (s : State) (p : Nat) (f : Port → Port) :
    (s.onPort p f).curCtx = s.curCtx := rfl
@[simp] theorem State.superstep_onPort (s : State) (p : Nat) (f : Port → Port) :
    (s.onPort p f).superstep = s.superstep := rfl
@[simp] theorem State.debugJob_onPort (s : State) (p : Nat) (f : Port → Port) :
    (s.onPort p f).debugJob = s.debugJob := rfl
@[simp] theorem State.sealedJob_onPort (s : State) (p : Nat) (f : Port → Port) :
    (s.onPort p f).sealedJob = s.sealedJob := rfl
@[simp] theorem State.traced_onPort (s : State) (p : Nat) (f : Port → Port) :
    (s.onPort p f).traced = s.traced := rfl

@[simp] theorem State.core_onStack (s : State) (i : Nat) (f : Stack → Stack) (j : Nat) :
    (s.onStack i f).core j = s.core j := rfl
@[simp] theorem State.cluster_onStack (s : State) (i : Nat) (f : Stack → Stack) (j : Nat) :
    (s.onStack i f).cluster j = s.cluster j := rfl
@[simp] theorem State.ctx_onStack (s : State) (i : Nat) (f : Stack → Stack) (j : Nat) :
    (s.onStack i f).ctx j = s.ctx j := rfl
@[simp] theorem State.port_onStack (s : State) (i : Nat) (f : Stack → Stack) (j : Nat) :
    (s.onStack i f).port j = s.port j := rfl
@[simp] theorem State.coreMap_onStack (s : State) (i : Nat) (f : Stack → Stack) :
    (s.onStack i f).coreMap = s.coreMap := rfl
@[simp] theorem State.clusterOf_onStack (s : State) (i : Nat) (f : Stack → Stack) (j : Nat) :
    (s.onStack i f).clusterOf j = s.clusterOf j := rfl
@[simp] theorem State.allCores_onStack (s : State) (i : Nat) (f : Stack → Stack) :
    (s.onStack i f).allCores = s.allCores := rfl
@[simp] theorem State.enabled_onStack (s : State) (i : Nat) (f : Stack → Stack) :
    (s.onStack i f).enabled = s.enabled := rfl
@[simp] theorem State.frozen_onStack (s : State) (i : Nat) (f : Stack → Stack) (j : Nat) :
    (s.onStack i f).frozen j = s.frozen j := rfl
@[simp] theorem State.ticks_onStack (s : State) (i : Nat) (f : Stack → Stack) (j : Nat) :
    (s.onStack i f).ticks j = s.ticks j := rfl
@[simp] theorem State.coreTick_onStack (s : State) (i : Nat) (f : Stack → Stack) (j : Nat) :
    (s.onStack i f).coreTick j = s.coreTick j := rfl
@[simp] theorem State.coreFrozen_onStack (s : State) (i : Nat) (f : Stack → Stack) (j : Nat) :
    (s.onStack i f).coreFrozen j = s.coreFrozen j := rfl
@[simp] theorem State.cur_onStack (s : State) (i : Nat) (f : Stack → Stack) :
    (s.onStack i f).cur = s.cur := rfl
@[simp] theorem State.curCtx_onStack (s : State) (i : Nat) (f : Stack → Stack) :
    (s.onStack i f).curCtx = s.curCtx := rfl
@[simp] theorem State.superstep_onStack (s : State) (i : Nat) (f : Stack → Stack) :
    (s.onStack i f).superstep = s.superstep := rfl
@[simp] theorem State.debugJob_onStack (s : State) (i : Nat) (f : Stack → Stack) :
    (s.onStack i f).debugJob = s.debugJob := rfl
@[simp] theorem State.sealedJob_onStack (s : State) (i : Nat) (f : Stack → Stack) :
    (s.onStack i f).sealedJob = s.sealedJob := rfl
@[simp] theorem State.traced_onStack (s : State) (i : Nat) (f : Stack → Stack) :
    (s.onStack i f).traced = s.traced := rfl

@[simp] theorem State.core_onHost (s : State) (f : HostSt → HostSt) (j : Nat) :
    (s.onHost f).core j = s.core j := rfl
@[simp] theorem State.cluster_onHost (s : State) (f : HostSt → HostSt) (j : Nat) :
    (s.onHost f).cluster j = s.cluster j := rfl
@[simp] theorem State.ctx_onHost (s : State) (f : HostSt → HostSt) (j : Nat) :
    (s.onHost f).ctx j = s.ctx j := rfl
@[simp] theorem State.port_onHost (s : State) (f : HostSt → HostSt) (j : Nat) :
    (s.onHost f).port j = s.port j := rfl
@[simp] theorem State.stack_onHost (s : State) (f : HostSt → HostSt) (j : Nat) :
    (s.onHost f).stack j = s.stack j := rfl
@[simp] theorem State.coreMap_onHost (s : State) (f : HostSt → HostSt) :
    (s.onHost f).coreMap = s.coreMap := rfl
@[simp] theorem State.clusterOf_onHost (s : State) (f : HostSt → HostSt) (j : Nat) :
    (s.onHost f).clusterOf j = s.clusterOf j := rfl
@[simp] theorem State.allCores_onHost (s : State) (f : HostSt → HostSt) :
    (s.onHost f).allCores = s.allCores := rfl
@[simp] theorem State.enabled_onHost (s : State) (f : HostSt → HostSt) :
    (s.onHost f).enabled = s.enabled := rfl
@[simp] theorem State.frozen_onHost (s : State) (f : HostSt → HostSt) (j : Nat) :
    (s.onHost f).frozen j = s.frozen j := rfl
@[simp] theorem State.ticks_onHost (s : State) (f : HostSt → HostSt) (j : Nat) :
    (s.onHost f).ticks j = s.ticks j := rfl
@[simp] theorem State.coreTick_onHost (s : State) (f : HostSt → HostSt) (j : Nat) :
    (s.onHost f).coreTick j = s.coreTick j := rfl
@[simp] theorem State.coreFrozen_onHost (s : State) (f : HostSt → HostSt) (j : Nat) :
    (s.onHost f).coreFrozen j = s.coreFrozen j := rfl
@[simp] theorem State.cur_onHost (s : State) (f : HostSt → HostSt) :
    (s.onHost f).cur = s.cur := rfl
@[simp] theorem State.curCtx_onHost (s : State) (f : HostSt → HostSt) :
    (s.onHost f).curCtx = s.curCtx := rfl
@[simp] theorem State.superstep_onHost (s : State) (f : HostSt → HostSt) :
    (s.onHost f).superstep = s.superstep := rfl
@[simp] theorem State.debugJob_onHost (s : State) (f : HostSt → HostSt) :
    (s.onHost f).debugJob = s.debugJob := rfl
@[simp] theorem State.sealedJob_onHost (s : State) (f : HostSt → HostSt) :
    (s.onHost f).sealedJob = s.sealedJob := rfl
@[simp] theorem State.traced_onHost (s : State) (f : HostSt → HostSt) :
    (s.onHost f).traced = s.traced := rfl

@[simp] theorem State.core_onMgmt (s : State) (f : MgmtSt → MgmtSt) (j : Nat) :
    (s.onMgmt f).core j = s.core j := rfl
@[simp] theorem State.cluster_onMgmt (s : State) (f : MgmtSt → MgmtSt) (j : Nat) :
    (s.onMgmt f).cluster j = s.cluster j := rfl
@[simp] theorem State.ctx_onMgmt (s : State) (f : MgmtSt → MgmtSt) (j : Nat) :
    (s.onMgmt f).ctx j = s.ctx j := rfl
@[simp] theorem State.port_onMgmt (s : State) (f : MgmtSt → MgmtSt) (j : Nat) :
    (s.onMgmt f).port j = s.port j := rfl
@[simp] theorem State.stack_onMgmt (s : State) (f : MgmtSt → MgmtSt) (j : Nat) :
    (s.onMgmt f).stack j = s.stack j := rfl
@[simp] theorem State.frozen_onMgmt (s : State) (f : MgmtSt → MgmtSt) (j : Nat) :
    (s.onMgmt f).frozen j = s.frozen j := rfl
@[simp] theorem State.ticks_onMgmt (s : State) (f : MgmtSt → MgmtSt) (j : Nat) :
    (s.onMgmt f).ticks j = s.ticks j := rfl
@[simp] theorem State.cur_onMgmt (s : State) (f : MgmtSt → MgmtSt) :
    (s.onMgmt f).cur = s.cur := rfl
@[simp] theorem State.curCtx_onMgmt (s : State) (f : MgmtSt → MgmtSt) :
    (s.onMgmt f).curCtx = s.curCtx := rfl
@[simp] theorem State.superstep_onMgmt (s : State) (f : MgmtSt → MgmtSt) :
    (s.onMgmt f).superstep = s.superstep := rfl
@[simp] theorem State.debugJob_onMgmt (s : State) (f : MgmtSt → MgmtSt) :
    (s.onMgmt f).debugJob = s.debugJob := rfl
@[simp] theorem State.sealedJob_onMgmt (s : State) (f : MgmtSt → MgmtSt) :
    (s.onMgmt f).sealedJob = s.sealedJob := rfl
@[simp] theorem State.traced_onMgmt (s : State) (f : MgmtSt → MgmtSt) :
    (s.onMgmt f).traced = s.traced := rfl

@[simp] theorem State.core_onSec (s : State) (f : SecSt → SecSt) (j : Nat) :
    (s.onSec f).core j = s.core j := rfl
@[simp] theorem State.cluster_onSec (s : State) (f : SecSt → SecSt) (j : Nat) :
    (s.onSec f).cluster j = s.cluster j := rfl
@[simp] theorem State.ctx_onSec (s : State) (f : SecSt → SecSt) (j : Nat) :
    (s.onSec f).ctx j = s.ctx j := rfl
@[simp] theorem State.port_onSec (s : State) (f : SecSt → SecSt) (j : Nat) :
    (s.onSec f).port j = s.port j := rfl
@[simp] theorem State.stack_onSec (s : State) (f : SecSt → SecSt) (j : Nat) :
    (s.onSec f).stack j = s.stack j := rfl
@[simp] theorem State.coreMap_onSec (s : State) (f : SecSt → SecSt) :
    (s.onSec f).coreMap = s.coreMap := rfl
@[simp] theorem State.clusterOf_onSec (s : State) (f : SecSt → SecSt) (j : Nat) :
    (s.onSec f).clusterOf j = s.clusterOf j := rfl
@[simp] theorem State.allCores_onSec (s : State) (f : SecSt → SecSt) :
    (s.onSec f).allCores = s.allCores := rfl
@[simp] theorem State.enabled_onSec (s : State) (f : SecSt → SecSt) :
    (s.onSec f).enabled = s.enabled := rfl
@[simp] theorem State.frozen_onSec (s : State) (f : SecSt → SecSt) (j : Nat) :
    (s.onSec f).frozen j = s.frozen j := rfl
@[simp] theorem State.ticks_onSec (s : State) (f : SecSt → SecSt) (j : Nat) :
    (s.onSec f).ticks j = s.ticks j := rfl
@[simp] theorem State.coreTick_onSec (s : State) (f : SecSt → SecSt) (j : Nat) :
    (s.onSec f).coreTick j = s.coreTick j := rfl
@[simp] theorem State.coreFrozen_onSec (s : State) (f : SecSt → SecSt) (j : Nat) :
    (s.onSec f).coreFrozen j = s.coreFrozen j := rfl
@[simp] theorem State.cur_onSec (s : State) (f : SecSt → SecSt) :
    (s.onSec f).cur = s.cur := rfl
@[simp] theorem State.curCtx_onSec (s : State) (f : SecSt → SecSt) :
    (s.onSec f).curCtx = s.curCtx := rfl
@[simp] theorem State.superstep_onSec (s : State) (f : SecSt → SecSt) :
    (s.onSec f).superstep = s.superstep := rfl
@[simp] theorem State.debugJob_onSec (s : State) (f : SecSt → SecSt) :
    (s.onSec f).debugJob = s.debugJob := rfl
@[simp] theorem State.sealedJob_onSec (s : State) (f : SecSt → SecSt) :
    (s.onSec f).sealedJob = s.sealedJob := rfl
@[simp] theorem State.traced_onSec (s : State) (f : SecSt → SecSt) :
    (s.onSec f).traced = s.traced := rfl

@[simp] theorem State.core_onObs (s : State) (f : ObsSt → ObsSt) (j : Nat) :
    (s.onObs f).core j = s.core j := rfl
@[simp] theorem State.cluster_onObs (s : State) (f : ObsSt → ObsSt) (j : Nat) :
    (s.onObs f).cluster j = s.cluster j := rfl
@[simp] theorem State.ctx_onObs (s : State) (f : ObsSt → ObsSt) (j : Nat) :
    (s.onObs f).ctx j = s.ctx j := rfl
@[simp] theorem State.port_onObs (s : State) (f : ObsSt → ObsSt) (j : Nat) :
    (s.onObs f).port j = s.port j := rfl
@[simp] theorem State.stack_onObs (s : State) (f : ObsSt → ObsSt) (j : Nat) :
    (s.onObs f).stack j = s.stack j := rfl
@[simp] theorem State.coreMap_onObs (s : State) (f : ObsSt → ObsSt) :
    (s.onObs f).coreMap = s.coreMap := rfl
@[simp] theorem State.clusterOf_onObs (s : State) (f : ObsSt → ObsSt) (j : Nat) :
    (s.onObs f).clusterOf j = s.clusterOf j := rfl
@[simp] theorem State.allCores_onObs (s : State) (f : ObsSt → ObsSt) :
    (s.onObs f).allCores = s.allCores := rfl
@[simp] theorem State.enabled_onObs (s : State) (f : ObsSt → ObsSt) :
    (s.onObs f).enabled = s.enabled := rfl
@[simp] theorem State.frozen_onObs (s : State) (f : ObsSt → ObsSt) (j : Nat) :
    (s.onObs f).frozen j = s.frozen j := rfl
@[simp] theorem State.ticks_onObs (s : State) (f : ObsSt → ObsSt) (j : Nat) :
    (s.onObs f).ticks j = s.ticks j := rfl
@[simp] theorem State.coreTick_onObs (s : State) (f : ObsSt → ObsSt) (j : Nat) :
    (s.onObs f).coreTick j = s.coreTick j := rfl
@[simp] theorem State.coreFrozen_onObs (s : State) (f : ObsSt → ObsSt) (j : Nat) :
    (s.onObs f).coreFrozen j = s.coreFrozen j := rfl
@[simp] theorem State.cur_onObs (s : State) (f : ObsSt → ObsSt) :
    (s.onObs f).cur = s.cur := rfl
@[simp] theorem State.curCtx_onObs (s : State) (f : ObsSt → ObsSt) :
    (s.onObs f).curCtx = s.curCtx := rfl
@[simp] theorem State.superstep_onObs (s : State) (f : ObsSt → ObsSt) :
    (s.onObs f).superstep = s.superstep := rfl
@[simp] theorem State.debugJob_onObs (s : State) (f : ObsSt → ObsSt) :
    (s.onObs f).debugJob = s.debugJob := rfl
@[simp] theorem State.sealedJob_onObs (s : State) (f : ObsSt → ObsSt) :
    (s.onObs f).sealedJob = s.sealedJob := rfl

@[simp] theorem State.core_onSync (s : State) (f : SyncSt → SyncSt) (j : Nat) :
    (s.onSync f).core j = s.core j := rfl
@[simp] theorem State.cluster_onSync (s : State) (f : SyncSt → SyncSt) (j : Nat) :
    (s.onSync f).cluster j = s.cluster j := rfl
@[simp] theorem State.ctx_onSync (s : State) (f : SyncSt → SyncSt) (j : Nat) :
    (s.onSync f).ctx j = s.ctx j := rfl
@[simp] theorem State.port_onSync (s : State) (f : SyncSt → SyncSt) (j : Nat) :
    (s.onSync f).port j = s.port j := rfl
@[simp] theorem State.stack_onSync (s : State) (f : SyncSt → SyncSt) (j : Nat) :
    (s.onSync f).stack j = s.stack j := rfl
@[simp] theorem State.coreMap_onSync (s : State) (f : SyncSt → SyncSt) :
    (s.onSync f).coreMap = s.coreMap := rfl
@[simp] theorem State.clusterOf_onSync (s : State) (f : SyncSt → SyncSt) (j : Nat) :
    (s.onSync f).clusterOf j = s.clusterOf j := rfl
@[simp] theorem State.allCores_onSync (s : State) (f : SyncSt → SyncSt) :
    (s.onSync f).allCores = s.allCores := rfl
@[simp] theorem State.enabled_onSync (s : State) (f : SyncSt → SyncSt) :
    (s.onSync f).enabled = s.enabled := rfl
@[simp] theorem State.frozen_onSync (s : State) (f : SyncSt → SyncSt) (j : Nat) :
    (s.onSync f).frozen j = s.frozen j := rfl
@[simp] theorem State.ticks_onSync (s : State) (f : SyncSt → SyncSt) (j : Nat) :
    (s.onSync f).ticks j = s.ticks j := rfl
@[simp] theorem State.coreTick_onSync (s : State) (f : SyncSt → SyncSt) (j : Nat) :
    (s.onSync f).coreTick j = s.coreTick j := rfl
@[simp] theorem State.coreFrozen_onSync (s : State) (f : SyncSt → SyncSt) (j : Nat) :
    (s.onSync f).coreFrozen j = s.coreFrozen j := rfl
@[simp] theorem State.cur_onSync (s : State) (f : SyncSt → SyncSt) :
    (s.onSync f).cur = s.cur := rfl
@[simp] theorem State.curCtx_onSync (s : State) (f : SyncSt → SyncSt) :
    (s.onSync f).curCtx = s.curCtx := rfl
@[simp] theorem State.superstep_onSync (s : State) (f : SyncSt → SyncSt) :
    (s.onSync f).superstep = s.superstep := rfl
@[simp] theorem State.debugJob_onSync (s : State) (f : SyncSt → SyncSt) :
    (s.onSync f).debugJob = s.debugJob := rfl
@[simp] theorem State.sealedJob_onSync (s : State) (f : SyncSt → SyncSt) :
    (s.onSync f).sealedJob = s.sealedJob := rfl
@[simp] theorem State.traced_onSync (s : State) (f : SyncSt → SyncSt) :
    (s.onSync f).traced = s.traced := rfl

@[simp] theorem State.core_onProof (s : State) (f : ProofSt → ProofSt) (j : Nat) :
    (s.onProof f).core j = s.core j := rfl
@[simp] theorem State.cluster_onProof (s : State) (f : ProofSt → ProofSt) (j : Nat) :
    (s.onProof f).cluster j = s.cluster j := rfl
@[simp] theorem State.ctx_onProof (s : State) (f : ProofSt → ProofSt) (j : Nat) :
    (s.onProof f).ctx j = s.ctx j := rfl
@[simp] theorem State.port_onProof (s : State) (f : ProofSt → ProofSt) (j : Nat) :
    (s.onProof f).port j = s.port j := rfl
@[simp] theorem State.stack_onProof (s : State) (f : ProofSt → ProofSt) (j : Nat) :
    (s.onProof f).stack j = s.stack j := rfl
@[simp] theorem State.coreMap_onProof (s : State) (f : ProofSt → ProofSt) :
    (s.onProof f).coreMap = s.coreMap := rfl
@[simp] theorem State.clusterOf_onProof (s : State) (f : ProofSt → ProofSt) (j : Nat) :
    (s.onProof f).clusterOf j = s.clusterOf j := rfl
@[simp] theorem State.allCores_onProof (s : State) (f : ProofSt → ProofSt) :
    (s.onProof f).allCores = s.allCores := rfl
@[simp] theorem State.enabled_onProof (s : State) (f : ProofSt → ProofSt) :
    (s.onProof f).enabled = s.enabled := rfl
@[simp] theorem State.frozen_onProof (s : State) (f : ProofSt → ProofSt) (j : Nat) :
    (s.onProof f).frozen j = s.frozen j := rfl
@[simp] theorem State.ticks_onProof (s : State) (f : ProofSt → ProofSt) (j : Nat) :
    (s.onProof f).ticks j = s.ticks j := rfl
@[simp] theorem State.coreTick_onProof (s : State) (f : ProofSt → ProofSt) (j : Nat) :
    (s.onProof f).coreTick j = s.coreTick j := rfl
@[simp] theorem State.coreFrozen_onProof (s : State) (f : ProofSt → ProofSt) (j : Nat) :
    (s.onProof f).coreFrozen j = s.coreFrozen j := rfl
@[simp] theorem State.cur_onProof (s : State) (f : ProofSt → ProofSt) :
    (s.onProof f).cur = s.cur := rfl
@[simp] theorem State.curCtx_onProof (s : State) (f : ProofSt → ProofSt) :
    (s.onProof f).curCtx = s.curCtx := rfl
@[simp] theorem State.superstep_onProof (s : State) (f : ProofSt → ProofSt) :
    (s.onProof f).superstep = s.superstep := rfl
@[simp] theorem State.debugJob_onProof (s : State) (f : ProofSt → ProofSt) :
    (s.onProof f).debugJob = s.debugJob := rfl
@[simp] theorem State.sealedJob_onProof (s : State) (f : ProofSt → ProofSt) :
    (s.onProof f).sealedJob = s.sealedJob := rfl
@[simp] theorem State.traced_onProof (s : State) (f : ProofSt → ProofSt) :
    (s.onProof f).traced = s.traced := rfl

@[simp] theorem State.core_onFab (s : State) (f : Fabric → Fabric) (j : Nat) :
    (s.onFab f).core j = s.core j := rfl
@[simp] theorem State.cluster_onFab (s : State) (f : Fabric → Fabric) (j : Nat) :
    (s.onFab f).cluster j = s.cluster j := rfl
@[simp] theorem State.ctx_onFab (s : State) (f : Fabric → Fabric) (j : Nat) :
    (s.onFab f).ctx j = s.ctx j := rfl
@[simp] theorem State.port_onFab (s : State) (f : Fabric → Fabric) (j : Nat) :
    (s.onFab f).port j = s.port j := rfl
@[simp] theorem State.stack_onFab (s : State) (f : Fabric → Fabric) (j : Nat) :
    (s.onFab f).stack j = s.stack j := rfl
@[simp] theorem State.coreMap_onFab (s : State) (f : Fabric → Fabric) :
    (s.onFab f).coreMap = s.coreMap := rfl
@[simp] theorem State.clusterOf_onFab (s : State) (f : Fabric → Fabric) (j : Nat) :
    (s.onFab f).clusterOf j = s.clusterOf j := rfl
@[simp] theorem State.allCores_onFab (s : State) (f : Fabric → Fabric) :
    (s.onFab f).allCores = s.allCores := rfl
@[simp] theorem State.enabled_onFab (s : State) (f : Fabric → Fabric) :
    (s.onFab f).enabled = s.enabled := rfl
@[simp] theorem State.frozen_onFab (s : State) (f : Fabric → Fabric) (j : Nat) :
    (s.onFab f).frozen j = s.frozen j := rfl
@[simp] theorem State.ticks_onFab (s : State) (f : Fabric → Fabric) (j : Nat) :
    (s.onFab f).ticks j = s.ticks j := rfl
@[simp] theorem State.coreTick_onFab (s : State) (f : Fabric → Fabric) (j : Nat) :
    (s.onFab f).coreTick j = s.coreTick j := rfl
@[simp] theorem State.coreFrozen_onFab (s : State) (f : Fabric → Fabric) (j : Nat) :
    (s.onFab f).coreFrozen j = s.coreFrozen j := rfl
@[simp] theorem State.cur_onFab (s : State) (f : Fabric → Fabric) :
    (s.onFab f).cur = s.cur := rfl
@[simp] theorem State.curCtx_onFab (s : State) (f : Fabric → Fabric) :
    (s.onFab f).curCtx = s.curCtx := rfl
@[simp] theorem State.superstep_onFab (s : State) (f : Fabric → Fabric) :
    (s.onFab f).superstep = s.superstep := rfl
@[simp] theorem State.debugJob_onFab (s : State) (f : Fabric → Fabric) :
    (s.onFab f).debugJob = s.debugJob := rfl
@[simp] theorem State.sealedJob_onFab (s : State) (f : Fabric → Fabric) :
    (s.onFab f).sealedJob = s.sealedJob := rfl
@[simp] theorem State.traced_onFab (s : State) (f : Fabric → Fabric) :
    (s.onFab f).traced = s.traced := rfl

@[simp] theorem State.cluster_onStq (s : State) (k : Nat) (st : Station) (f : StationQ → StationQ) (j : Nat) :
    (s.onStq k st f).cluster j = s.cluster j := rfl
@[simp] theorem State.ctx_onStq (s : State) (k : Nat) (st : Station) (f : StationQ → StationQ) (j : Nat) :
    (s.onStq k st f).ctx j = s.ctx j := rfl
@[simp] theorem State.port_onStq (s : State) (k : Nat) (st : Station) (f : StationQ → StationQ) (j : Nat) :
    (s.onStq k st f).port j = s.port j := rfl
@[simp] theorem State.stack_onStq (s : State) (k : Nat) (st : Station) (f : StationQ → StationQ) (j : Nat) :
    (s.onStq k st f).stack j = s.stack j := rfl
@[simp] theorem State.coreMap_onStq (s : State) (k : Nat) (st : Station) (f : StationQ → StationQ) :
    (s.onStq k st f).coreMap = s.coreMap := rfl
@[simp] theorem State.clusterOf_onStq (s : State) (k : Nat) (st : Station) (f : StationQ → StationQ) (j : Nat) :
    (s.onStq k st f).clusterOf j = s.clusterOf j := rfl
@[simp] theorem State.allCores_onStq (s : State) (k : Nat) (st : Station) (f : StationQ → StationQ) :
    (s.onStq k st f).allCores = s.allCores := rfl
@[simp] theorem State.enabled_onStq (s : State) (k : Nat) (st : Station) (f : StationQ → StationQ) :
    (s.onStq k st f).enabled = s.enabled := rfl
@[simp] theorem State.frozen_onStq (s : State) (k : Nat) (st : Station) (f : StationQ → StationQ) (j : Nat) :
    (s.onStq k st f).frozen j = s.frozen j := rfl
@[simp] theorem State.ticks_onStq (s : State) (k : Nat) (st : Station) (f : StationQ → StationQ) (j : Nat) :
    (s.onStq k st f).ticks j = s.ticks j := rfl
@[simp] theorem State.coreTick_onStq (s : State) (k : Nat) (st : Station) (f : StationQ → StationQ) (j : Nat) :
    (s.onStq k st f).coreTick j = s.coreTick j := rfl
@[simp] theorem State.coreFrozen_onStq (s : State) (k : Nat) (st : Station) (f : StationQ → StationQ) (j : Nat) :
    (s.onStq k st f).coreFrozen j = s.coreFrozen j := rfl
@[simp] theorem State.cur_onStq (s : State) (k : Nat) (st : Station) (f : StationQ → StationQ) :
    (s.onStq k st f).cur = s.cur := rfl
@[simp] theorem State.curCtx_onStq (s : State) (k : Nat) (st : Station) (f : StationQ → StationQ) :
    (s.onStq k st f).curCtx = s.curCtx := rfl
@[simp] theorem State.superstep_onStq (s : State) (k : Nat) (st : Station) (f : StationQ → StationQ) :
    (s.onStq k st f).superstep = s.superstep := rfl
@[simp] theorem State.debugJob_onStq (s : State) (k : Nat) (st : Station) (f : StationQ → StationQ) :
    (s.onStq k st f).debugJob = s.debugJob := rfl
@[simp] theorem State.sealedJob_onStq (s : State) (k : Nat) (st : Station) (f : StationQ → StationQ) :
    (s.onStq k st f).sealedJob = s.sealedJob := rfl
@[simp] theorem State.traced_onStq (s : State) (k : Nat) (st : Station) (f : StationQ → StationQ) :
    (s.onStq k st f).traced = s.traced := rfl

@[simp] theorem State.cluster_onTrc (s : State) (k : Nat) (f : Trace → Trace) (j : Nat) :
    (s.onTrc k f).cluster j = s.cluster j := rfl
@[simp] theorem State.ctx_onTrc (s : State) (k : Nat) (f : Trace → Trace) (j : Nat) :
    (s.onTrc k f).ctx j = s.ctx j := rfl
@[simp] theorem State.port_onTrc (s : State) (k : Nat) (f : Trace → Trace) (j : Nat) :
    (s.onTrc k f).port j = s.port j := rfl
@[simp] theorem State.stack_onTrc (s : State) (k : Nat) (f : Trace → Trace) (j : Nat) :
    (s.onTrc k f).stack j = s.stack j := rfl
@[simp] theorem State.coreMap_onTrc (s : State) (k : Nat) (f : Trace → Trace) :
    (s.onTrc k f).coreMap = s.coreMap := rfl
@[simp] theorem State.clusterOf_onTrc (s : State) (k : Nat) (f : Trace → Trace) (j : Nat) :
    (s.onTrc k f).clusterOf j = s.clusterOf j := rfl
@[simp] theorem State.allCores_onTrc (s : State) (k : Nat) (f : Trace → Trace) :
    (s.onTrc k f).allCores = s.allCores := rfl
@[simp] theorem State.enabled_onTrc (s : State) (k : Nat) (f : Trace → Trace) :
    (s.onTrc k f).enabled = s.enabled := rfl
@[simp] theorem State.frozen_onTrc (s : State) (k : Nat) (f : Trace → Trace) (j : Nat) :
    (s.onTrc k f).frozen j = s.frozen j := rfl
@[simp] theorem State.ticks_onTrc (s : State) (k : Nat) (f : Trace → Trace) (j : Nat) :
    (s.onTrc k f).ticks j = s.ticks j := rfl
@[simp] theorem State.coreTick_onTrc (s : State) (k : Nat) (f : Trace → Trace) (j : Nat) :
    (s.onTrc k f).coreTick j = s.coreTick j := rfl
@[simp] theorem State.coreFrozen_onTrc (s : State) (k : Nat) (f : Trace → Trace) (j : Nat) :
    (s.onTrc k f).coreFrozen j = s.coreFrozen j := rfl
@[simp] theorem State.cur_onTrc (s : State) (k : Nat) (f : Trace → Trace) :
    (s.onTrc k f).cur = s.cur := rfl
@[simp] theorem State.curCtx_onTrc (s : State) (k : Nat) (f : Trace → Trace) :
    (s.onTrc k f).curCtx = s.curCtx := rfl
@[simp] theorem State.superstep_onTrc (s : State) (k : Nat) (f : Trace → Trace) :
    (s.onTrc k f).superstep = s.superstep := rfl
@[simp] theorem State.debugJob_onTrc (s : State) (k : Nat) (f : Trace → Trace) :
    (s.onTrc k f).debugJob = s.debugJob := rfl
@[simp] theorem State.sealedJob_onTrc (s : State) (k : Nat) (f : Trace → Trace) :
    (s.onTrc k f).sealedJob = s.sealedJob := rfl
@[simp] theorem State.traced_onTrc (s : State) (k : Nat) (f : Trace → Trace) :
    (s.onTrc k f).traced = s.traced := rfl

@[simp] theorem State.core_putRow (s : State) (c r : Nat) (d : Bytes) (j : Nat) :
    (s.putRow c r d).core j = s.core j := rfl
@[simp] theorem State.cluster_putRow (s : State) (c r : Nat) (d : Bytes) (j : Nat) :
    (s.putRow c r d).cluster j = s.cluster j := rfl
@[simp] theorem State.ctx_putRow (s : State) (c r : Nat) (d : Bytes) (j : Nat) :
    (s.putRow c r d).ctx j = s.ctx j := rfl
@[simp] theorem State.port_putRow (s : State) (c r : Nat) (d : Bytes) (j : Nat) :
    (s.putRow c r d).port j = s.port j := rfl
@[simp] theorem State.stack_putRow (s : State) (c r : Nat) (d : Bytes) (j : Nat) :
    (s.putRow c r d).stack j = s.stack j := rfl
@[simp] theorem State.coreMap_putRow (s : State) (c r : Nat) (d : Bytes) :
    (s.putRow c r d).coreMap = s.coreMap := rfl
@[simp] theorem State.clusterOf_putRow (s : State) (c r : Nat) (d : Bytes) (j : Nat) :
    (s.putRow c r d).clusterOf j = s.clusterOf j := rfl
@[simp] theorem State.allCores_putRow (s : State) (c r : Nat) (d : Bytes) :
    (s.putRow c r d).allCores = s.allCores := rfl
@[simp] theorem State.enabled_putRow (s : State) (c r : Nat) (d : Bytes) :
    (s.putRow c r d).enabled = s.enabled := rfl
@[simp] theorem State.frozen_putRow (s : State) (c r : Nat) (d : Bytes) (j : Nat) :
    (s.putRow c r d).frozen j = s.frozen j := rfl
@[simp] theorem State.ticks_putRow (s : State) (c r : Nat) (d : Bytes) (j : Nat) :
    (s.putRow c r d).ticks j = s.ticks j := rfl
@[simp] theorem State.coreTick_putRow (s : State) (c r : Nat) (d : Bytes) (j : Nat) :
    (s.putRow c r d).coreTick j = s.coreTick j := rfl
@[simp] theorem State.coreFrozen_putRow (s : State) (c r : Nat) (d : Bytes) (j : Nat) :
    (s.putRow c r d).coreFrozen j = s.coreFrozen j := rfl
@[simp] theorem State.cur_putRow (s : State) (c r : Nat) (d : Bytes) :
    (s.putRow c r d).cur = s.cur := rfl
@[simp] theorem State.curCtx_putRow (s : State) (c r : Nat) (d : Bytes) :
    (s.putRow c r d).curCtx = s.curCtx := rfl
@[simp] theorem State.superstep_putRow (s : State) (c r : Nat) (d : Bytes) :
    (s.putRow c r d).superstep = s.superstep := rfl
@[simp] theorem State.debugJob_putRow (s : State) (c r : Nat) (d : Bytes) :
    (s.putRow c r d).debugJob = s.debugJob := rfl
@[simp] theorem State.sealedJob_putRow (s : State) (c r : Nat) (d : Bytes) :
    (s.putRow c r d).sealedJob = s.sealedJob := rfl
@[simp] theorem State.traced_putRow (s : State) (c r : Nat) (d : Bytes) :
    (s.putRow c r d).traced = s.traced := rfl

@[simp] theorem State.core_drawFree (s : State) (j : Nat) :
    (s.drawFree.2).core j = s.core j := rfl
@[simp] theorem State.cluster_drawFree (s : State) (j : Nat) :
    (s.drawFree.2).cluster j = s.cluster j := rfl
@[simp] theorem State.ctx_drawFree (s : State) (j : Nat) :
    (s.drawFree.2).ctx j = s.ctx j := rfl
@[simp] theorem State.port_drawFree (s : State) (j : Nat) :
    (s.drawFree.2).port j = s.port j := rfl
@[simp] theorem State.stack_drawFree (s : State) (j : Nat) :
    (s.drawFree.2).stack j = s.stack j := rfl
@[simp] theorem State.coreMap_drawFree (s : State) :
    (s.drawFree.2).coreMap = s.coreMap := rfl
@[simp] theorem State.clusterOf_drawFree (s : State) (j : Nat) :
    (s.drawFree.2).clusterOf j = s.clusterOf j := rfl
@[simp] theorem State.allCores_drawFree (s : State) :
    (s.drawFree.2).allCores = s.allCores := rfl
@[simp] theorem State.enabled_drawFree (s : State) :
    (s.drawFree.2).enabled = s.enabled := rfl
@[simp] theorem State.frozen_drawFree (s : State) (j : Nat) :
    (s.drawFree.2).frozen j = s.frozen j := rfl
@[simp] theorem State.ticks_drawFree (s : State) (j : Nat) :
    (s.drawFree.2).ticks j = s.ticks j := rfl
@[simp] theorem State.coreTick_drawFree (s : State) (j : Nat) :
    (s.drawFree.2).coreTick j = s.coreTick j := rfl
@[simp] theorem State.coreFrozen_drawFree (s : State) (j : Nat) :
    (s.drawFree.2).coreFrozen j = s.coreFrozen j := rfl
@[simp] theorem State.cur_drawFree (s : State) :
    (s.drawFree.2).cur = s.cur := rfl
@[simp] theorem State.curCtx_drawFree (s : State) :
    (s.drawFree.2).curCtx = s.curCtx := rfl
@[simp] theorem State.superstep_drawFree (s : State) :
    (s.drawFree.2).superstep = s.superstep := rfl
@[simp] theorem State.debugJob_drawFree (s : State) :
    (s.drawFree.2).debugJob = s.debugJob := rfl
@[simp] theorem State.sealedJob_drawFree (s : State) :
    (s.drawFree.2).sealedJob = s.sealedJob := rfl
@[simp] theorem State.traced_drawFree (s : State) :
    (s.drawFree.2).traced = s.traced := rfl

@[simp] theorem State.core_fresh (s : State) (j : Nat) :
    (s.fresh.2).core j = s.core j := rfl
@[simp] theorem State.cluster_fresh (s : State) (j : Nat) :
    (s.fresh.2).cluster j = s.cluster j := rfl
@[simp] theorem State.ctx_fresh (s : State) (j : Nat) :
    (s.fresh.2).ctx j = s.ctx j := rfl
@[simp] theorem State.port_fresh (s : State) (j : Nat) :
    (s.fresh.2).port j = s.port j := rfl
@[simp] theorem State.stack_fresh (s : State) (j : Nat) :
    (s.fresh.2).stack j = s.stack j := rfl
@[simp] theorem State.coreMap_fresh (s : State) :
    (s.fresh.2).coreMap = s.coreMap := rfl
@[simp] theorem State.clusterOf_fresh (s : State) (j : Nat) :
    (s.fresh.2).clusterOf j = s.clusterOf j := rfl
@[simp] theorem State.allCores_fresh (s : State) :
    (s.fresh.2).allCores = s.allCores := rfl
@[simp] theorem State.enabled_fresh (s : State) :
    (s.fresh.2).enabled = s.enabled := rfl
@[simp] theorem State.frozen_fresh (s : State) (j : Nat) :
    (s.fresh.2).frozen j = s.frozen j := rfl
@[simp] theorem State.ticks_fresh (s : State) (j : Nat) :
    (s.fresh.2).ticks j = s.ticks j := rfl
@[simp] theorem State.coreTick_fresh (s : State) (j : Nat) :
    (s.fresh.2).coreTick j = s.coreTick j := rfl
@[simp] theorem State.coreFrozen_fresh (s : State) (j : Nat) :
    (s.fresh.2).coreFrozen j = s.coreFrozen j := rfl
@[simp] theorem State.cur_fresh (s : State) :
    (s.fresh.2).cur = s.cur := rfl
@[simp] theorem State.curCtx_fresh (s : State) :
    (s.fresh.2).curCtx = s.curCtx := rfl
@[simp] theorem State.superstep_fresh (s : State) :
    (s.fresh.2).superstep = s.superstep := rfl
@[simp] theorem State.debugJob_fresh (s : State) :
    (s.fresh.2).debugJob = s.debugJob := rfl
@[simp] theorem State.sealedJob_fresh (s : State) :
    (s.fresh.2).sealedJob = s.sealedJob := rfl
@[simp] theorem State.traced_fresh (s : State) :
    (s.fresh.2).traced = s.traced := rfl

end Sys2Proof.Machine
end

