-- ==== Sys2Proof/Laws/Fault.lean ====
section
/-! SUPPORT. What replies, records, events and changes of context or module state touch, and what a stopping fault does. -/

namespace Sys2Proof.Machine

/-- `t` is `s` but for contexts, host interface, management controller, Crumb Log, free-value counter and the count of denied
commands. -/
def HostSide (s t : State) : Prop :=
  ∃ f cx h m c d, t = { s with free := f, ctxs := cx, host := h, mgmt := m, crumb := c, sec := { s.sec with deniedHost := d } }

theorem HostSide.refl (s : State) : HostSide s s := ⟨_, _, _, _, _, _, rfl⟩

theorem HostSide.trans {a b c : State} (h : HostSide a b) (g : HostSide b c) : HostSide a c := by
  obtain ⟨_, _, _, _, _, _, rfl⟩ := h
  obtain ⟨_, _, _, _, _, _, rfl⟩ := g
  exact ⟨_, _, _, _, _, _, rfl⟩

theorem HostSide.onHost (s : State) (f : HostSt → HostSt) : HostSide s (s.onHost f) := ⟨_, _, _, _, _, _, rfl⟩
theorem HostSide.onCtx (s : State) (i : Nat) (f : Ctx → Ctx) : HostSide s (s.onCtx i f) := ⟨_, _, _, _, _, _, rfl⟩
theorem HostSide.onMgmt (s : State) (f : MgmtSt → MgmtSt) : HostSide s (s.onMgmt f) := ⟨_, _, _, _, _, _, rfl⟩
theorem HostSide.drawFree (s : State) : HostSide s s.drawFree.2 := ⟨_, _, _, _, _, _, rfl⟩

theorem HostSide.moduleEvent (n : Nat) (s : State) : HostSide s (moduleEvent n s) :=
  ⟨_, _, _, _, _, _, rfl⟩
theorem HostSide.jobEvent (i : Nat) (s : State) : HostSide s (jobEvent i s) := ⟨_, _, _, _, _, _, rfl⟩

theorem HostSide.crumb (a : CrumbArg) (s : State) : HostSide s (crumb a s) := by
  unfold Machine.crumb
  dsimp only
  split <;> split <;> exact ⟨_, _, _, _, _, _, rfl⟩

theorem HostSide.sendOut (i : Iface) (hdr payload : Bytes) (s : State) : HostSide s (sendOut i hdr payload s) := by
  unfold Machine.sendOut
  dsimp only
  split <;> exact ⟨_, _, _, _, _, _, rfl⟩

theorem HostSide.sendReply (i : Iface) (enc : Bool) (hdr payload : Bytes) (s : State) :
    HostSide s (sendReply i enc hdr payload s) := by
  unfold Machine.sendReply
  dsimp only
  split
  · exact (HostSide.onCtx ..).trans (.sendOut ..)
  · exact .sendOut ..

theorem HostSide.endOp (id : BitVec 32) (state status : Nat) (s : State) : HostSide s (endOp id state status s) := by
  unfold Machine.endOp
  split
  · exact (HostSide.drawFree s).trans (.onHost ..)
  · exact .refl s

theorem HostSide.complete (id : BitVec 32) (status : Nat) (params payload : Bytes) (s : State) :
    HostSide s (complete id status params payload s) := by
  unfold Machine.complete
  split
  · exact ((HostSide.sendReply ..).trans (.onHost ..)).trans (.endOp ..)
  · exact .refl s

theorem HostSide.setMod (m : ModState) (s : State) : HostSide s (setMod m s) := by
  unfold Machine.setMod
  dsimp only
  split
  · exact .refl s
  · exact ((HostSide.onMgmt s _).trans (.crumb ..)).trans (.moduleEvent ..)

theorem HostSide.syncMod (s : State) : HostSide s (syncMod s) := by
  unfold Machine.syncMod
  split
  · split
    · exact .setMod ..
    · exact .refl s
  · split
    · exact .refl s
    · exact .setMod ..
  · exact .refl s

theorem HostSide.lapseArm (i status : Nat) (tag : BitVec 16) (s : State) : HostSide s (lapseArm i status tag s) := by
  unfold Machine.lapseArm
  split
  · exact ((HostSide.crumb ..).trans (.onCtx ..)).trans (.complete ..)
  · exact .refl s

theorem HostSide.endCapture (i : Nat) (s : State) : HostSide s (endCapture i s) := by
  unfold Machine.endCapture
  split
  · exact (HostSide.onCtx s _ _).trans (.endOp ..)
  · exact .refl s

theorem HostSide.ctxLeaves (i : Nat) (st : CtxState) (s : State) : HostSide s (ctxLeaves i st s) := by
  have arm : ∀ (n : Nat) (s : State), HostSide s
      (if (s.ctx i).capture.isNone then Machine.lapseArm i n 0 s else Machine.endCapture i s) := by
    intro n s
    split
    · exact .lapseArm ..
    · exact .endCapture ..
  have sw : ∀ s : State, HostSide s (match (s.ctx i).switchAt with
      | some (_, _, op) => Machine.complete op stRefused [] [] (s.onCtx i fun c => { c with switchAt := none })
      | none => s) := by
    intro s
    split
    · exact (HostSide.onCtx s _ _).trans (.complete ..)
    · exact .refl s
  have launch : ∀ s : State, HostSide s (match (s.ctx i).launchOp with
      | some op => Machine.complete op stAborted [] [] (s.onCtx i fun c => { c with launchOp := none })
      | none => s) := by
    intro s
    split
    · exact (HostSide.onCtx s _ _).trans (.complete ..)
    · exact .refl s
  unfold Machine.ctxLeaves
  cases st <;> dsimp only
  case faulted => exact (arm _ s).trans (sw _)
  case aborted => exact ((arm _ s).trans (sw _)).trans (launch _)
  case done => exact arm _ s
  case empty => exact arm _ s
  case loaded => exact arm _ s
  all_goals exact .refl s

theorem HostSide.setCtxSt (i : Nat) (st : CtxState) (s : State) : HostSide s (setCtxSt i st s) := by
  unfold Machine.setCtxSt
  dsimp only
  split
  · exact .refl s
  · refine HostSide.trans ?_ (.syncMod _)
    refine HostSide.trans ?_ (.ctxLeaves ..)
    refine HostSide.trans (.onCtx s i (Ctx.enter st)) ?_
    generalize s.onCtx i (Ctx.enter st) = u
    cases st <;> dsimp only
    case running => exact .crumb ..
    case held => exact .jobEvent ..
    case faulted => exact .jobEvent ..
    case done => exact (HostSide.crumb ..).trans (.jobEvent ..)
    case aborted => exact (HostSide.crumb ..).trans (.jobEvent ..)
    all_goals exact .refl u

/-- A write beside the cores leaves every core. -/
theorem HostSide.core {s t : State} (h : HostSide s t) (j : Nat) : t.core j = s.core j := by
  obtain ⟨_, _, _, _, _, _, rfl⟩ := h
  rfl

/-- A write beside the cores and a write of a core do not meet. -/
theorem HostSide.onCore {s t : State} (h : HostSide s t) (k : Nat) (f : Core → Core) : HostSide (s.onCore k f) (t.onCore k f) := by
  obtain ⟨_, _, _, _, _, _, rfl⟩ := h
  exact ⟨_, _, _, _, _, _, rfl⟩

/-- The first stopping fault of a core: its sequencer stops with its record, and its stations in the next tick; all else that
changes lies beside the cores. -/
theorem coreFault_first (k : Nat) (a : FaultArg) (s : State) (h : (s.core k).fault.valid = false) :
    HostSide (s.setCore k { faultCore (s.coreTick k) (s.core k) with fault := faultRec k a s }) (coreFault k a s) := by
  have hn : HostSide (s.setCore k { faultCore (s.coreTick k) (s.core k) with fault := faultRec k a s })
      (faultLog k a (s.setCore k { faultCore (s.coreTick k) (s.core k) with fault := faultRec k a s })) := .crumb ..
  unfold coreFault
  simp only [h, Bool.false_eq_true, if_false]
  split
  · split
    · exact (hn.trans (.onCtx ..)).trans (.setCtxSt ..)
    · exact hn
  · exact hn

end Sys2Proof.Machine
end

