-- ==== Sys2Proof/Laws/Seq.lean ====
section
/-! SUPPORT. What the trace operations and the frame of a sequencer instruction do. A packet of the trace touches the trace of
its core and the Holds, and no island's tick; a sequencer instruction that executes is its body. -/

namespace Sys2Proof.Machine

@[simp] theorem State.onSeq_onSeq (s : State) (k : Nat) (f g : Seq → Seq) :
    (s.onSeq k f).onSeq k g = s.onSeq k (g ∘ f) := by
  unfold State.onSeq
  rw [State.onCore_onCore]
  rfl

/-- `t` is `s` but for the trace of core `k` and the Holds. -/
structure TraceOnly (k : Nat) (s t : State) : Prop where
  others : ∃ cs h, t = { s with cores := cs, hold := h }
  self : ∃ x, t.core k = { s.core k with trc := x }
  beside : ∀ j, j ≠ k → t.core j = s.core j
  ticks : ∀ c, t.ticks c = s.ticks c

theorem TraceOnly.refl (k : Nat) (s : State) : TraceOnly k s s :=
  ⟨⟨_, _, rfl⟩, ⟨_, rfl⟩, fun _ _ => rfl, fun _ => rfl⟩

theorem TraceOnly.trans {k : Nat} {a b c : State} (h : TraceOnly k a b) (g : TraceOnly k b c) : TraceOnly k a c := by
  obtain ⟨⟨cs, hh, rfl⟩, ⟨x, hx⟩, h3, h4⟩ := h
  obtain ⟨⟨ds, hd, rfl⟩, ⟨y, hy⟩, g3, g4⟩ := g
  exact ⟨⟨_, _, rfl⟩, ⟨y, by rw [hy, hx]⟩, fun j hj => (g3 j hj).trans (h3 j hj), fun c => (g4 c).trans (h4 c)⟩

theorem TraceOnly.onTrc (k : Nat) (s : State) (f : Trace → Trace) : TraceOnly k s (s.onTrc k f) :=
  ⟨⟨_, _, rfl⟩, ⟨f (s.core k).trc, by simp [State.core]⟩, fun j hj => by simp [State.core, mget_mset, hj], fun _ => rfl⟩

@[simp] theorem holdJoin_islands (r : Raiser) (f : Option Nat) (n : Nat) (b : Bool) (h : HoldSt) :
    (holdJoin r f n b h).islands = h.islands := by
  unfold holdJoin
  dsimp only
  split
  · split <;> rfl
  · rfl

/-- An island that freezes has spent no tick frozen yet: its own clock does not jump. -/
theorem ticks_freezeNow {c : Nat} {s : State} (h : s.frozen c = false) (d : Nat) : (freezeNow c s).ticks d = s.ticks d := by
  have hs : (mget s.hold.islands c {}).since = none := by simpa [State.frozen, State.island] using h
  by_cases hd : d = c
  · subst hd
    simp [freezeNow, State.ticks, State.frozenTicks, State.island, hs]
  · simp [freezeNow, State.ticks, State.frozenTicks, State.island, mget_mset, hd]

/-- New episodes alone move no clock. -/
theorem TraceOnly.join (k : Nat) (s : State) (x : HoldSt) (h : x.islands = s.hold.islands) : TraceOnly k s { s with hold := x } :=
  ⟨⟨_, _, rfl⟩, ⟨_, rfl⟩, fun _ _ => rfl, fun c => by simp [State.ticks, State.frozenTicks, State.island, h]⟩

theorem TraceOnly.freeze {k c : Nat} {s : State} (h : s.frozen c = false) : TraceOnly k s (freezeNow c s) :=
  ⟨⟨_, _, rfl⟩, ⟨_, rfl⟩, fun _ _ => rfl, ticks_freezeNow h⟩

theorem TraceOnly.joinFreeze {k c : Nat} {s : State} (x : HoldSt) (hx : x.islands = s.hold.islands) (h : s.frozen c = false) :
    TraceOnly k s (freezeNow c { s with hold := x }) :=
  (TraceOnly.join k s x hx).trans (.freeze (by simpa [State.frozen, State.island, hx] using h))

theorem TraceOnly.raise (k c : Nat) (cause : BitVec 4) (core item : Option Nat) (s : State) :
    TraceOnly k s (raiseIsland c cause core item s) := by
  unfold raiseIsland
  dsimp only
  split
  · split
    · exact .join _ _ _ (holdJoin_islands ..)
    · exact .refl ..
  · rename_i hf
    have hf : s.frozen c = false := by simpa using hf
    split
    · exact .joinFreeze _ rfl hf
    · exact .joinFreeze _ (holdJoin_islands ..) hf

theorem TraceOnly.put (k : Nat) (bs : Bytes) (s : State) : TraceOnly k s (tracePut k bs s) := by
  unfold tracePut
  dsimp only
  split
  · split
    · exact .onTrc ..
    · exact (TraceOnly.onTrc k s _).trans (.raise ..)
  · exact .onTrc ..

theorem TraceOnly.flush (k : Nat) (s : State) : TraceOnly k s (flushOutcomes k s) := by
  unfold flushOutcomes
  dsimp only
  split
  · exact .refl ..
  · split <;> exact (TraceOnly.onTrc k s _).trans (.put ..)

theorem TraceOnly.note (k : Nat) (s : State) : TraceOnly k s (noteIds k s) :=
  ⟨⟨_, _, rfl⟩, ⟨_, by simp only [noteIds, State.core_onCore_self]; rfl⟩, fun j hj => by simp [noteIds, State.core_onCore_ne _ _ hj],
    fun _ => rfl⟩

theorem TraceOnly.lostReport (k : Nat) (s : State) : TraceOnly k s (traceLost k s) := by
  unfold traceLost
  dsimp only
  split
  · exact .refl ..
  · exact ((((TraceOnly.onTrc k s _).trans (.flush ..)).trans (.put ..)).trans (.put ..)).trans (.note ..)

/-- An outcome touches the trace and the Holds only. -/
theorem TraceOnly.outcome (k : Nat) (b : Bool) (s : State) : TraceOnly k s (traceOutcome k b s) := by
  unfold traceOutcome
  dsimp only
  generalize (if s.obs.compat = true then 64 else 6) = n
  split
  · split
    · exact (TraceOnly.onTrc k s _).trans (.flush ..)
    · exact .onTrc ..
  · exact .refl ..

/-- An emitted packet touches the trace and the Holds only. -/
theorem TraceOnly.emit (k : Nat) (bs : Bytes) (s : State) : TraceOnly k s (traceEmit k bs s) := by
  unfold traceEmit
  split
  · exact (TraceOnly.flush k s).trans (.put ..)
  · exact .refl ..

theorem TraceOnly.close (k : Nat) (s : State) : TraceOnly k s (traceClose k s) := by
  unfold traceClose
  split
  · exact (TraceOnly.flush k s).trans (.onTrc ..)
  · exact .refl ..

theorem TraceOnly.guarded (k : Nat) (g : Guard) (s : State) : TraceOnly k s (guardTraced k g s) := by
  unfold guardTraced
  split
  · exact .refl ..
  · exact .outcome ..

theorem TraceOnly.seq {k : Nat} {s t : State} (h : TraceOnly k s t) : (t.core k).seq = (s.core k).seq := by
  obtain ⟨x, hx⟩ := h.self
  rw [hx]

theorem TraceOnly.coreTick {k : Nat} {s t : State} (h : TraceOnly k s t) (j : Nat) : t.coreTick j = s.coreTick j := by
  obtain ⟨cs, hh, rfl⟩ := h.others
  exact h.ticks _

theorem TraceOnly.curCtx {k : Nat} {s t : State} (h : TraceOnly k s t) : t.curCtx = s.curCtx := by
  obtain ⟨cs, hh, rfl⟩ := h.others
  rfl

theorem TraceOnly.table {k : Nat} {s t : State} (h : TraceOnly k s t) (a b : Nat) : t.table a b = s.table a b := by
  simp [State.table, h.curCtx]

/-! ### The frame of a sequencer instruction -/

/-- An instruction that executes is its body, after its guard has entered the trace. -/
theorem seqInstr_runs {k : Nat} {i : Instr} {g : Guard} {srcs : List (BitVec 5)} {s : State} (h : seqRuns k g srcs s = true)
    (hn : s.names k i = true) (body : State → State) : seqInstr k i g srcs false body s = body (guardTraced k g s) := by
  simp only [seqRuns, seqFetch, Bool.and_eq_true] at h
  obtain ⟨⟨⟨⟨⟨h1, h2⟩, h3⟩, h4⟩, h5⟩, h6⟩ := h
  simp at h3
  simp [seqInstr, seqAt, seqBody, guardTraced, h1, h2, h3, h4, h5, h6, hn]
  split <;> rfl

/-- A branch that executes is its body, which puts its own outcome in the trace. -/
theorem seqInstr_own {k : Nat} {i : Instr} {g : Guard} {srcs : List (BitVec 5)} {s : State} (h : seqRuns k g srcs s = true)
    (hn : s.names k i = true) (body : State → State) : seqInstr k i g srcs true body s = body s := by
  simp only [seqRuns, seqFetch, Bool.and_eq_true] at h
  obtain ⟨⟨⟨⟨⟨h1, h2⟩, h3⟩, h4⟩, h5⟩, h6⟩ := h
  simp at h3
  simp [seqInstr, seqAt, seqBody, h1, h2, h3, h4, h5, h6, hn]

/-- An instruction whose guard is false moves the PC on and changes nothing else but the trace. -/
theorem seqInstr_skips {k : Nat} {i : Instr} {g : Guard} {srcs : List (BitVec 5)} {own : Bool} {s : State}
    (h : seqFetch k s = true) (hn : s.names k i = true) (hg : (s.core k).seq.guard g = false) (body : State → State) :
    seqInstr k i g srcs own body s = seqNext k 1 (traceOutcome k false s) := by
  simp only [seqFetch, Bool.and_eq_true] at h
  obtain ⟨⟨⟨h1, h2⟩, h3⟩, h4⟩ := h
  simp at h3
  simp [seqInstr, seqAt, seqBody, h1, h2, h3, h4, hg, hn]

/-- A core whose word is another instruction does not execute this one. -/
theorem seqInstr_other {k : Nat} {i : Instr} {g : Guard} {srcs : List (BitVec 5)} {own : Bool} {s : State}
    (h : seqFetch k s = true) (hn : s.names k i = false) (body : State → State) : seqInstr k i g srcs own body s = s := by
  simp only [seqFetch, Bool.and_eq_true] at h
  obtain ⟨⟨⟨h1, h2⟩, h3⟩, h4⟩ := h
  simp at h3
  simp [seqInstr, seqAt, h1, h2, h3, hn]

end Sys2Proof.Machine
end

