-- ==== Sys2Proof/Laws/Issue.lean ====
section
/-! SUPPORT. What the acceptance of one station command does. -/

namespace Sys2Proof.Machine

theorem TraceOnly.tag (k pcw : Nat) (layer op : BitVec 12) (s : State) : TraceOnly k s (traceTag k pcw layer op s) := by
  unfold traceTag
  dsimp only
  generalize (if s.obs.compat = true then _ else _) = bs
  split
  · split
    · exact (TraceOnly.emit k bs s).trans (.onTrc ..)
    · exact .emit ..
  · exact .refl ..

/-- A charge moves the token meter only. -/
theorem acceptCharge_meter (k : Nat) (st : Station) (cmd : Cmd) (n : Nat) (s : State) :
    acceptCharge k st cmd n s = { s with meter := (acceptCharge k st cmd n s).meter } := by
  unfold acceptCharge
  split <;> rfl

theorem accOf_fields (k : Nat) (st : Station) (pcw : Nat) (cmd : Cmd) (s : State) :
    (accOf k st pcw cmd s).1.cmd = cmd ∧ (accOf k st pcw cmd s).1.pcw = pcw ∧ (accOf k st pcw cmd s).1.atT = s.coreTick k ∧
      (accOf k st pcw cmd s).1.stage = .queued ∧ (accOf k st pcw cmd s).1.part = [] ∧ (accOf k st pcw cmd s).1.rest = [] :=
  ⟨rfl, rfl, rfl, rfl, rfl, rfl⟩

/-- A command that is accepted: its place at the end of its station's queue, the draw base its stream may move, the IDs the
sequencer notes, and its charge; the trace takes its packet. A KRECV then reserves its rows. -/
theorem acceptCmd_effect (k : Nat) (st : Station) (pcw : Nat) (cmd : Cmd) (s : State) :
    ∃ (m : Meter) (u : State), TraceOnly k
      { s.setCore k { s.core k with
          lv := (accOf k st pcw cmd s).2
          stn := (s.core k).stn.setQ st { s.stq k st with acc := (s.stq k st).acc ++ [(accOf k st pcw cmd s).1] }
          seq := { (s.core k).seq with lastLayer := cmdLayer cmd, lastOp := cmdOp cmd } } with meter := m } u ∧
      acceptCmd k st pcw cmd s =
        if st = .knead && cmdOpcode cmd = 2 then krecvEnter k (accOf k st pcw cmd s).1 u else u := by
  unfold acceptCmd
  dsimp only
  rw [acceptCharge_meter]
  exact ⟨_, _, .tag .., rfl⟩

end Sys2Proof.Machine
end

