-- ==== Sys2Proof/Laws/Keep.lean ====
section
/-! SUPPORT. What the operations of the block keep: none touches the queue of commands or the clock, and none but a commit and
the tamper response touches the counters of the Tally store or the lifecycle (R452, R453). Each operation has one lemma, which
peels it off: what is kept up to its result is what is kept up to its argument. -/

namespace Sys2Proof.Machine

/-- The parts of the Tally store that only change for ever. -/
def Tally.counters (t : Tally) : Nat × Bool × Nat × Nat × Nat × Bool :=
  (t.lifecycle, t.lock, t.grade, t.config, t.next, t.tamper)

/-- Queue, clock, counters, lifecycle and lock of one state are those of another. -/
structure Kept (s t : State) : Prop where
  pending : t.pending = s.pending
  now : t.now = s.now
  counters : t.sec.tally.counters = s.sec.tally.counters
  life : t.sec.life = s.sec.life
  locked : t.sec.locked = s.sec.locked

theorem Kept.refl (s : State) : Kept s s := ⟨rfl, rfl, rfl, rfl, rfl⟩

@[simp] theorem kept_self (s : State) : Kept s s ↔ True := iff_true_intro (Kept.refl s)

theorem Kept.trans {a b c : State} (h : Kept a b) (g : Kept b c) : Kept a c :=
  ⟨g.pending.trans h.pending, g.now.trans h.now, g.counters.trans h.counters, g.life.trans h.life,
    g.locked.trans h.locked⟩

theorem Kept.symm {a b : State} (h : Kept a b) : Kept b a :=
  ⟨h.pending.symm, h.now.symm, h.counters.symm, h.life.symm, h.locked.symm⟩

theorem kept_iff {r s t : State} (h : Kept s t) : Kept r t ↔ Kept r s := ⟨fun g => g.trans h.symm, fun g => g.trans h⟩

@[simp] theorem kept_ite {r a b : State} {c : Prop} [Decidable c] :
    Kept r (if c then a else b) ↔ (c → Kept r a) ∧ (¬c → Kept r b) := by
  split <;> simp [*]

/-- A state with other parts rewritten. -/
@[simp] theorem kept_mk (r s : State)
    (a2 a3 a4 a5 a6 a7 a8 a9 a10 a11 a12 a13 a14 a15 a16 a17 a18 a19 a20 a21 a22 a23 a24 a25) :
    Kept r ⟨s.pending, s.now, a2, a3, a4, a5, a6, a7, a8, a9, a10, a11, a12, a13, a14, a15, a16, a17, a18, a19, a20, a21, s.sec,
      a22, a23, a24, a25⟩ ↔ Kept r s :=
  kept_iff ⟨rfl, rfl, rfl, rfl, rfl⟩

/-- A write of the security controller beside its counters and its lifecycle. -/
@[simp] theorem kept_onSec (r s : State) (f : SecSt → SecSt)
    (h : ∀ x, (f x).tally.counters = x.tally.counters ∧ (f x).life = x.life ∧ (f x).locked = x.locked) :
    Kept r (s.onSec f) ↔ Kept r s :=
  kept_iff ⟨rfl, rfl, (h s.sec).1, (h s.sec).2.1, (h s.sec).2.2⟩

@[simp] theorem counters_of_pending (t : Tally) (p : Option Nat) (i : List Nat) :
    Tally.counters { t with intents := i, pending := p } = t.counters := rfl

@[simp] theorem counters_of_intents (t : Tally) (i : List Nat) : Tally.counters { t with intents := i } = t.counters := rfl

@[simp] theorem counters_of_leaf (t : Tally) (p : Option Nat) : Tally.counters { t with pending := p } = t.counters := rfl

/-- A run over a list keeps what each of its steps keeps. -/
@[simp] theorem kept_foldl {α : Type} (r s : State) (f : State → α → State) (l : List α) (h : ∀ t a, Kept t (f t a)) :
    Kept r (l.foldl f s) ↔ Kept r s := by
  apply kept_iff
  induction l generalizing s with
  | nil => exact Kept.refl _
  | cons a l ih => exact (h s a).trans (ih _)

/-! ### Machine/Ops.lean -/

@[simp] theorem kept_setCore (r₀ : State) (s : State) (k : Nat) (c : Core) :
    Kept r₀ (State.setCore s k c) ↔ Kept r₀ s :=
  kept_iff (by simp [State.setCore])

@[simp] theorem kept_onCore (r₀ : State) (s : State) (k : Nat) (f : Core → Core) :
    Kept r₀ (State.onCore s k f) ↔ Kept r₀ s :=
  kept_iff (by simp [State.onCore])

@[simp] theorem kept_onSeq (r₀ : State) (s : State) (k : Nat) (f : Seq → Seq) :
    Kept r₀ (State.onSeq s k f) ↔ Kept r₀ s :=
  kept_iff (by simp [State.onSeq])

@[simp] theorem kept_setCluster (r₀ : State) (s : State) (c : Nat) (x : Cluster) :
    Kept r₀ (State.setCluster s c x) ↔ Kept r₀ s :=
  kept_iff (by simp [State.setCluster])

@[simp] theorem kept_onCluster (r₀ : State) (s : State) (c : Nat) (f : Cluster → Cluster) :
    Kept r₀ (State.onCluster s c f) ↔ Kept r₀ s :=
  kept_iff (by simp [State.onCluster])

@[simp] theorem kept_onCtx (r₀ : State) (s : State) (i : Nat) (f : Ctx → Ctx) :
    Kept r₀ (State.onCtx s i f) ↔ Kept r₀ s :=
  kept_iff (by simp [State.onCtx])

@[simp] theorem kept_onPort (r₀ : State) (s : State) (p : Nat) (f : Port → Port) :
    Kept r₀ (State.onPort s p f) ↔ Kept r₀ s :=
  kept_iff (by simp [State.onPort])

@[simp] theorem kept_onStack (r₀ : State) (s : State) (i : Nat) (f : Stack → Stack) :
    Kept r₀ (State.onStack s i f) ↔ Kept r₀ s :=
  kept_iff (by simp [State.onStack])

@[simp] theorem kept_onHost (r₀ : State) (s : State) (f : HostSt → HostSt) :
    Kept r₀ (State.onHost s f) ↔ Kept r₀ s :=
  kept_iff (by simp [State.onHost])

@[simp] theorem kept_onMgmt (r₀ : State) (s : State) (f : MgmtSt → MgmtSt) :
    Kept r₀ (State.onMgmt s f) ↔ Kept r₀ s :=
  kept_iff (by simp [State.onMgmt])

@[simp] theorem kept_onObs (r₀ : State) (s : State) (f : ObsSt → ObsSt) :
    Kept r₀ (State.onObs s f) ↔ Kept r₀ s :=
  kept_iff (by simp [State.onObs])

@[simp] theorem kept_onSync (r₀ : State) (s : State) (f : SyncSt → SyncSt) :
    Kept r₀ (State.onSync s f) ↔ Kept r₀ s :=
  kept_iff (by simp [State.onSync])

@[simp] theorem kept_onProof (r₀ : State) (s : State) (f : ProofSt → ProofSt) :
    Kept r₀ (State.onProof s f) ↔ Kept r₀ s :=
  kept_iff (by simp [State.onProof])

@[simp] theorem kept_onFab (r₀ : State) (s : State) (f : Fabric → Fabric) :
    Kept r₀ (State.onFab s f) ↔ Kept r₀ s :=
  kept_iff (by simp [State.onFab])

@[simp] theorem kept_fresh (r₀ : State) (s : State) :
    Kept r₀ (State.fresh s).2 ↔ Kept r₀ s :=
  kept_iff (by simp [State.fresh])

@[simp] theorem kept_drawFree (r₀ : State) (s : State) :
    Kept r₀ (State.drawFree s).2 ↔ Kept r₀ s :=
  kept_iff (by simp [State.drawFree])

@[simp] theorem kept_drawWords (r : State) (n : Nat) (s : State) : Kept r (drawWords n s).2 ↔ Kept r s := by
  apply kept_iff
  induction n generalizing s with
  | zero => exact Kept.refl _
  | succ n ih => exact Kept.trans (by simp) (ih s.drawFree.2)

@[simp] theorem kept_drawBytes (r : State) (n : Nat) (s : State) : Kept r (drawBytes n s).2 ↔ Kept r s := kept_drawWords r n s

@[simp] theorem kept_postEvent (r₀ : State) (bit : Nat) (hdr : Bytes) (s : State) :
    Kept r₀ (postEvent bit hdr s) ↔ Kept r₀ s :=
  kept_iff (by simp [postEvent])

@[simp] theorem kept_moduleEvent (r₀ : State) (seq : Nat) (s : State) :
    Kept r₀ (moduleEvent seq s) ↔ Kept r₀ s :=
  kept_iff (by simp [moduleEvent])

@[simp] theorem kept_portEvent (r₀ : State) (p st : Nat) (s : State) :
    Kept r₀ (portEvent p st s) ↔ Kept r₀ s :=
  kept_iff (by simp [portEvent])

@[simp] theorem kept_crumb (r₀ : State) (a : CrumbArg) (s : State) :
    Kept r₀ (crumb a s) ↔ Kept r₀ s :=
  kept_iff (by simp [crumb])

@[simp] theorem kept_crumbCommit (r₀ : State) (s : State) :
    Kept r₀ (crumbCommit s) ↔ Kept r₀ s :=
  kept_iff (by simp [crumbCommit])

@[simp] theorem kept_sendOut (r₀ : State) (i : Iface) (hdr payload : Bytes) (s : State) :
    Kept r₀ (sendOut i hdr payload s) ↔ Kept r₀ s :=
  kept_iff (by simp [sendOut])

@[simp] theorem kept_sendReply (r₀ : State) (i : Iface) (enc : Bool) (hdr payload : Bytes) (s : State) :
    Kept r₀ (sendReply i enc hdr payload s) ↔ Kept r₀ s :=
  kept_iff (by simp [sendReply]; split <;> simp)

@[simp] theorem kept_dropTag (r₀ : State) (i : Iface) (tag : BitVec 16) (s : State) :
    Kept r₀ (dropTag i tag s) ↔ Kept r₀ s :=
  kept_iff (by simp [dropTag])

@[simp] theorem kept_onOp (r₀ : State) (s : State) (id : BitVec 32) (f : Op → Op) :
    Kept r₀ (State.onOp s id f) ↔ Kept r₀ s :=
  kept_iff (by simp [State.onOp])

@[simp] theorem kept_endOp (r₀ : State) (id : BitVec 32) (state status : Nat) (s : State) :
    Kept r₀ (endOp id state status s) ↔ Kept r₀ s :=
  kept_iff (by unfold endOp; split <;> simp)

@[simp] theorem kept_complete (r₀ : State) (id : BitVec 32) (status : Nat) (params payload : Bytes) (s : State) :
    Kept r₀ (complete id status params payload s) ↔ Kept r₀ s :=
  kept_iff (by unfold complete; split <;> simp)

@[simp] theorem kept_replyOp (r₀ : State) (id : BitVec 32) (status : Nat) (s : State) :
    Kept r₀ (replyOp id status s) ↔ Kept r₀ s :=
  kept_iff (by unfold replyOp; split <;> simp)

@[simp] theorem kept_setMod (r₀ : State) (m : ModState) (s : State) :
    Kept r₀ (setMod m s) ↔ Kept r₀ s :=
  kept_iff (by simp [setMod])

@[simp] theorem kept_syncMod (r₀ : State) (s : State) :
    Kept r₀ (syncMod s) ↔ Kept r₀ s :=
  kept_iff (by unfold syncMod; split <;> simp)

@[simp] theorem kept_jobEvent (r₀ : State) (i : Nat) (s : State) :
    Kept r₀ (jobEvent i s) ↔ Kept r₀ s :=
  kept_iff (by simp [jobEvent])

@[simp] theorem kept_lapseArm (r₀ : State) (i : Nat) (status : Nat) (tag : BitVec 16) (s : State) :
    Kept r₀ (lapseArm i status tag s) ↔ Kept r₀ s :=
  kept_iff (by unfold lapseArm; split <;> simp)

@[simp] theorem kept_endCapture (r₀ : State) (i : Nat) (s : State) :
    Kept r₀ (endCapture i s) ↔ Kept r₀ s :=
  kept_iff (by unfold endCapture; split <;> simp)

@[simp] theorem kept_ctxLeaves (r₀ : State) (i : Nat) (st : CtxState) (s : State) :
    Kept r₀ (ctxLeaves i st s) ↔ Kept r₀ s := by
  apply kept_iff
  unfold ctxLeaves
  repeat' first
    | (simp; done)
    | split
    | (rename_i h; obtain ⟨rfl, rfl⟩ := Prod.ext_iff.mp h; clear h)
    | (simp; split)
    | rw [kept_whenReady]
    | rw [kept_ringThen]
    | rw [kept_dmaStart]
    | rw [kept_foldl]
    | intro _
    | dsimp only

@[simp] theorem kept_setCtxSt (r₀ : State) (i : Nat) (st : CtxState) (s : State) :
    Kept r₀ (setCtxSt i st s) ↔ Kept r₀ s :=
  kept_iff (by unfold setCtxSt; (repeat' split) <;> simp)

@[simp] theorem kept_abandonKnead (r₀ : State) (k : Nat) (s : State) :
    Kept r₀ (abandonKnead k s) ↔ Kept r₀ s :=
  kept_iff (by simp [abandonKnead])

@[simp] theorem kept_faultReplace (r₀ : State) (k : Nat) (a : FaultArg) (s : State) :
    Kept r₀ (faultReplace k a s) ↔ Kept r₀ s :=
  kept_iff (by unfold faultReplace; split <;> simp)

@[simp] theorem kept_faultLog (r₀ : State) (k : Nat) (a : FaultArg) (s : State) :
    Kept r₀ (faultLog k a s) ↔ Kept r₀ s :=
  kept_iff (by simp [faultLog])

@[simp] theorem kept_coreFault (r₀ : State) (k : Nat) (a : FaultArg) (s : State) :
    Kept r₀ (coreFault k a s) ↔ Kept r₀ s :=
  kept_iff (by unfold coreFault; split <;> simp)

@[simp] theorem kept_stopTick (r₀ : State) (s : State) :
    Kept r₀ (stopTick s) ↔ Kept r₀ s :=
  kept_iff (by unfold stopTick; rw [kept_foldl]; simp; intros; (repeat' split) <;> simp)

@[simp] theorem kept_faultTick (r₀ : State) (s : State) :
    Kept r₀ (faultTick s) ↔ Kept r₀ s :=
  kept_iff (by unfold faultTick; rw [kept_foldl]; simp; intros; (repeat' split) <;> simp)

@[simp] theorem kept_recordRecov (r₀ : State) (k : Nat) (code : BitVec 8) (station : BitVec 3) (layer op : BitVec 12) (s :
    State) :
    Kept r₀ (recordRecov k code station layer op s) ↔ Kept r₀ s :=
  kept_iff (by simp [recordRecov])

@[simp] theorem kept_contFault (r₀ : State) (k : Nat) (code : BitVec 8) (station : BitVec 3) (layer op : BitVec 12) (detail :
    Bytes) (s : State) :
    Kept r₀ (contFault k code station layer op detail s) ↔ Kept r₀ s :=
  kept_iff (by simp [contFault])

@[simp] theorem kept_freezeNow (r₀ : State) (c : Nat) (s : State) :
    Kept r₀ (freezeNow c s) ↔ Kept r₀ s :=
  kept_iff (by simp [freezeNow])

@[simp] theorem kept_raiseIsland (r₀ : State) (c : Nat) (cause : BitVec 4) (core item : Option Nat) (s : State) :
    Kept r₀ (raiseIsland c cause core item s) ↔ Kept r₀ s :=
  kept_iff (by simp [raiseIsland]; split <;> simp)

@[simp] theorem kept_raiseService (r₀ : State) (who : RaiserId) (cause : BitVec 4) (owes : Option (Nat × BitVec 3 × BitVec 12
    × BitVec 12)) (s : State) :
    Kept r₀ (raiseService who cause owes s) ↔ Kept r₀ s :=
  kept_iff (by unfold raiseService; split <;> simp)

@[simp] theorem kept_clearCause (r₀ : State) (p : Raiser → Bool) (s : State) :
    Kept r₀ (clearCause p s) ↔ Kept r₀ s :=
  kept_iff (by simp [clearCause])

@[simp] theorem kept_charge (r₀ : State) (budget : Option Nat) (tokens : Nat) (core : Option Nat) (st : BitVec 3) (layer op :
    BitVec 12) (s : State) :
    Kept r₀ (charge budget tokens core st layer op s) ↔ Kept r₀ s :=
  kept_iff (by simp [charge])

@[simp] theorem kept_chargeSpan (r₀ : State) (k start ticks tokens : Nat) (st : BitVec 3) (layer op : BitVec 12) (s : State) :
    Kept r₀ (chargeSpan k start ticks tokens st layer op s) ↔ Kept r₀ s :=
  kept_iff (by simp [chargeSpan])

@[simp] theorem kept_monSample (r₀ : State) (m v : Nat) (s : State) :
    Kept r₀ (monSample m v s) ↔ Kept r₀ s :=
  kept_iff (by simp [monSample])

/-! ### Machine/Trace.lean -/

@[simp] theorem kept_onTrc (r₀ : State) (s : State) (k : Nat) (f : Trace → Trace) :
    Kept r₀ (State.onTrc s k f) ↔ Kept r₀ s :=
  kept_iff (by simp [State.onTrc])

@[simp] theorem kept_tracePut (r₀ : State) (k : Nat) (bs : Bytes) (s : State) :
    Kept r₀ (tracePut k bs s) ↔ Kept r₀ s :=
  kept_iff (by simp [tracePut])

@[simp] theorem kept_flushOutcomes (r₀ : State) (k : Nat) (s : State) :
    Kept r₀ (flushOutcomes k s) ↔ Kept r₀ s :=
  kept_iff (by simp [flushOutcomes])

@[simp] theorem kept_noteIds (r₀ : State) (k : Nat) (s : State) :
    Kept r₀ (noteIds k s) ↔ Kept r₀ s :=
  kept_iff (by simp [noteIds])

@[simp] theorem kept_noteIfPut (r₀ : State) (k : Nat) (s : State) :
    Kept r₀ (noteIfPut k s) ↔ Kept r₀ s :=
  kept_iff (by simp [noteIfPut])

@[simp] theorem kept_traceLost (r₀ : State) (k : Nat) (s : State) :
    Kept r₀ (traceLost k s) ↔ Kept r₀ s :=
  kept_iff (by simp [traceLost])

@[simp] theorem kept_traceEmit (r₀ : State) (k : Nat) (bs : Bytes) (s : State) :
    Kept r₀ (traceEmit k bs s) ↔ Kept r₀ s :=
  kept_iff (by simp [traceEmit])

@[simp] theorem kept_traceOutcome (r₀ : State) (k : Nat) (b : Bool) (s : State) :
    Kept r₀ (traceOutcome k b s) ↔ Kept r₀ s :=
  kept_iff (by simp [traceOutcome])

@[simp] theorem kept_traceSync (r₀ : State) (k : Nat) (s : State) :
    Kept r₀ (traceSync k s) ↔ Kept r₀ s :=
  kept_iff (by simp [traceSync])

@[simp] theorem kept_traceTag (r₀ : State) (k pcw : Nat) (layer op : BitVec 12) (s : State) :
    Kept r₀ (traceTag k pcw layer op s) ↔ Kept r₀ s :=
  kept_iff (by simp [traceTag])

@[simp] theorem kept_traceRet (r₀ : State) (k target : Nat) (s : State) :
    Kept r₀ (traceRet k target s) ↔ Kept r₀ s :=
  kept_iff (by simp [traceRet])

@[simp] theorem kept_traceProof (r₀ : State) (k : Nat) (p : ProofArg) (s : State) :
    Kept r₀ (traceProof k p s) ↔ Kept r₀ s :=
  kept_iff (by simp [traceProof])

@[simp] theorem kept_traceClose (r₀ : State) (k : Nat) (s : State) :
    Kept r₀ (traceClose k s) ↔ Kept r₀ s :=
  kept_iff (by simp [traceClose])

/-! ### Machine/Operands.lean -/

@[simp] theorem kept_onStq (r₀ : State) (s : State) (k : Nat) (st : Station) (f : StationQ → StationQ) :
    Kept r₀ (State.onStq s k st f) ↔ Kept r₀ s :=
  kept_iff (by simp [State.onStq])

/-! ### Machine/Leaven.lean -/

/-! ### Machine/Station.lean -/

@[simp] theorem kept_onHead (r₀ : State) (k : Nat) (st : Station) (f : Acc → Acc) (s : State) :
    Kept r₀ (onHead k st f s) ↔ Kept r₀ s :=
  kept_iff (by simp [onHead])

@[simp] theorem kept_stall (r₀ : State) (k : Nat) (st : Station) (reason : Nat) (s : State) :
    Kept r₀ (stall k st reason s) ↔ Kept r₀ s :=
  kept_iff (by simp [stall])

@[simp] theorem kept_begin' (r₀ : State) (k : Nat) (st : Station) (retire : Nat) (s : State) :
    Kept r₀ (begin' k st retire s) ↔ Kept r₀ s :=
  kept_iff (by simp [begin'])

@[simp] theorem kept_beginOpen (r₀ : State) (k : Nat) (st : Station) (s : State) :
    Kept r₀ (beginOpen k st s) ↔ Kept r₀ s :=
  kept_iff (by simp [beginOpen])

@[simp] theorem kept_onIssued (r₀ : State) (k : Nat) (st : Station) (f : Acc → Acc) (s : State) :
    Kept r₀ (onIssued k st f s) ↔ Kept r₀ s :=
  kept_iff (by simp [onIssued])

@[simp] theorem kept_runHead (r₀ : State) (k : Nat) (st : Station) (opcode : Nat) (f : Acc → State → State) (s : State) (h_f :
    ∀ x0 t, Kept t (f x0 t)) :
    Kept r₀ (runHead k st opcode f s) ↔ Kept r₀ s := by
  apply kept_iff
  unfold runHead
  repeat' first
    | (simp [h_f]; done)
    | split
    | (rename_i h; obtain ⟨rfl, rfl⟩ := Prod.ext_iff.mp h; clear h)
    | (simp [h_f]; split)
    | rw [kept_whenReady]
    | rw [kept_ringThen]
    | rw [kept_dmaStart]
    | rw [kept_foldl]
    | intro _
    | dsimp only

@[simp] theorem kept_stationFault (r₀ : State) (k : Nat) (st : Station) (a : Acc) (code : BitVec 8) (detail : Word) (s :
    State) :
    Kept r₀ (stationFault k st a code detail s) ↔ Kept r₀ s :=
  kept_iff (by simp [stationFault])

@[simp] theorem kept_whenReady (r₀ : State) (k : Nat) (st : Station) (ins outs : List Nat) (fromTick : Nat) (body : State →
    State) (s : State) (h_body : ∀ t, Kept t (body t)) :
    Kept r₀ (whenReady k st ins outs fromTick body s) ↔ Kept r₀ s := by
  apply kept_iff
  unfold whenReady
  repeat' first
    | (simp [h_body]; done)
    | split
    | (rename_i h; obtain ⟨rfl, rfl⟩ := Prod.ext_iff.mp h; clear h)
    | (simp [h_body]; split)
    | rw [kept_whenReady]
    | rw [kept_ringThen]
    | rw [kept_dmaStart]
    | rw [kept_foldl]
    | intro _
    | dsimp only

@[simp] theorem kept_drainTurn (r₀ : State) (k : Nat) (st : Station) (s : State) :
    Kept r₀ (drainTurn k st s) ↔ Kept r₀ s :=
  kept_iff (by simp [drainTurn])

@[simp] theorem kept_drainWhen (r₀ : State) (k : Nat) (st : Station) (out fromTick : Nat) (body : State → State) (s : State)
    (h_body : ∀ t, Kept t (body t)) :
    Kept r₀ (drainWhen k st out fromTick body s) ↔ Kept r₀ s := by
  apply kept_iff
  unfold drainWhen
  repeat' first
    | (simp [h_body]; done)
    | split
    | (rename_i h; obtain ⟨rfl, rfl⟩ := Prod.ext_iff.mp h; clear h)
    | (simp [h_body]; split)
    | rw [kept_whenReady]
    | rw [kept_ringThen]
    | rw [kept_dmaStart]
    | rw [kept_foldl]
    | intro _
    | dsimp only

@[simp] theorem kept_beginDrain (r₀ : State) (k : Nat) (st : Station) (retire : Nat) (s : State) :
    Kept r₀ (beginDrain k st retire s) ↔ Kept r₀ s :=
  kept_iff (by simp [beginDrain])

@[simp] theorem kept_tryIssued (r₀ : State) (k : Nat) (st : Station) (f : Acc → State → State) (s : State) (h_f : ∀ x0 t, Kept
    t (f x0 t)) :
    Kept r₀ (tryIssued k st f s) ↔ Kept r₀ s := by
  apply kept_iff
  unfold tryIssued
  repeat' first
    | (simp [h_f]; done)
    | split
    | (rename_i h; obtain ⟨rfl, rfl⟩ := Prod.ext_iff.mp h; clear h)
    | (simp [h_f]; split)
    | rw [kept_whenReady]
    | rw [kept_ringThen]
    | rw [kept_dmaStart]
    | rw [kept_foldl]
    | intro _
    | dsimp only

@[simp] theorem kept_runDrain (r₀ : State) (k : Nat) (st : Station) (opcode : Nat) (f : Acc → State → State) (s : State) (h_f
    : ∀ x0 t, Kept t (f x0 t)) :
    Kept r₀ (runDrain k st opcode f s) ↔ Kept r₀ s := by
  apply kept_iff
  unfold runDrain
  repeat' first
    | (simp [h_f]; done)
    | split
    | (rename_i h; obtain ⟨rfl, rfl⟩ := Prod.ext_iff.mp h; clear h)
    | (simp [h_f]; split)
    | rw [kept_whenReady]
    | rw [kept_ringThen]
    | rw [kept_dmaStart]
    | rw [kept_foldl]
    | intro _
    | dsimp only

@[simp] theorem kept_onStn (r₀ : State) (s : State) (k : Nat) (f : Stations → Stations) :
    Kept r₀ (State.onStn s k f) ↔ Kept r₀ s :=
  kept_iff (by simp [State.onStn])

/-! ### Machine/Matrix.lean -/

@[simp] theorem kept_onMx (r₀ : State) (s : State) (k : Nat) (f : Matrix → Matrix) :
    Kept r₀ (State.onMx s k f) ↔ Kept r₀ s :=
  kept_iff (by simp [State.onMx])

@[simp] theorem kept_takeAll (r₀ : State) (k : Nat) (ins : List Nat) (due : Nat) (s : State) :
    Kept r₀ (takeAll k ins due s) ↔ Kept r₀ s :=
  kept_iff (by simp [takeAll])

@[simp] theorem kept_mxLoad (r₀ : State) (k : Nat) (both : Bool) (ins : List Nat) (ticks : Nat) (f : Core → MArray → MArray)
    (a : Acc) (s : State) :
    Kept r₀ (mxLoad k both ins ticks f a s) ↔ Kept r₀ s :=
  kept_iff (by simp [mxLoad])

@[simp] theorem kept_mxDoLoad (r₀ : State) (k : Nat) (a : Acc) (s : State) :
    Kept r₀ (mxDoLoad k a s) ↔ Kept r₀ s :=
  kept_iff (by simp [mxDoLoad])

@[simp] theorem kept_mxDoLoadpair (r₀ : State) (k : Nat) (a : Acc) (s : State) :
    Kept r₀ (mxDoLoadpair k a s) ↔ Kept r₀ s :=
  kept_iff (by simp [mxDoLoadpair])

@[simp] theorem kept_mxDoLoad32 (r₀ : State) (k : Nat) (a : Acc) (s : State) :
    Kept r₀ (mxDoLoad32 k a s) ↔ Kept r₀ s :=
  kept_iff (by simp [mxDoLoad32])

@[simp] theorem kept_mxRunStream (r₀ : State) (k : Nat) (group : List Nat) (banks : List (Nat × Bool × Nat)) (ticks tokens :
    Nat) (k64 : Bool) (ins : List Nat) (f : Core → Nat → Matrix → Matrix) (a : Acc) (s : State) :
    Kept r₀ (mxRunStream k group banks ticks tokens k64 ins f a s) ↔ Kept r₀ s :=
  kept_iff (by simp [mxRunStream])

@[simp] theorem kept_mxDoStream (r₀ : State) (k : Nat) (a : Acc) (s : State) :
    Kept r₀ (mxDoStream k a s) ↔ Kept r₀ s :=
  kept_iff (by simp [mxDoStream])

@[simp] theorem kept_mxRunMulti (r₀ : State) (k : Nat) (banks : List (Bool × Nat)) (ticks tokens fmt : Nat) (ins : List Nat)
    (a : Acc) (s : State) :
    Kept r₀ (mxRunMulti k banks ticks tokens fmt ins a s) ↔ Kept r₀ s :=
  kept_iff (by simp [mxRunMulti])

@[simp] theorem kept_mxDoStreami (r₀ : State) (k : Nat) (a : Acc) (s : State) :
    Kept r₀ (mxDoStreami k a s) ↔ Kept r₀ s :=
  kept_iff (by simp [mxDoStreami])

@[simp] theorem kept_mxDoStream32 (r₀ : State) (k : Nat) (a : Acc) (s : State) :
    Kept r₀ (mxDoStream32 k a s) ↔ Kept r₀ s :=
  kept_iff (by simp [mxDoStream32])

@[simp] theorem kept_mxDoStreamc (r₀ : State) (k : Nat) (a : Acc) (s : State) :
    Kept r₀ (mxDoStreamc k a s) ↔ Kept r₀ s :=
  kept_iff (by simp [mxDoStreamc])

@[simp] theorem kept_mxDoSetmode (r₀ : State) (k : Nat) (a : Acc) (s : State) :
    Kept r₀ (mxDoSetmode k a s) ↔ Kept r₀ s :=
  kept_iff (by simp [mxDoSetmode])

@[simp] theorem kept_mxDoSetidx (r₀ : State) (k : Nat) (a : Acc) (s : State) :
    Kept r₀ (mxDoSetidx k a s) ↔ Kept r₀ s :=
  kept_iff (by simp [mxDoSetidx])

@[simp] theorem kept_mxDoDrain (r₀ : State) (k : Nat) (a : Acc) (s : State) :
    Kept r₀ (mxDoDrain k a s) ↔ Kept r₀ s :=
  kept_iff (by simp [mxDoDrain])

/-! ### Machine/Mesh.lean -/

@[simp] theorem kept_usePorts (r₀ : State) (s : State) (n : Nat) (ps : List (Nat × Nat)) :
    Kept r₀ (State.usePorts s n ps) ↔ Kept r₀ s :=
  kept_iff (by simp [State.usePorts])

@[simp] theorem kept_sendNew (r₀ : State) (s : State) (p : Pkt) :
    Kept r₀ (State.sendNew s p).2 ↔ Kept r₀ s :=
  kept_iff (by simp [State.sendNew])

@[simp] theorem kept_sendPkt (r₀ : State) (s : State) (p : Pkt) :
    Kept r₀ (State.sendPkt s p) ↔ Kept r₀ s :=
  kept_iff (by simp [State.sendPkt])

@[simp] theorem kept_sendCtl (r₀ : State) (s : State) (src dst units : Nat) (core : Option Nat) :
    Kept r₀ (State.sendCtl s src dst units core).2 ↔ Kept r₀ s :=
  kept_iff (by simp [State.sendCtl])

@[simp] theorem kept_onPkt (r₀ : State) (s : State) (pid : Nat) (f : Pkt → Pkt) :
    Kept r₀ (State.onPkt s pid f) ↔ Kept r₀ s :=
  kept_iff (by simp [State.onPkt])

@[simp] theorem kept_dropPkt (r₀ : State) (s : State) (pid : Nat) :
    Kept r₀ (State.dropPkt s pid) ↔ Kept r₀ s :=
  kept_iff (by simp [State.dropPkt])

@[simp] theorem kept_keepPkts (r₀ : State) (s : State) (p : Pkt → Bool) :
    Kept r₀ (State.keepPkts s p) ↔ Kept r₀ s :=
  kept_iff (by simp [State.keepPkts])

@[simp] theorem kept_consume (r₀ : State) (s : State) (pid : Option Nat) :
    Kept r₀ (State.consume s pid) ↔ Kept r₀ s :=
  kept_iff (by unfold State.consume; split <;> simp)

@[simp] theorem kept_onXfer (r₀ : State) (s : State) (id : Nat) (f : Xfer → Xfer) :
    Kept r₀ (State.onXfer s id f) ↔ Kept r₀ s :=
  kept_iff (by simp [State.onXfer])

@[simp] theorem kept_xferFault (r₀ : State) (core id : Nat) (st : BitVec 3) (addr : Nat) (s : State) :
    Kept r₀ (xferFault core id st addr s) ↔ Kept r₀ s :=
  kept_iff (by simp [xferFault])

@[simp] theorem kept_hostUncorr (r₀ : State) (a : Nat) (s : State) :
    Kept r₀ (hostUncorr a s) ↔ Kept r₀ s :=
  kept_iff (by simp [hostUncorr])

@[simp] theorem kept_bulkGot (r₀ : State) (id k : Nat) (data : Bytes) (s : State) :
    Kept r₀ (bulkGot id k data s) ↔ Kept r₀ s :=
  kept_iff (by simp [bulkGot])

@[simp] theorem kept_bulkLost (r₀ : State) (id : Nat) (p : Pkt) (s : State) : Kept r₀ (bulkLost id p s) ↔ Kept r₀ s := by
  apply kept_iff
  unfold bulkLost
  generalize (List.replicate 512 0 : Bytes) = d
  simp

@[simp] theorem kept_onRouter (r₀ : State) (s : State) (r : Nat) (f : Router → Router) :
    Kept r₀ (State.onRouter s r f) ↔ Kept r₀ s :=
  kept_iff (by simp [State.onRouter])

@[simp] theorem kept_leaveLanding (r₀ : State) (p : Landed → Bool) (s : State) : Kept r₀ (leaveLanding p s) ↔ Kept r₀ s := by
  apply kept_iff
  unfold leaveLanding
  rw [kept_onFab, kept_foldl]
  · exact Kept.refl _
  · intro t l
    split <;> simp

@[simp] theorem kept_lostPkt (r₀ : State) (p : Pkt) (s : State) :
    Kept r₀ (lostPkt p s) ↔ Kept r₀ s :=
  kept_iff (by simp [lostPkt]; split <;> simp)

@[simp] theorem kept_atController (r₀ : State) (p : Pkt) (s : State) :
    Kept r₀ (atController p s) ↔ Kept r₀ s :=
  kept_iff (by unfold atController; split <;> simp)

@[simp] theorem kept_routerArrival (r₀ : State) (pid : Nat) (ecc : Ecc) (s : State) :
    Kept r₀ (routerArrival pid ecc s) ↔ Kept r₀ s :=
  kept_iff (by unfold routerArrival; (repeat' split) <;> simp)

@[simp] theorem kept_answer (r₀ : State) (p : Pkt) (kind : PktKind) (data : Bytes) (s : State) :
    Kept r₀ (answer p kind data s) ↔ Kept r₀ s :=
  kept_iff (by simp [answer])

@[simp] theorem kept_answerRead (r₀ : State) (p : Pkt) (st : BitVec 3) (data : Bytes) (bad : Bool) (s : State) :
    Kept r₀ (answerRead p st data bad s) ↔ Kept r₀ s := by
  apply kept_iff
  unfold answerRead
  generalize (List.replicate 512 0 : Bytes) = d
  split
  · simp
  · split <;> simp

@[simp] theorem kept_stackRequest (r₀ : State) (st : Nat) (ecc : Ecc) (s : State) :
    Kept r₀ (stackRequest st ecc s) ↔ Kept r₀ s :=
  kept_iff (by unfold stackRequest; (repeat' split) <;> simp)

@[simp] theorem kept_maintOpen (r₀ : State) (i : Nat) (s : State) :
    Kept r₀ (maintOpen i s) ↔ Kept r₀ s :=
  kept_iff (by unfold maintOpen; split <;> simp)

@[simp] theorem kept_maintClose (r₀ : State) (i : Nat) (s : State) :
    Kept r₀ (maintClose i s) ↔ Kept r₀ s :=
  kept_iff (by simp [maintClose])

@[simp] theorem kept_scrubFound (r₀ : State) (st addr : Nat) (ecc : Ecc) (s : State) :
    Kept r₀ (scrubFound st addr ecc s) ↔ Kept r₀ s :=
  kept_iff (by unfold scrubFound; split <;> simp)

@[simp] theorem kept_scrubStep (r₀ : State) (st : Nat) (ecc : Ecc) (s : State) :
    Kept r₀ (scrubStep st ecc s) ↔ Kept r₀ s :=
  kept_iff (by simp [scrubStep]; split <;> simp)

/-! ### Machine/Clm.lean -/

@[simp] theorem kept_ringFault (r₀ : State) (k : Nat) (st : Station) (a : Acc) (n : Nat) (e : RingErr) (s : State) :
    Kept r₀ (ringFault k st a n e s) ↔ Kept r₀ s :=
  kept_iff (by unfold ringFault; split <;> simp)

@[simp] theorem kept_putRow (r₀ : State) (s : State) (c r : Nat) (data : Bytes) :
    Kept r₀ (State.putRow s c r data) ↔ Kept r₀ s :=
  kept_iff (by simp [State.putRow])

@[simp] theorem kept_engFault (r₀ : State) (x : Resv) (code : BitVec 8) (detail : Nat) (s : State) :
    Kept r₀ (engFault x code detail s) ↔ Kept r₀ s :=
  kept_iff (by simp [engFault])

@[simp] theorem kept_collide (r₀ : State) (c : Nat) (x : Resv) (n : Nat) (s : State) :
    Kept r₀ (collide c x n s) ↔ Kept r₀ s :=
  kept_iff (by simp [collide])

@[simp] theorem kept_queueAt (r₀ : State) (t c row : Nat) (work : BankWork) (s : State) :
    Kept r₀ (queueAt t c row work s) ↔ Kept r₀ s :=
  kept_iff (by simp [queueAt])

@[simp] theorem kept_queueAccess (r₀ : State) (c row : Nat) (work : BankWork) (s : State) :
    Kept r₀ (queueAccess c row work s) ↔ Kept r₀ s :=
  kept_iff (by simp [queueAccess])

@[simp] theorem kept_countEcc (r₀ : State) (c : Nat) (e : Ecc) (s : State) :
    Kept r₀ (countEcc c e s) ↔ Kept r₀ s :=
  kept_iff (by unfold countEcc; split <;> simp)

@[simp] theorem kept_onResv (r₀ : State) (c : Nat) (x : Resv) (f : Resv → Resv) (s : State) :
    Kept r₀ (onResv c x f s) ↔ Kept r₀ s :=
  kept_iff (by simp [onResv])

@[simp] theorem kept_engineCycle (r₀ : State) (c : Nat) (x : Resv) (s : State) :
    Kept r₀ (engineCycle c x s) ↔ Kept r₀ s :=
  kept_iff (by simp [engineCycle])

@[simp] theorem kept_engineMove (r₀ : State) (c : Nat) (x : Resv) (s : State) :
    Kept r₀ (engineMove c x s) ↔ Kept r₀ s :=
  kept_iff (by simp [engineMove]; split <;> simp)

@[simp] theorem kept_engineMoves (r₀ : State) (c : Nat) (s : State) :
    Kept r₀ (engineMoves c s) ↔ Kept r₀ s :=
  kept_iff (by simp [engineMoves])

@[simp] theorem kept_engineRun (r₀ : State) (c : Nat) (s : State) :
    Kept r₀ (engineRun c s) ↔ Kept r₀ s :=
  kept_iff (by simp [engineRun])

@[simp] theorem kept_engineTidy (r₀ : State) (c : Nat) (s : State) :
    Kept r₀ (engineTidy c s) ↔ Kept r₀ s :=
  kept_iff (by simp [engineTidy])

@[simp] theorem kept_pendMet (r₀ : State) (c : Nat) (rows : List Nat) (s : State) :
    Kept r₀ (pendMet c rows s) ↔ Kept r₀ s := by
  apply kept_iff
  unfold pendMet
  repeat' first
    | (simp; done)
    | split
    | (rename_i h; obtain ⟨rfl, rfl⟩ := Prod.ext_iff.mp h; clear h)
    | (simp; split)
    | rw [kept_whenReady]
    | rw [kept_ringThen]
    | rw [kept_dmaStart]
    | rw [kept_foldl]
    | intro _
    | dsimp only

@[simp] theorem kept_ringThen (r₀ : State) (k : Nat) (st : Station) (a : Acc) (r : Except RingErr (Nat × Ring)) (body : Nat →
    Ring → State → State) (s : State) (h_body : ∀ x0 x1 t, Kept t (body x0 x1 t)) :
    Kept r₀ (ringThen k st a r body s) ↔ Kept r₀ s := by
  apply kept_iff
  unfold ringThen
  repeat' first
    | (simp [h_body]; done)
    | split
    | (rename_i h; obtain ⟨rfl, rfl⟩ := Prod.ext_iff.mp h; clear h)
    | (simp [h_body]; split)
    | rw [kept_whenReady]
    | rw [kept_ringThen]
    | rw [kept_dmaStart]
    | rw [kept_foldl]
    | intro _
    | dsimp only

@[simp] theorem kept_putResv (r₀ : State) (c : Nat) (n : Nat) (ring : Ring) (rs : List Resv) (shift : Nat) (s : State) :
    Kept r₀ (putResv c n ring rs shift s) ↔ Kept r₀ s :=
  kept_iff (by simp [putResv])

@[simp] theorem kept_setPortTick (r₀ : State) (k : Nat) (st : Station) (t : Nat) (s : State) :
    Kept r₀ (setPortTick k st t s) ↔ Kept r₀ s :=
  kept_iff (by simp [setPortTick])

@[simp] theorem kept_setBusy (r₀ : State) (k : Nat) (st : Station) (t : Nat) (s : State) :
    Kept r₀ (setBusy k st t s) ↔ Kept r₀ s :=
  kept_iff (by simp [setBusy])

@[simp] theorem kept_beginShifted (r₀ : State) (k : Nat) (st : Station) (retire d from' : Nat) (s : State) :
    Kept r₀ (beginShifted k st retire d from' s) ↔ Kept r₀ s :=
  kept_iff (by simp [beginShifted])

@[simp] theorem kept_engineReady (r₀ : State) (k : Nat) (st : Station) (a : Acc) (ins outs : List Nat) (body : Nat → State →
    State) (s : State) (h_body : ∀ x0 t, Kept t (body x0 t)) :
    Kept r₀ (engineReady k st a ins outs body s) ↔ Kept r₀ s := by
  apply kept_iff
  unfold engineReady
  repeat' first
    | (simp [h_body]; done)
    | split
    | (rename_i h; obtain ⟨rfl, rfl⟩ := Prod.ext_iff.mp h; clear h)
    | (simp [h_body]; split)
    | rw [kept_whenReady]
    | rw [kept_ringThen]
    | rw [kept_dmaStart]
    | rw [kept_foldl]
    | intro _
    | dsimp only

@[simp] theorem kept_rdDo (r₀ : State) (k : Nat) (ecc : List Ecc) (a : Acc) (s : State) :
    Kept r₀ (rdDo k ecc a s) ↔ Kept r₀ s :=
  kept_iff (by simp [rdDo])

@[simp] theorem kept_wrDo (r₀ : State) (k : Nat) (a : Acc) (s : State) :
    Kept r₀ (wrDo k a s) ↔ Kept r₀ s :=
  kept_iff (by simp [wrDo])

@[simp] theorem kept_accDo (r₀ : State) (k : Nat) (ecc : List Ecc) (a : Acc) (s : State) :
    Kept r₀ (accDo k ecc a s) ↔ Kept r₀ s :=
  kept_iff (by simp [accDo])

@[simp] theorem kept_rdropDo (r₀ : State) (k : Nat) (a : Acc) (s : State) :
    Kept r₀ (rdropDo k a s) ↔ Kept r₀ s := by
  apply kept_iff
  unfold rdropDo
  repeat' first
    | (simp; done)
    | split
    | (rename_i h; obtain ⟨rfl, rfl⟩ := Prod.ext_iff.mp h; clear h)
    | (simp; split)
    | rw [kept_whenReady]
    | rw [kept_ringThen]
    | rw [kept_dmaStart]
    | rw [kept_foldl]
    | intro _
    | dsimp only

@[simp] theorem kept_dmaStart (r₀ : State) (k : Nat) (st : Station) (a : Acc) (body : Nat → State → State) (s : State)
    (h_body : ∀ n t, Kept t (body n t)) : Kept r₀ (dmaStart k st a body s) ↔ Kept r₀ s := by
  apply kept_iff
  unfold dmaStart
  rw [kept_whenReady]
  · exact Kept.refl s
  · intro t
    split
    · simp
    · split
      · simp
      · split
        · simp
        · exact Kept.trans (by simp) (h_body t.fresh.1 t.fresh.2)

@[simp] theorem kept_dmaEnter (r₀ : State) (k : Nat) (st : Station) (a : Acc) (kd : XferKind) (id : Nat) (ring : Ring) (rows :
    List Nat) (s : State) :
    Kept r₀ (dmaEnter k st a kd id ring rows s) ↔ Kept r₀ s :=
  kept_iff (by simp [dmaEnter])

@[simp] theorem kept_fillDo (r₀ : State) (k : Nat) (a : Acc) (s : State) :
    Kept r₀ (fillDo k a s) ↔ Kept r₀ s := by
  apply kept_iff
  unfold fillDo
  repeat' first
    | (simp; done)
    | split
    | (rename_i h; obtain ⟨rfl, rfl⟩ := Prod.ext_iff.mp h; clear h)
    | (simp; split)
    | rw [kept_whenReady]
    | rw [kept_ringThen]
    | rw [kept_dmaStart]
    | rw [kept_foldl]
    | intro _
    | dsimp only

@[simp] theorem kept_wbackDo (r₀ : State) (k : Nat) (a : Acc) (s : State) :
    Kept r₀ (wbackDo k a s) ↔ Kept r₀ s := by
  apply kept_iff
  unfold wbackDo
  repeat' first
    | (simp; done)
    | split
    | (rename_i h; obtain ⟨rfl, rfl⟩ := Prod.ext_iff.mp h; clear h)
    | (simp; split)
    | rw [kept_whenReady]
    | rw [kept_ringThen]
    | rw [kept_dmaStart]
    | rw [kept_foldl]
    | intro _
    | dsimp only

/-! ### Machine/Obs.lean -/

@[simp] theorem kept_obsRecord (r₀ : State) (kind scope core w4 cell vid phase : Nat) (layer op : BitVec 12) (module : Nat) (s
    : State) :
    Kept r₀ (obsRecord kind scope core w4 cell vid phase layer op module s) ↔ Kept r₀ s :=
  kept_iff (by simp [obsRecord])

@[simp] theorem kept_obsEvent (r₀ : State) (kind scope core w4 cell vid : Nat) (layer op : BitVec 12) (s : State) :
    Kept r₀ (obsEvent kind scope core w4 cell vid layer op s) ↔ Kept r₀ s :=
  kept_iff (by simp [obsEvent])

@[simp] theorem kept_obsTick (r₀ : State) (s : State) :
    Kept r₀ (obsTick s) ↔ Kept r₀ s :=
  kept_iff (by simp [obsTick])

@[simp] theorem kept_fineCore (r₀ : State) (k : Nat) (s : State) :
    Kept r₀ (fineCore k s) ↔ Kept r₀ s :=
  kept_iff (by unfold fineCore; split <;> simp)

@[simp] theorem kept_fineTick (r₀ : State) (s : State) :
    Kept r₀ (fineTick s) ↔ Kept r₀ s :=
  kept_iff (by simp [fineTick])

@[simp] theorem kept_censusCluster (r₀ : State) (c : Nat) (s : State) :
    Kept r₀ (censusCluster c s) ↔ Kept r₀ s :=
  kept_iff (by simp [censusCluster])

@[simp] theorem kept_censusPort (r₀ : State) (p : Nat) (s : State) :
    Kept r₀ (censusPort p s) ↔ Kept r₀ s :=
  kept_iff (by unfold censusPort; split <;> simp)

@[simp] theorem kept_censusTick (r₀ : State) (s : State) :
    Kept r₀ (censusTick s) ↔ Kept r₀ s :=
  kept_iff (by simp [censusTick])

@[simp] theorem kept_skewSample (r₀ : State) (scope d : Nat) (s : State) :
    Kept r₀ (skewSample scope d s) ↔ Kept r₀ s :=
  kept_iff (by simp [skewSample])

@[simp] theorem kept_snapWrite (r₀ : State) (r : Bytes) (s : State) :
    Kept r₀ (snapWrite r s) ↔ Kept r₀ s :=
  kept_iff (by simp [snapWrite])

@[simp] theorem kept_snapMark (r₀ : State) (s : State) :
    Kept r₀ (snapMark s) ↔ Kept r₀ s :=
  kept_iff (by simp [snapMark])

@[simp] theorem kept_snapTake (r₀ : State) (r : Bytes) (s : State) :
    Kept r₀ (snapTake r s) ↔ Kept r₀ s :=
  kept_iff (by simp [snapTake])

@[simp] theorem kept_sideTick (r₀ : State) (s : State) :
    Kept r₀ (sideTick s) ↔ Kept r₀ s :=
  kept_iff (by unfold sideTick; split <;> simp)

@[simp] theorem kept_traceWrite (r₀ : State) (k wait : Nat) (s : State) :
    Kept r₀ (traceWrite k wait s) ↔ Kept r₀ s :=
  kept_iff (by unfold traceWrite; split <;> simp)

@[simp] theorem kept_traceFlush (r₀ : State) (s : State) :
    Kept r₀ (traceFlush s) ↔ Kept r₀ s :=
  kept_iff (by simp [traceFlush])

@[simp] theorem kept_monClear' (r₀ : State) (m : Nat) (s : State) :
    Kept r₀ (monClear' m s) ↔ Kept r₀ s :=
  kept_iff (by simp [monClear'])

@[simp] theorem kept_monLatch' (r₀ : State) (m : BitVec 6) (s : State) :
    Kept r₀ (monLatch' m s) ↔ Kept r₀ s :=
  kept_iff (by simp [monLatch'])

/-! ### Machine/Knead.lean -/

@[simp] theorem kept_tagFault (r₀ : State) (core : Nat) (tag : BitVec 12) (cmd : Cmd) (pcw : Nat) (s : State) :
    Kept r₀ (tagFault core tag cmd pcw s) ↔ Kept r₀ s :=
  kept_iff (by simp [tagFault])

@[simp] theorem kept_landCheck (r₀ : State) (c : Nat) (s : State) :
    Kept r₀ (landCheck c s) ↔ Kept r₀ s :=
  kept_iff (by simp [landCheck])

@[simp] theorem kept_landRow (r₀ : State) (place : LandPlace) (src : Nat) (tag : BitVec 12) (row rows dcluster : Nat) (data :
    Bytes) (replayed : Bool) (s : State) :
    Kept r₀ (landRow place src tag row rows dcluster data replayed s) ↔ Kept r₀ s :=
  kept_iff (by simp [landRow])

@[simp] theorem kept_markMoving (r₀ : State) (lid : Nat) (b : Bool) (s : State) :
    Kept r₀ (markMoving lid b s) ↔ Kept r₀ s :=
  kept_iff (by simp [markMoving])

@[simp] theorem kept_clearLate (r₀ : State) (c item : Nat) (s : State) :
    Kept r₀ (clearLate c item s) ↔ Kept r₀ s :=
  kept_iff (by simp [clearLate])

@[simp] theorem kept_retireOpen (r₀ : State) (k : Nat) (st : Station) (cmd : Cmd) (pcw : Nat) (s : State) :
    Kept r₀ (retireOpen k st cmd pcw s) ↔ Kept r₀ s :=
  kept_iff (by simp [retireOpen])

@[simp] theorem kept_unpend (r₀ : State) (c row owner : Nat) (s : State) :
    Kept r₀ (unpend c row owner s) ↔ Kept r₀ s :=
  kept_iff (by simp [unpend])

@[simp] theorem kept_landWritten (r₀ : State) (c lid : Nat) (s : State) :
    Kept r₀ (landWritten c lid s) ↔ Kept r₀ s :=
  kept_iff (by unfold landWritten; (repeat' split) <;> simp)

@[simp] theorem kept_krecvEnter (r₀ : State) (k : Nat) (a : Acc) (s : State) :
    Kept r₀ (krecvEnter k a s) ↔ Kept r₀ s :=
  kept_iff (by simp [krecvEnter])

@[simp] theorem kept_krecvDo (r₀ : State) (k : Nat) (a : Acc) (s : State) :
    Kept r₀ (krecvDo k a s) ↔ Kept r₀ s :=
  kept_iff (by simp [krecvDo])

@[simp] theorem kept_onKs (r₀ : State) (s : State) (k id : Nat) (f : KSend → KSend) :
    Kept r₀ (State.onKs s k id f) ↔ Kept r₀ s :=
  kept_iff (by simp [State.onKs])

@[simp] theorem kept_ksRetire (r₀ : State) (k id : Nat) (s : State) :
    Kept r₀ (ksRetire k id s) ↔ Kept r₀ s :=
  kept_iff (by unfold ksRetire; split <;> simp)

@[simp] theorem kept_ksPump (r₀ : State) (k : Nat) (s : State) :
    Kept r₀ (ksPump k s) ↔ Kept r₀ s :=
  kept_iff (by unfold ksPump; (repeat' split) <;> simp)

@[simp] theorem kept_ksendDo (r₀ : State) (k : Nat) (a : Acc) (s : State) :
    Kept r₀ (ksendDo k a s) ↔ Kept r₀ s :=
  kept_iff (by simp [ksendDo])

@[simp] theorem kept_ksRead (r₀ : State) (k id i row : Nat) (data : Bytes) (s : State) :
    Kept r₀ (ksRead k id i row data s) ↔ Kept r₀ s :=
  kept_iff (by unfold ksRead; (repeat' split) <;> simp)

@[simp] theorem kept_ksAccepted (r₀ : State) (k : Nat) (x : KSend) (m i : Nat) (s : State) :
    Kept r₀ (ksAccepted k x m i s) ↔ Kept r₀ s :=
  kept_iff (by simp [ksAccepted])

@[simp] theorem kept_ksAccept (r₀ : State) (k m : Nat) (s : State) :
    Kept r₀ (ksAccept k m s) ↔ Kept r₀ s := by
  apply kept_iff
  unfold ksAccept
  repeat' first
    | (simp; done)
    | split
    | (rename_i h; obtain ⟨rfl, rfl⟩ := Prod.ext_iff.mp h; clear h)
    | (simp; split)
    | rw [kept_whenReady]
    | rw [kept_ringThen]
    | rw [kept_dmaStart]
    | rw [kept_foldl]
    | intro _
    | dsimp only

@[simp] theorem kept_onBraid (r₀ : State) (s : State) (k : Nat) (f : Braid → Braid) :
    Kept r₀ (State.onBraid s k f) ↔ Kept r₀ s :=
  kept_iff (by simp [State.onBraid])

@[simp] theorem kept_binjDo (r₀ : State) (k : Nat) (a : Acc) (s : State) :
    Kept r₀ (binjDo k a s) ↔ Kept r₀ s :=
  kept_iff (by simp [binjDo])

@[simp] theorem kept_braidSend (r₀ : State) (k : Nat) (data : Bytes) (s : State) :
    Kept r₀ (braidSend k data s) ↔ Kept r₀ s :=
  kept_iff (by simp [braidSend])

@[simp] theorem kept_loadbTake (r₀ : State) (k : Nat) (a : Acc) (tile : BraidTile) (s : State) :
    Kept r₀ (loadbTake k a tile s) ↔ Kept r₀ s :=
  kept_iff (by simp [loadbTake])

@[simp] theorem kept_mxDoLoadb (r₀ : State) (k : Nat) (a : Acc) (s : State) :
    Kept r₀ (mxDoLoadb k a s) ↔ Kept r₀ s :=
  kept_iff (by simp [mxDoLoadb]; split <;> simp)

/-! ### Machine/Dma.lean -/

@[simp] theorem kept_paceIn (r₀ : State) (k : Nat) (s : State) :
    Kept r₀ (paceIn k s) ↔ Kept r₀ s :=
  kept_iff (by simp [paceIn])

@[simp] theorem kept_rowArrival (r₀ : State) (pid : Nat) (s : State) :
    Kept r₀ (rowArrival pid s) ↔ Kept r₀ s :=
  kept_iff (by unfold rowArrival; (repeat' split) <;> simp)

@[simp] theorem kept_rowDone (r₀ : State) (id i : Nat) (s : State) :
    Kept r₀ (rowDone id i s) ↔ Kept r₀ s :=
  kept_iff (by unfold rowDone; (repeat' split) <;> simp)

@[simp] theorem kept_releaseEntry (r₀ : State) (k id : Nat) (s : State) :
    Kept r₀ (releaseEntry k id s) ↔ Kept r₀ s :=
  kept_iff (by simp [releaseEntry])

@[simp] theorem kept_wbackSend (r₀ : State) (x : Xfer) (i : Nat) (data : Bytes) (s : State) :
    Kept r₀ (wbackSend x i data s) ↔ Kept r₀ s :=
  kept_iff (by simp [wbackSend])

@[simp] theorem kept_doAccess (r₀ : State) (c row : Nat) (w : BankWork) (bad : Bool) (s : State) :
    Kept r₀ (doAccess c row w bad s) ↔ Kept r₀ s :=
  kept_iff (by unfold doAccess; (repeat' split) <;> simp)

@[simp] theorem kept_bankAccess (r₀ : State) (c bank : Nat) (ecc : Ecc) (s : State) :
    Kept r₀ (bankAccess c bank ecc s) ↔ Kept r₀ s :=
  kept_iff (by unfold bankAccess; split <;> simp)

@[simp] theorem kept_dmaFinish (r₀ : State) (c : Nat) (s : State) :
    Kept r₀ (dmaFinish c s) ↔ Kept r₀ s :=
  kept_iff (by simp [dmaFinish])

/-! ### Machine/Hold.lean -/

@[simp] theorem kept_onEpisode (r₀ : State) (u0 : Nat) (f : Episode → Episode) (s : State) :
    Kept r₀ (onEpisode u0 f s) ↔ Kept r₀ s :=
  kept_iff (by simp [onEpisode])

@[simp] theorem kept_holdFreeze (r₀ : State) (c : Nat) (s : State) :
    Kept r₀ (holdFreeze c s) ↔ Kept r₀ s :=
  kept_iff (by unfold holdFreeze; split <;> simp)

@[simp] theorem kept_raiseNext (r₀ : State) (s : State) :
    Kept r₀ (raiseNext s) ↔ Kept r₀ s :=
  kept_iff (by simp [raiseNext]; split <;> simp)

@[simp] theorem kept_episodeEnd (r₀ : State) (e : Episode) (s : State) : Kept r₀ (episodeEnd e s) ↔ Kept r₀ s := by
  apply kept_iff
  unfold episodeEnd
  dsimp only
  rw [kept_raiseNext, kept_foldl]
  · simp
  · intro t k
    split <;> simp

@[simp] theorem kept_holdThaw (r₀ : State) (c : Nat) (s : State) :
    Kept r₀ (holdThaw c s) ↔ Kept r₀ s :=
  kept_iff (by unfold holdThaw; split <;> simp)

@[simp] theorem kept_holdLimit (r₀ : State) (s : State) :
    Kept r₀ (holdLimit s) ↔ Kept r₀ s :=
  kept_iff (by unfold holdLimit; split <;> simp)

@[simp] theorem kept_holdTick (r₀ : State) (s : State) :
    Kept r₀ (holdTick s) ↔ Kept r₀ s :=
  kept_iff (by simp [holdTick])

@[simp] theorem kept_meterTick (r₀ : State) (s : State) :
    Kept r₀ (meterTick s) ↔ Kept r₀ s :=
  kept_iff (by simp [meterTick])

@[simp] theorem kept_overdraw (r₀ : State) (b : Option Nat) (s : State) :
    Kept r₀ (overdraw b s) ↔ Kept r₀ s :=
  kept_iff (by simp [overdraw])

/-! ### Machine/Reply.lean -/

@[simp] theorem kept_replyAs (r₀ : State) (enc : Bool) (p : Pending) (status : Nat) (params payload : Bytes) (final : Bool) (s
    : State) :
    Kept r₀ (replyAs enc p status params payload final s) ↔ Kept r₀ s :=
  kept_iff (by simp [replyAs])

@[simp] theorem kept_reply (r₀ : State) (p : Pending) (status : Nat) (params payload : Bytes) (final : Bool) (s : State) :
    Kept r₀ (reply p status params payload final s) ↔ Kept r₀ s :=
  kept_iff (by simp [reply])

@[simp] theorem kept_replySt (r₀ : State) (p : Pending) (status : Nat) (s : State) :
    Kept r₀ (replySt p status s) ↔ Kept r₀ s :=
  kept_iff (by simp [replySt])

@[simp] theorem kept_refuse (r₀ : State) (p : Pending) (status : Nat) (s : State) :
    Kept r₀ (refuse p status s) ↔ Kept r₀ s :=
  kept_iff (by simp [refuse])

@[simp] theorem kept_enterOp (r₀ : State) (p : Pending) (kind : Nat) (s : State) :
    Kept r₀ (enterOp p kind s).2 ↔ Kept r₀ s :=
  kept_iff (by simp [enterOp])

@[simp] theorem kept_accept (r₀ : State) (p : Pending) (kind : Nat) (s : State) :
    Kept r₀ (accept p kind s).2 ↔ Kept r₀ s :=
  kept_iff (by simp [accept])

/-! ### Machine/Context.lean -/

@[simp] theorem kept_changeKeys (r₀ : State) (i : Nat) (f : SecCtx → SecCtx) (s : State) :
    Kept r₀ (changeKeys i f s) ↔ Kept r₀ s :=
  kept_iff (by simp [changeKeys])

@[simp] theorem kept_keepImage (r₀ : State) (i : Nat) (img : SaveImage) (s : State) :
    Kept r₀ (keepImage i img s) ↔ Kept r₀ s :=
  kept_iff (by simp [keepImage])

@[simp] theorem kept_clearCells (r₀ : State) (s : State) :
    Kept r₀ (clearCells s) ↔ Kept r₀ s :=
  kept_iff (by simp [clearCells])

@[simp] theorem kept_install (r₀ : State) (i : Nat) (img : SaveImage) (s : State) :
    Kept r₀ (install i img s) ↔ Kept r₀ s :=
  kept_iff (by simp [install])

@[simp] theorem kept_displace (r₀ : State) (i : Nat) (s : State) :
    Kept r₀ (displace i s) ↔ Kept r₀ s :=
  kept_iff (by unfold displace; split <;> simp)

@[simp] theorem kept_bringIn (r₀ : State) (i : Nat) (s : State) :
    Kept r₀ (bringIn i s) ↔ Kept r₀ s :=
  kept_iff (by simp [bringIn]; split <;> simp)

@[simp] theorem kept_scrambleCells (r₀ : State) (rs : List (Nat × Nat)) (cs : List Host.Cell) (s : State) :
    Kept r₀ (scrambleCells rs cs s).2 ↔ Kept r₀ s := by
  apply kept_iff
  induction cs generalizing s with
  | nil => exact Kept.refl _
  | cons c cs ih =>
    unfold scrambleCells
    dsimp only
    split
    · exact Kept.trans (ih s) (by simp)
    · exact ih s

@[simp] theorem kept_applyLaunch (r₀ : State) (i : Nat) (s : State) :
    Kept r₀ (applyLaunch i s) ↔ Kept r₀ s :=
  kept_iff (by simp [applyLaunch])

@[simp] theorem kept_launchClear (r₀ : State) (s : State) :
    Kept r₀ (launchClear s) ↔ Kept r₀ s :=
  kept_iff (by simp [launchClear])

@[simp] theorem kept_startCtx (r₀ : State) (i : Nat) (op : BitVec 32) (s : State) :
    Kept r₀ (startCtx i op s) ↔ Kept r₀ s :=
  kept_iff (by simp [startCtx])

/-! ### Machine/Seq.lean -/

@[simp] theorem kept_seqNext (r₀ : State) (k occ : Nat) (s : State) :
    Kept r₀ (seqNext k occ s) ↔ Kept r₀ s :=
  kept_iff (by simp [seqNext])

@[simp] theorem kept_seqFault (r₀ : State) (k : Nat) (code : BitVec 8) (detail : Word) (s : State) :
    Kept r₀ (seqFault k code detail s) ↔ Kept r₀ s :=
  kept_iff (by simp [seqFault])

@[simp] theorem kept_seqIllegal (r₀ : State) (k sub value : Nat) (s : State) :
    Kept r₀ (seqIllegal k sub value s) ↔ Kept r₀ s :=
  kept_iff (by simp [seqIllegal])

@[simp] theorem kept_lsBounds (r₀ : State) (k kind a : Nat) (s : State) :
    Kept r₀ (lsBounds k kind a s) ↔ Kept r₀ s :=
  kept_iff (by simp [lsBounds])

@[simp] theorem kept_lsParity (r₀ : State) (k a : Nat) (s : State) :
    Kept r₀ (lsParity k a s) ↔ Kept r₀ s :=
  kept_iff (by simp [lsParity])

@[simp] theorem kept_bundleBroken (r₀ : State) (k : Nat) (s : State) :
    Kept r₀ (bundleBroken k s) ↔ Kept r₀ s :=
  kept_iff (by simp [bundleBroken])

@[simp] theorem kept_seqAt (r₀ : State) (k : Nat) (named : Bool) (go : State → State) (s : State) (h_go : ∀ t, Kept t (go t)) :
    Kept r₀ (seqAt k named go s) ↔ Kept r₀ s := by
  apply kept_iff
  unfold seqAt
  repeat' first
    | (simp [h_go]; done)
    | split
    | (rename_i h; obtain ⟨rfl, rfl⟩ := Prod.ext_iff.mp h; clear h)
    | (simp [h_go]; split)
    | rw [kept_whenReady]
    | rw [kept_ringThen]
    | rw [kept_dmaStart]
    | rw [kept_foldl]
    | intro _
    | dsimp only

@[simp] theorem kept_seqBody (r₀ : State) (k : Nat) (g : Guard) (srcs : List (BitVec 5)) (own : Bool) (body : State → State)
    (s : State) (h_body : ∀ t, Kept t (body t)) : Kept r₀ (seqBody k g srcs own body s) ↔ Kept r₀ s := by
  apply kept_iff
  have h : Kept s (body (traceOutcome k true s)) := Kept.trans (by simp) (h_body _)
  unfold seqBody
  simp [h, h_body]

@[simp] theorem kept_seqInstr (r₀ : State) (k : Nat) (i : Instr) (g : Guard) (srcs : List (BitVec 5)) (own : Bool)
    (body : State → State) (s : State) (h_body : ∀ t, Kept t (body t)) :
    Kept r₀ (seqInstr k i g srcs own body s) ↔ Kept r₀ s := by
  apply kept_iff
  unfold seqInstr
  rw [kept_seqAt]
  · exact Kept.refl _
  · intro t
    simp [h_body]

@[simp] theorem kept_seqWrite (r₀ : State) (k : Nat) (rd : BitVec 5) (v : Word) (lat : Nat) (s : State) :
    Kept r₀ (seqWrite k rd v lat s) ↔ Kept r₀ s :=
  kept_iff (by simp [seqWrite])

@[simp] theorem kept_aluR (r₀ : State) (k : Nat) (i : Instr) (g : Guard) (rd ra rb : BitVec 5) (f : Word → Word → Word) (s :
    State) :
    Kept r₀ (aluR k i g rd ra rb f s) ↔ Kept r₀ s :=
  kept_iff (by simp [aluR])

@[simp] theorem kept_aluMul (r₀ : State) (k : Nat) (i : Instr) (g : Guard) (rd ra rb : BitVec 5) (f : Word → Word → Word) (s :
    State) :
    Kept r₀ (aluMul k i g rd ra rb f s) ↔ Kept r₀ s :=
  kept_iff (by simp [aluMul])

@[simp] theorem kept_aluI (r₀ : State) (k : Nat) (i : Instr) (g : Guard) (rd ra : BitVec 5) (f : Word → Word) (s : State) :
    Kept r₀ (aluI k i g rd ra f s) ↔ Kept r₀ s :=
  kept_iff (by simp [aluI])

@[simp] theorem kept_lsAccess (r₀ : State) (k a n kind : Nat) (reads : Bool) (body : State → State) (s : State) (h_body : ∀ t,
    Kept t (body t)) :
    Kept r₀ (lsAccess k a n kind reads body s) ↔ Kept r₀ s := by
  apply kept_iff
  unfold lsAccess
  repeat' first
    | (simp [h_body]; done)
    | split
    | (rename_i h; obtain ⟨rfl, rfl⟩ := Prod.ext_iff.mp h; clear h)
    | (simp [h_body]; split)
    | rw [kept_whenReady]
    | rw [kept_ringThen]
    | rw [kept_dmaStart]
    | rw [kept_foldl]
    | intro _
    | dsimp only

@[simp] theorem kept_seqLoad (r₀ : State) (k : Nat) (i : Instr) (g : Guard) (rd ra : BitVec 5) (width : BitVec 2) (off :
    BitVec 10) (ext : Nat → Nat → Word) (s : State) :
    Kept r₀ (seqLoad k i g rd ra width off ext s) ↔ Kept r₀ s :=
  kept_iff (by simp [seqLoad])

@[simp] theorem kept_seqJump (r₀ : State) (k : Nat) (target : BitVec 18) (s : State) :
    Kept r₀ (seqJump k target s) ↔ Kept r₀ s :=
  kept_iff (by simp [seqJump])

@[simp] theorem kept_seqBranch (r₀ : State) (k : Nat) (i : Instr) (g : Guard) (srcs : List (BitVec 5)) (off : BitVec 17)
    (taken : State → Bool) (s : State) :
    Kept r₀ (seqBranch k i g srcs off taken s) ↔ Kept r₀ s :=
  kept_iff (by simp [seqBranch])

@[simp] theorem kept_neverGuarded (r₀ : State) (k : Nat) (g : Guard) (go : State → State) (s : State) (h_go : ∀ t, Kept t (go
    t)) :
    Kept r₀ (neverGuarded k g go s) ↔ Kept r₀ s := by
  apply kept_iff
  unfold neverGuarded
  repeat' first
    | (simp [h_go]; done)
    | split
    | (rename_i h; obtain ⟨rfl, rfl⟩ := Prod.ext_iff.mp h; clear h)
    | (simp [h_go]; split)
    | rw [kept_whenReady]
    | rw [kept_ringThen]
    | rw [kept_dmaStart]
    | rw [kept_foldl]
    | intro _
    | dsimp only

@[simp] theorem kept_haltCore (r₀ : State) (k : Nat) (s : State) :
    Kept r₀ (haltCore k s) ↔ Kept r₀ s :=
  kept_iff (by simp [haltCore])

@[simp] theorem kept_haltRequest (r₀ : State) (k : Nat) (s : State) :
    Kept r₀ (haltRequest k s) ↔ Kept r₀ s :=
  kept_iff (by simp [haltRequest])

@[simp] theorem kept_resumeCore (r₀ : State) (k : Nat) (s : State) :
    Kept r₀ (resumeCore k s) ↔ Kept r₀ s :=
  kept_iff (by simp [resumeCore])

@[simp] theorem kept_clearFault (r₀ : State) (k : Nat) (s : State) :
    Kept r₀ (clearFault k s) ↔ Kept r₀ s :=
  kept_iff (by unfold clearFault; split <;> simp)

@[simp] theorem kept_atSite (r₀ : State) (c slot : Nat) (f : Nat → State → State) (s : State) (h_f : ∀ x0 t, Kept t (f x0 t)) :
    Kept r₀ (atSite c slot f s) ↔ Kept r₀ s := by
  apply kept_iff
  unfold atSite
  repeat' first
    | (simp [h_f]; done)
    | split
    | (rename_i h; obtain ⟨rfl, rfl⟩ := Prod.ext_iff.mp h; clear h)
    | (simp [h_f]; split)
    | rw [kept_whenReady]
    | rw [kept_ringThen]
    | rw [kept_dmaStart]
    | rw [kept_foldl]
    | intro _
    | dsimp only

@[simp] theorem kept_ctrlWrite (r₀ : State) (c slot : Nat) (f : Nat → State → State) (s : State) (h_f : ∀ x0 t, Kept t (f x0
    t)) :
    Kept r₀ (ctrlWrite c slot f s) ↔ Kept r₀ s := by
  apply kept_iff
  unfold ctrlWrite
  repeat' first
    | (simp [h_f]; done)
    | split
    | (rename_i h; obtain ⟨rfl, rfl⟩ := Prod.ext_iff.mp h; clear h)
    | (simp [h_f]; split)
    | rw [kept_whenReady]
    | rw [kept_ringThen]
    | rw [kept_dmaStart]
    | rw [kept_foldl]
    | intro _
    | dsimp only

/-! ### Machine/Vector.lean -/

@[simp] theorem kept_onVec (r₀ : State) (s : State) (k : Nat) (f : VectorSt → VectorSt) :
    Kept r₀ (State.onVec s k f) ↔ Kept r₀ s :=
  kept_iff (by simp [State.onVec])

@[simp] theorem kept_vRun (r₀ : State) (k : Nat) (f : Core → VResult) (a : Acc) (s : State) :
    Kept r₀ (vRun k f a s) ↔ Kept r₀ s :=
  kept_iff (by simp [vRun])

@[simp] theorem kept_vMap (r₀ : State) (k : Nat) (f : Cmd → F32 → F32) (a : Acc) (s : State) :
    Kept r₀ (vMap k f a s) ↔ Kept r₀ s :=
  kept_iff (by simp [vMap])

@[simp] theorem kept_vZip (r₀ : State) (k : Nat) (f : Cmd → F32 → F32 → F32) (a : Acc) (s : State) :
    Kept r₀ (vZip k f a s) ↔ Kept r₀ s :=
  kept_iff (by simp [vZip])

@[simp] theorem kept_vMapStat (r₀ : State) (k : Nat) (f : Cmd → StatRow → F32 → F32) (a : Acc) (s : State) :
    Kept r₀ (vMapStat k f a s) ↔ Kept r₀ s :=
  kept_iff (by simp [vMapStat])

@[simp] theorem kept_vZipStat (r₀ : State) (k : Nat) (f : StatRow → F32 → F32 → F32) (a : Acc) (s : State) :
    Kept r₀ (vZipStat k f a s) ↔ Kept r₀ s :=
  kept_iff (by simp [vZipStat])

@[simp] theorem kept_vStats (r₀ : State) (k : Nat) (f : Core → Cmd → Nat → StatRow → StatRow) (a : Acc) (s : State) :
    Kept r₀ (vStats k f a s) ↔ Kept r₀ s :=
  kept_iff (by simp [vStats])

@[simp] theorem kept_gather (r₀ : State) (k : Nat) (st : Station) (link n per : Nat) (f : Nat → Nat → State → State) (t fuel :
    Nat)
    (s : State) (h : ∀ a b u, Kept u (f a b u)) : Kept r₀ (gather k st link n per f t fuel s) ↔ Kept r₀ s := by
  apply kept_iff
  induction fuel generalizing s with
  | zero => exact Kept.refl _
  | succ m ih =>
    unfold gather
    split
    · exact Kept.refl _
    · split
      · exact Kept.refl _
      · exact Kept.trans (Kept.trans (by simp) (h ..)) (ih _)

@[simp] theorem kept_emitRest (r₀ : State) (k : Nat) (st : Station) (tile : Nat → PackSlot → OutTile) (fuel : Nat) (s : State) :
    Kept r₀ (emitRest k st tile fuel s) ↔ Kept r₀ s := by
  apply kept_iff
  induction fuel generalizing s with
  | zero => exact Kept.refl _
  | succ m ih =>
    unfold emitRest
    split
    · exact Kept.refl _
    · split
      · exact Kept.refl _
      · split
        · exact Kept.refl _
        · exact Kept.trans (by simp) (ih _)

@[simp] theorem kept_packCharge (r₀ : State) (k n : Nat) (a : Acc) (start i : Nat) (s : State) :
    Kept r₀ (packCharge k n a start i s) ↔ Kept r₀ s :=
  kept_iff (by simp [packCharge])

@[simp] theorem kept_vPackRun (r₀ : State) (k n : Nat) (off : Nat → Nat) (f : Nat → List Bytes → PackOut) (a : Acc) (s :
    State) :
    Kept r₀ (vPackRun k n off f a s) ↔ Kept r₀ s := by
  apply kept_iff
  unfold vPackRun
  repeat' first
    | (simp; done)
    | split
    | (rename_i h; obtain ⟨rfl, rfl⟩ := Prod.ext_iff.mp h; clear h)
    | (simp; split)
    | rw [kept_whenReady]
    | rw [kept_ringThen]
    | rw [kept_dmaStart]
    | rw [kept_foldl]
    | intro _
    | dsimp only

@[simp] theorem kept_vDoAdd (r₀ : State) (k : Nat) (a : Acc) (s : State) :
    Kept r₀ (vDoAdd k a s) ↔ Kept r₀ s :=
  kept_iff (by simp [vDoAdd])

@[simp] theorem kept_vDoSub (r₀ : State) (k : Nat) (a : Acc) (s : State) :
    Kept r₀ (vDoSub k a s) ↔ Kept r₀ s :=
  kept_iff (by simp [vDoSub])

@[simp] theorem kept_vDoMul (r₀ : State) (k : Nat) (a : Acc) (s : State) :
    Kept r₀ (vDoMul k a s) ↔ Kept r₀ s :=
  kept_iff (by simp [vDoMul])

@[simp] theorem kept_vDoAxpy (r₀ : State) (k : Nat) (a : Acc) (s : State) :
    Kept r₀ (vDoAxpy k a s) ↔ Kept r₀ s :=
  kept_iff (by simp [vDoAxpy])

@[simp] theorem kept_vDoMax (r₀ : State) (k : Nat) (a : Acc) (s : State) :
    Kept r₀ (vDoMax k a s) ↔ Kept r₀ s :=
  kept_iff (by simp [vDoMax])

@[simp] theorem kept_vDoMin (r₀ : State) (k : Nat) (a : Acc) (s : State) :
    Kept r₀ (vDoMin k a s) ↔ Kept r₀ s :=
  kept_iff (by simp [vDoMin])

@[simp] theorem kept_vDoAbs (r₀ : State) (k : Nat) (a : Acc) (s : State) :
    Kept r₀ (vDoAbs k a s) ↔ Kept r₀ s :=
  kept_iff (by simp [vDoAbs])

@[simp] theorem kept_vDoNeg (r₀ : State) (k : Nat) (a : Acc) (s : State) :
    Kept r₀ (vDoNeg k a s) ↔ Kept r₀ s :=
  kept_iff (by simp [vDoNeg])

@[simp] theorem kept_vDoCmpgt (r₀ : State) (k : Nat) (a : Acc) (s : State) :
    Kept r₀ (vDoCmpgt k a s) ↔ Kept r₀ s :=
  kept_iff (by simp [vDoCmpgt])

@[simp] theorem kept_vDoRcp (r₀ : State) (k : Nat) (a : Acc) (s : State) :
    Kept r₀ (vDoRcp k a s) ↔ Kept r₀ s :=
  kept_iff (by simp [vDoRcp])

@[simp] theorem kept_vDoRsqrt (r₀ : State) (k : Nat) (a : Acc) (s : State) :
    Kept r₀ (vDoRsqrt k a s) ↔ Kept r₀ s :=
  kept_iff (by simp [vDoRsqrt])

@[simp] theorem kept_vDoSqrt (r₀ : State) (k : Nat) (a : Acc) (s : State) :
    Kept r₀ (vDoSqrt k a s) ↔ Kept r₀ s :=
  kept_iff (by simp [vDoSqrt])

@[simp] theorem kept_vDoExp2 (r₀ : State) (k : Nat) (a : Acc) (s : State) :
    Kept r₀ (vDoExp2 k a s) ↔ Kept r₀ s :=
  kept_iff (by simp [vDoExp2])

@[simp] theorem kept_vDoLog2 (r₀ : State) (k : Nat) (a : Acc) (s : State) :
    Kept r₀ (vDoLog2 k a s) ↔ Kept r₀ s :=
  kept_iff (by simp [vDoLog2])

@[simp] theorem kept_vDoSigmoid (r₀ : State) (k : Nat) (a : Acc) (s : State) :
    Kept r₀ (vDoSigmoid k a s) ↔ Kept r₀ s :=
  kept_iff (by simp [vDoSigmoid])

@[simp] theorem kept_vDoSilu (r₀ : State) (k : Nat) (a : Acc) (s : State) :
    Kept r₀ (vDoSilu k a s) ↔ Kept r₀ s :=
  kept_iff (by simp [vDoSilu])

@[simp] theorem kept_vDoTanh (r₀ : State) (k : Nat) (a : Acc) (s : State) :
    Kept r₀ (vDoTanh k a s) ↔ Kept r₀ s :=
  kept_iff (by simp [vDoTanh])

@[simp] theorem kept_vDoCopy (r₀ : State) (k : Nat) (a : Acc) (s : State) :
    Kept r₀ (vDoCopy k a s) ↔ Kept r₀ s :=
  kept_iff (by simp [vDoCopy])

@[simp] theorem kept_vDoRowdot (r₀ : State) (k : Nat) (a : Acc) (s : State) :
    Kept r₀ (vDoRowdot k a s) ↔ Kept r₀ s :=
  kept_iff (by simp [vDoRowdot])

@[simp] theorem kept_vDoColsum (r₀ : State) (k : Nat) (a : Acc) (s : State) : Kept r₀ (vDoColsum k a s) ↔ Kept r₀ s :=
  kept_vRun r₀ k _ a s

@[simp] theorem kept_vDoRowmax (r₀ : State) (k : Nat) (a : Acc) (s : State) :
    Kept r₀ (vDoRowmax k a s) ↔ Kept r₀ s :=
  kept_iff (by simp [vDoRowmax])

@[simp] theorem kept_vDoRownorm (r₀ : State) (k : Nat) (a : Acc) (s : State) :
    Kept r₀ (vDoRownorm k a s) ↔ Kept r₀ s :=
  kept_iff (by simp [vDoRownorm])

@[simp] theorem kept_vDoSmaxFwd (r₀ : State) (k : Nat) (a : Acc) (s : State) :
    Kept r₀ (vDoSmaxFwd k a s) ↔ Kept r₀ s :=
  kept_iff (by simp [vDoSmaxFwd])

@[simp] theorem kept_vDoSmaxRescale (r₀ : State) (k : Nat) (a : Acc) (s : State) :
    Kept r₀ (vDoSmaxRescale k a s) ↔ Kept r₀ s :=
  kept_iff (by simp [vDoSmaxRescale])

@[simp] theorem kept_vDoSmaxNorm (r₀ : State) (k : Nat) (a : Acc) (s : State) :
    Kept r₀ (vDoSmaxNorm k a s) ↔ Kept r₀ s :=
  kept_iff (by simp [vDoSmaxNorm])

@[simp] theorem kept_vDoSmaxRecomp (r₀ : State) (k : Nat) (a : Acc) (s : State) :
    Kept r₀ (vDoSmaxRecomp k a s) ↔ Kept r₀ s :=
  kept_iff (by simp [vDoSmaxRecomp])

@[simp] theorem kept_vDoSmaxDs (r₀ : State) (k : Nat) (a : Acc) (s : State) :
    Kept r₀ (vDoSmaxDs k a s) ↔ Kept r₀ s :=
  kept_iff (by simp [vDoSmaxDs])

@[simp] theorem kept_vDoStatout (r₀ : State) (k : Nat) (a : Acc) (s : State) :
    Kept r₀ (vDoStatout k a s) ↔ Kept r₀ s :=
  kept_iff (by simp [vDoStatout])

@[simp] theorem kept_vDoStatin (r₀ : State) (k : Nat) (a : Acc) (s : State) :
    Kept r₀ (vDoStatin k a s) ↔ Kept r₀ s :=
  kept_iff (by simp [vDoStatin])

@[simp] theorem kept_vDoStatclr (r₀ : State) (k : Nat) (a : Acc) (s : State) :
    Kept r₀ (vDoStatclr k a s) ↔ Kept r₀ s :=
  kept_iff (by simp [vDoStatclr])

@[simp] theorem kept_vDoLvbase (r₀ : State) (k : Nat) (a : Acc) (s : State) :
    Kept r₀ (vDoLvbase k a s) ↔ Kept r₀ s :=
  kept_iff (by simp [vDoLvbase])

@[simp] theorem kept_vDoDropout (r₀ : State) (k : Nat) (a : Acc) (s : State) :
    Kept r₀ (vDoDropout k a s) ↔ Kept r₀ s :=
  kept_iff (by simp [vDoDropout])

@[simp] theorem kept_vDoRandU (r₀ : State) (k : Nat) (a : Acc) (s : State) :
    Kept r₀ (vDoRandU k a s) ↔ Kept r₀ s :=
  kept_iff (by simp [vDoRandU])

@[simp] theorem kept_vDoRandN (r₀ : State) (k : Nat) (a : Acc) (s : State) :
    Kept r₀ (vDoRandN k a s) ↔ Kept r₀ s :=
  kept_iff (by simp [vDoRandN])

@[simp] theorem kept_vDoConvert (r₀ : State) (k : Nat) (a : Acc) (s : State) :
    Kept r₀ (vDoConvert k a s) ↔ Kept r₀ s :=
  kept_iff (by simp [vDoConvert])

@[simp] theorem kept_vDoPackz (r₀ : State) (k : Nat) (a : Acc) (s : State) :
    Kept r₀ (vDoPackz k a s) ↔ Kept r₀ s :=
  kept_iff (by simp [vDoPackz])

@[simp] theorem kept_vDoUnpackz (r₀ : State) (k : Nat) (a : Acc) (s : State) :
    Kept r₀ (vDoUnpackz k a s) ↔ Kept r₀ s :=
  kept_iff (by simp [vDoUnpackz])

@[simp] theorem kept_vDoCompact (r₀ : State) (k : Nat) (a : Acc) (s : State) :
    Kept r₀ (vDoCompact k a s) ↔ Kept r₀ s :=
  kept_iff (by simp [vDoCompact])

@[simp] theorem kept_vDoTapout (r₀ : State) (k : Nat) (a : Acc) (s : State) :
    Kept r₀ (vDoTapout k a s) ↔ Kept r₀ s :=
  kept_iff (by simp [vDoTapout])

@[simp] theorem kept_vDoTapclr (r₀ : State) (k : Nat) (a : Acc) (s : State) :
    Kept r₀ (vDoTapclr k a s) ↔ Kept r₀ s :=
  kept_iff (by simp [vDoTapclr])

@[simp] theorem kept_vDoSetidx (r₀ : State) (k : Nat) (a : Acc) (s : State) :
    Kept r₀ (vDoSetidx k a s) ↔ Kept r₀ s :=
  kept_iff (by simp [vDoSetidx])

/-! ### Machine/Sparse.lean -/

@[simp] theorem kept_onSp (r₀ : State) (s : State) (k : Nat) (f : SparseSt → SparseSt) :
    Kept r₀ (State.onSp s k f) ↔ Kept r₀ s :=
  kept_iff (by simp [State.onSp])

@[simp] theorem kept_spDoSetb (r₀ : State) (k : Nat) (a : Acc) (s : State) :
    Kept r₀ (spDoSetb k a s) ↔ Kept r₀ s :=
  kept_iff (by simp [spDoSetb])

@[simp] theorem kept_spDoSxload (r₀ : State) (k : Nat) (a : Acc) (s : State) :
    Kept r₀ (spDoSxload k a s) ↔ Kept r₀ s :=
  kept_iff (by simp [spDoSxload]; split <;> simp)

@[simp] theorem kept_spDoSpmm (r₀ : State) (k : Nat) (a : Acc) (s : State) :
    Kept r₀ (spDoSpmm k a s) ↔ Kept r₀ s :=
  kept_iff (by simp [spDoSpmm]; split <;> simp)

@[simp] theorem kept_spDoSetidx (r₀ : State) (k : Nat) (a : Acc) (s : State) :
    Kept r₀ (spDoSetidx k a s) ↔ Kept r₀ s :=
  kept_iff (by simp [spDoSetidx])

@[simp] theorem kept_spDoDrain (r₀ : State) (k : Nat) (a : Acc) (s : State) :
    Kept r₀ (spDoDrain k a s) ↔ Kept r₀ s :=
  kept_iff (by simp [spDoDrain])

/-! ### Machine/Issue.lean -/

@[simp] theorem kept_acceptCharge (r₀ : State) (k : Nat) (st : Station) (cmd : Cmd) (n : Nat) (s : State) :
    Kept r₀ (acceptCharge k st cmd n s) ↔ Kept r₀ s :=
  kept_iff (by simp [acceptCharge])

@[simp] theorem kept_acceptCmd (r₀ : State) (k : Nat) (st : Station) (pcw : Nat) (cmd : Cmd) (s : State) :
    Kept r₀ (acceptCmd k st pcw cmd s) ↔ Kept r₀ s :=
  kept_iff (by simp [acceptCmd])

@[simp] theorem kept_cmdFault (r₀ : State) (k pcw sub value : Nat) (cmd : Cmd) (s : State) :
    Kept r₀ (cmdFault k pcw sub value cmd s) ↔ Kept r₀ s :=
  kept_iff (by simp [cmdFault])

@[simp] theorem kept_bundleRewind (r₀ : State) (k : Nat) (items : List BundleItem) (s : State) :
    Kept r₀ (bundleRewind k items s) ↔ Kept r₀ s :=
  kept_iff (by unfold bundleRewind; split <;> simp)

@[simp] theorem kept_bundleFault (r₀ : State) (k : Nat) (items : List BundleItem) (s : State) :
    Kept r₀ (bundleFault k items s) ↔ Kept r₀ s :=
  kept_iff (by unfold bundleFault; split <;> simp)

@[simp] theorem kept_bundleGo (r₀ : State) (k : Nat) (items : List BundleItem) (s : State) :
    Kept r₀ (bundleGo k items s) ↔ Kept r₀ s := by
  apply kept_iff
  unfold bundleGo
  dsimp only
  repeat' split
  all_goals first
    | (simp; done)
    | (try simp only [kept_onSeq]
       rw [kept_foldl]
       · exact Kept.refl s
       · intro t x
         split <;> simp)

@[simp] theorem kept_issueItem (r₀ : State) (k : Nat) (b : Bool) (guard : Bool) (cmd : Option Cmd) (s : State) :
    Kept r₀ (issueItem k b guard cmd s) ↔ Kept r₀ s :=
  kept_iff (by simp [issueItem])

@[simp] theorem kept_issueInstr (r₀ : State) (k : Nat) (i : Instr) (g : Guard) (b : Bool) (srcs : List (BitVec 5))
    (cmd : State → Option Cmd × Option (State → State)) (s : State) (h : ∀ t f, (cmd t).2 = some f → ∀ u, Kept u (f u)) :
    Kept r₀ (issueInstr k i g b srcs cmd s) ↔ Kept r₀ s := by
  apply kept_iff
  unfold issueInstr
  rw [kept_seqAt]
  · exact Kept.refl _
  · intro s
    have ht : Kept s (if guardAlways g then s else traceOutcome k true s) := by split <;> simp
    dsimp only
    generalize (if guardAlways g then s else traceOutcome k true s) = t at ht ⊢
    repeat' split
    all_goals first
      | (simp [ht]; done)
      | (rename_i heq; simp only [kept_bundleRewind]; exact ht.trans (h _ _ (by rw [heq]) _))

@[simp] theorem kept_waitTick (r₀ : State) (k : Nat) (g : Guard) (t : TickArg) (s : State) :
    Kept r₀ (waitTick k g t s) ↔ Kept r₀ s :=
  kept_iff (by simp [waitTick])

@[simp] theorem kept_flagClear (r₀ : State) (k : Nat) (s : State) :
    Kept r₀ (flagClear k s) ↔ Kept r₀ s :=
  kept_iff (by simp [flagClear])

/-! ### Machine/Proof.lean -/

@[simp] theorem kept_proofResults (r₀ : State) (k : Nat) (orW andW : BitVec 32) (s : State) :
    Kept r₀ (proofResults k orW andW s) ↔ Kept r₀ s :=
  kept_iff (by simp [proofResults])

@[simp] theorem kept_releaseDma (r₀ : State) (k : Nat) (s : State) :
    Kept r₀ (releaseDma k s) ↔ Kept r₀ s :=
  kept_iff (by simp [releaseDma])

@[simp] theorem kept_releaseCore (r₀ : State) (k : Nat) (wide entry : Bool) (orW andW : BitVec 32) (s : State) :
    Kept r₀ (releaseCore k wide entry orW andW s) ↔ Kept r₀ s :=
  kept_iff (by simp [releaseCore])

@[simp] theorem kept_beginPhase (r₀ : State) (k : Nat) (s : State) :
    Kept r₀ (beginPhase k s) ↔ Kept r₀ s :=
  kept_iff (by simp [beginPhase])

@[simp] theorem kept_clearByScope (r₀ : State) (scope : BitVec 2) (s : State) :
    Kept r₀ (clearByScope scope s) ↔ Kept r₀ s :=
  kept_iff (by simp [clearByScope])

@[simp] theorem kept_dropUnmatched (r₀ : State) (p : Nat → Bool) (s : State) :
    Kept r₀ (dropUnmatched p s) ↔ Kept r₀ s :=
  kept_iff (by simp [dropUnmatched])

@[simp] theorem kept_traceKeyOn (r₀ : State) (s : State) :
    Kept r₀ (traceKeyOn s).2 ↔ Kept r₀ s := by
  apply kept_iff
  unfold traceKeyOn
  repeat' first
    | (simp; done)
    | split
    | (rename_i h; obtain ⟨rfl, rfl⟩ := Prod.ext_iff.mp h; clear h)
    | (simp; split)
    | rw [kept_whenReady]
    | rw [kept_ringThen]
    | rw [kept_dmaStart]
    | rw [kept_foldl]
    | intro _
    | dsimp only

@[simp] theorem kept_traceKeyOff (r₀ : State) (s : State) :
    Kept r₀ (traceKeyOff s) ↔ Kept r₀ s :=
  kept_iff (by unfold traceKeyOff; split <;> simp)

@[simp] theorem kept_applyTraceReq (r₀ : State) (s : State) (r : TraceReq) :
    Kept r₀ (applyTraceReq s r) ↔ Kept r₀ s := by
  apply kept_iff
  unfold applyTraceReq
  repeat' first
    | (simp; done)
    | split
    | (rename_i h; obtain ⟨rfl, rfl⟩ := Prod.ext_iff.mp h; clear h)
    | (simp; split)
    | rw [kept_whenReady]
    | rw [kept_ringThen]
    | rw [kept_dmaStart]
    | rw [kept_foldl]
    | intro _
    | dsimp only

@[simp] theorem kept_applyTrace (r₀ : State) (s : State) :
    Kept r₀ (applyTrace s) ↔ Kept r₀ s :=
  kept_iff (by simp [applyTrace])

@[simp] theorem kept_switchNow (r₀ : State) (i target : Nat) (op : BitVec 32) (s : State) :
    Kept r₀ (switchNow i target op s) ↔ Kept r₀ s :=
  kept_iff (by simp [switchNow])

@[simp] theorem kept_armCheck (r₀ : State) (i : Nat) (tag : BitVec 16) (orW andW : BitVec 32) (s : State) :
    Kept r₀ (armCheck i tag orW andW s) ↔ Kept r₀ s :=
  kept_iff (by unfold armCheck; split <;> simp)

@[simp] theorem kept_snapSend (r₀ : State) (r : Bytes) (s : State) :
    Kept r₀ (snapSend r s) ↔ Kept r₀ s := by
  apply kept_iff
  unfold snapSend
  repeat' first
    | (simp; done)
    | split
    | (rename_i h; obtain ⟨rfl, rfl⟩ := Prod.ext_iff.mp h; clear h)
    | (simp; split)
    | rw [kept_whenReady]
    | rw [kept_ringThen]
    | rw [kept_dmaStart]
    | rw [kept_foldl]
    | intro _
    | dsimp only

@[simp] theorem kept_snapshotAt (r₀ : State) (scope : BitVec 2) (tag : BitVec 16) (s : State) :
    Kept r₀ (snapshotAt scope tag s) ↔ Kept r₀ s :=
  kept_iff (by simp [snapshotAt])

@[simp] theorem kept_sampleRelease (r₀ : State) (scope : BitVec 2) (s : State) :
    Kept r₀ (sampleRelease scope s) ↔ Kept r₀ s :=
  kept_iff (by simp [sampleRelease])

@[simp] theorem kept_releaseCores (r₀ : State) (i : Nat) (entry : Bool) (scope : BitVec 2) (tag : BitVec 16)
    (orW andW : BitVec 32) (s : State) : Kept r₀ (releaseCores i entry scope tag orW andW s) ↔ Kept r₀ s := by
  apply kept_iff
  unfold releaseCores
  dsimp only
  rw [kept_mk]
  cases entry <;> simp

@[simp] theorem kept_launchDone (r₀ : State) (i : Nat) (s : State) :
    Kept r₀ (launchDone i s) ↔ Kept r₀ s := by
  apply kept_iff
  unfold launchDone
  repeat' first
    | (simp; done)
    | split
    | (rename_i h; obtain ⟨rfl, rfl⟩ := Prod.ext_iff.mp h; clear h)
    | (simp; split)
    | rw [kept_whenReady]
    | rw [kept_ringThen]
    | rw [kept_dmaStart]
    | rw [kept_foldl]
    | intro _
    | dsimp only

@[simp] theorem kept_releaseNext (r₀ : State) (i : Nat) (entry : Bool) (scope : BitVec 2) (s : State) :
    Kept r₀ (releaseNext i entry scope s) ↔ Kept r₀ s :=
  kept_iff (by simp [releaseNext]; split <;> simp)

@[simp] theorem kept_releaseWide (r₀ : State) (scope : BitVec 2) (tag : BitVec 16) (orW andW : BitVec 32) (s : State) :
    Kept r₀ (releaseWide scope tag orW andW s) ↔ Kept r₀ s :=
  kept_iff (by unfold releaseWide; split <;> simp)

@[simp] theorem kept_releaseCluster (r₀ : State) (c : Nat) (orW andW : BitVec 32) (s : State) :
    Kept r₀ (releaseCluster c orW andW s) ↔ Kept r₀ s :=
  kept_iff (by simp [releaseCluster])

@[simp] theorem kept_mismatchFault (r₀ : State) (k : Nat) (d : BitVec 2 × BitVec 16) (s : State) :
    Kept r₀ (mismatchFault k d s) ↔ Kept r₀ s :=
  kept_iff (by simp [mismatchFault])

@[simp] theorem kept_mismatchAll (r₀ : State) (ks : List Nat) (d : BitVec 2 × BitVec 16) (s : State) :
    Kept r₀ (mismatchAll ks d s) ↔ Kept r₀ s :=
  kept_iff (by simp [mismatchAll])

@[simp] theorem kept_sendLat (r₀ : State) (m : Nat) (o : LatHdr → LatOut) (h : LatHdr) (s : State) :
    Kept r₀ (sendLat m o h s) ↔ Kept r₀ s :=
  kept_iff (by unfold sendLat; split <;> simp)

@[simp] theorem kept_pendRelease (r₀ : State) (a : ModArrival) (scope : BitVec 2) (mismatch : Bool) (s : State) :
    Kept r₀ (pendRelease a scope mismatch s) ↔ Kept r₀ s :=
  kept_iff (by simp [pendRelease])

@[simp] theorem kept_releaseTray (r₀ : State) (a : ModArrival) (scope : BitVec 2) (mismatch : Bool) (s : State) :
    Kept r₀ (releaseTray a scope mismatch s) ↔ Kept r₀ s :=
  kept_iff (by simp [releaseTray])

@[simp] theorem kept_fabRootDone (r₀ : State) (s : State) :
    Kept r₀ (fabRootDone s) ↔ Kept r₀ s :=
  kept_iff (by simp [fabRootDone])

@[simp] theorem kept_trayRootDone (r₀ : State) (s : State) :
    Kept r₀ (trayRootDone s) ↔ Kept r₀ s :=
  kept_iff (by simp [trayRootDone])

@[simp] theorem kept_rootArrival (r₀ : State) (a : ModArrival) (s : State) :
    Kept r₀ (rootArrival a s) ↔ Kept r₀ s :=
  kept_iff (by simp [rootArrival])

@[simp] theorem kept_moduleArrive (r₀ : State) (wide scope : BitVec 2) (tag : BitVec 16) (differ : Bool) (orW andW : BitVec
    32) (s : State) :
    Kept r₀ (moduleArrive wide scope tag differ orW andW s) ↔ Kept r₀ s :=
  kept_iff (by simp [moduleArrive])

@[simp] theorem kept_widerDone (r₀ : State) (s : State) :
    Kept r₀ (widerDone s) ↔ Kept r₀ s := by
  apply kept_iff
  unfold widerDone
  repeat' first
    | (simp; done)
    | split
    | (rename_i h; obtain ⟨rfl, rfl⟩ := Prod.ext_iff.mp h; clear h)
    | (simp; split)
    | rw [kept_whenReady]
    | rw [kept_ringThen]
    | rw [kept_dmaStart]
    | rw [kept_foldl]
    | intro _
    | dsimp only

@[simp] theorem kept_passOn (r₀ : State) (c : Nat) (x : ClInst) (s : State) : Kept r₀ (passOn c x s) ↔ Kept r₀ s := by
  apply kept_iff
  unfold passOn
  dsimp only
  generalize hs : s.onProof _ = t
  have h : Kept s t := by rw [← hs]; simp
  rw [kept_widerDone]
  split
  · split <;> simp [h]
  · exact h

@[simp] theorem kept_joinInstance (r₀ : State) (k : Nat) (a : Arrival) (s : State) :
    Kept r₀ (joinInstance k a s) ↔ Kept r₀ s := by
  apply kept_iff
  unfold joinInstance
  repeat' first
    | (simp; done)
    | split
    | (rename_i h; obtain ⟨rfl, rfl⟩ := Prod.ext_iff.mp h; clear h)
    | (simp; split)
    | rw [kept_whenReady]
    | rw [kept_ringThen]
    | rw [kept_dmaStart]
    | rw [kept_foldl]
    | intro _
    | dsimp only

@[simp] theorem kept_arrive (r₀ : State) (k : Nat) (p : ProofArg) (s : State) :
    Kept r₀ (arrive k p s) ↔ Kept r₀ s :=
  kept_iff (by simp [arrive])

@[simp] theorem kept_recvHold (r₀ : State) (k : Nat) (s : State) :
    Kept r₀ (recvHold k s) ↔ Kept r₀ s :=
  kept_iff (by simp [recvHold])

@[simp] theorem kept_proofTry (r₀ : State) (k : Nat) (s : State) :
    Kept r₀ (proofTry k s) ↔ Kept r₀ s :=
  kept_iff (by unfold proofTry; (repeat' split) <;> simp)

@[simp] theorem kept_proofHeld (r₀ : State) (s : State) :
    Kept r₀ (proofHeld s).2 ↔ Kept r₀ s :=
  kept_iff (by unfold proofHeld; split <;> simp)

@[simp] theorem kept_proofDue (r₀ : State) (i : ProofInst) (s : State) :
    Kept r₀ (proofDue i s) ↔ Kept r₀ s := by
  apply kept_iff
  unfold proofDue
  repeat' first
    | (simp; done)
    | split
    | (rename_i h; obtain ⟨rfl, rfl⟩ := Prod.ext_iff.mp h; clear h)
    | (simp; split)
    | rw [kept_whenReady]
    | rw [kept_ringThen]
    | rw [kept_dmaStart]
    | rw [kept_foldl]
    | intro _
    | dsimp only

@[simp] theorem kept_lateRelease (r₀ : State) (d : Nat) (s : State) :
    Kept r₀ (lateRelease d s) ↔ Kept r₀ s :=
  kept_iff (by simp [lateRelease])

@[simp] theorem kept_entryFail (r₀ : State) (i : Nat) (status : Nat) (s : State) :
    Kept r₀ (entryFail i status s) ↔ Kept r₀ s :=
  kept_iff (by unfold entryFail; split <;> simp)

/-! ### Machine/Sync.lean -/

@[simp] theorem kept_putCell (r₀ : State) (s : State) (r : CellRef) (x : Cell) :
    Kept r₀ (State.putCell s r x) ↔ Kept r₀ s :=
  kept_iff (by unfold State.putCell; split <;> simp)

@[simp] theorem kept_syncUnmapped (r₀ : State) (k : Nat) (id : Word) (s : State) :
    Kept r₀ (syncUnmapped k id s) ↔ Kept r₀ s :=
  kept_iff (by simp [syncUnmapped])

@[simp] theorem kept_syncOp (r₀ : State) (k : Nat) (ra : BitVec 5) (wait : Bool) (body : Word → BitVec 20 → State → State) (s
    : State) (h_body : ∀ x0 x1 t, Kept t (body x0 x1 t)) :
    Kept r₀ (syncOp k ra wait body s) ↔ Kept r₀ s := by
  apply kept_iff
  unfold syncOp
  repeat' first
    | (simp [h_body]; done)
    | split
    | (rename_i h; obtain ⟨rfl, rfl⟩ := Prod.ext_iff.mp h; clear h)
    | (simp [h_body]; split)
    | rw [kept_whenReady]
    | rw [kept_ringThen]
    | rw [kept_dmaStart]
    | rw [kept_foldl]
    | intro _
    | dsimp only

@[simp] theorem kept_ctlFor (r₀ : State) (r : CellRef) (src dst k : Nat) (s : State) :
    Kept r₀ (ctlFor r src dst k s).2 ↔ Kept r₀ s :=
  kept_iff (by unfold ctlFor; split <;> simp)

@[simp] theorem kept_sigAway (r₀ : State) (m k : Nat) (h : LatHdr) (s : State) :
    Kept r₀ (sigAway m k h s).2 ↔ Kept r₀ s :=
  kept_iff (by unfold sigAway; split <;> simp)

@[simp] theorem kept_ctlArrives (r₀ : State) (c : Nat) (s : State) :
    Kept r₀ (ctlArrives c s) ↔ Kept r₀ s :=
  kept_iff (by simp [ctlArrives])

@[simp] theorem kept_wake (r₀ : State) (r : CellRef) (t k : Nat) (s : State) :
    Kept r₀ (wake r t k s) ↔ Kept r₀ s :=
  kept_iff (by unfold wake; split <;> simp)

@[simp] theorem kept_releaseWaiters (r₀ : State) (r : CellRef) (t n : Nat) (s : State) :
    Kept r₀ (releaseWaiters r t n s) ↔ Kept r₀ s := by
  apply kept_iff
  induction n generalizing s with
  | zero => exact Kept.refl _
  | succ n ih =>
    unfold releaseWaiters
    dsimp only
    split
    · split
      · exact Kept.trans (by simp) (ih _)
      · exact Kept.refl _
    · exact Kept.refl _

@[simp] theorem kept_multiWaiter (r₀ : State) (x : SigFly) (waiters : Nat) (s : State) :
    Kept r₀ (multiWaiter x waiters s) ↔ Kept r₀ s :=
  kept_iff (by simp [multiWaiter]; split <;> simp)

@[simp] theorem kept_applySignals (r₀ : State) (r : CellRef) (xs : List SigFly) (s : State) :
    Kept r₀ (applySignals r xs s) ↔ Kept r₀ s :=
  kept_iff (by simp [applySignals])

@[simp] theorem kept_signalApply (r₀ : State) (r : CellRef) (s : State) :
    Kept r₀ (signalApply r s) ↔ Kept r₀ s :=
  kept_iff (by unfold signalApply; split <;> simp)

@[simp] theorem kept_waitArrival (r₀ : State) (k : Nat) (s : State) :
    Kept r₀ (waitArrival k s) ↔ Kept r₀ s :=
  kept_iff (by unfold waitArrival; split <;> simp)

@[simp] theorem kept_onMsg (r₀ : State) (s : State) (pkt : Nat) (f : Msg → Msg) :
    Kept r₀ (State.onMsg s pkt f) ↔ Kept r₀ s :=
  kept_iff (by simp [State.onMsg])

@[simp] theorem kept_msgRead (r₀ : State) (m : Msg) (s : State) :
    Kept r₀ (msgRead m s) ↔ Kept r₀ s :=
  kept_iff (by simp [msgRead])

@[simp] theorem kept_messageWrite (r₀ : State) (k : Nat) (s : State) :
    Kept r₀ (messageWrite k s) ↔ Kept r₀ s :=
  kept_iff (by unfold messageWrite; split <;> simp)

@[simp] theorem kept_msgPut (r₀ : State) (m : Msg) (s : State) : Kept r₀ (msgPut m s) ↔ Kept r₀ s := by
  apply kept_iff
  unfold msgPut
  dsimp only
  split
  · exact Kept.refl _
  · split
    · exact Kept.refl _
    · split
      · simp
      · split
        · split <;> simp
        · simp

@[simp] theorem kept_ctlTick (r₀ : State) (s : State) :
    Kept r₀ (ctlTick s) ↔ Kept r₀ s := by
  apply kept_iff
  unfold ctlTick
  repeat' first
    | (simp; done)
    | split
    | (rename_i h; obtain ⟨rfl, rfl⟩ := Prod.ext_iff.mp h; clear h)
    | (simp; split)
    | rw [kept_whenReady]
    | rw [kept_ringThen]
    | rw [kept_dmaStart]
    | rw [kept_foldl]
    | intro _
    | dsimp only

@[simp] theorem kept_recvTry (r₀ : State) (k : Nat) (ep : BitVec 3) (rd : BitVec 5) (s : State) :
    Kept r₀ (recvTry k ep rd s) ↔ Kept r₀ s :=
  kept_iff (by simp [recvTry])

/-! ### Machine/Lattice.lean -/

@[simp] theorem kept_setPort (r₀ : State) (p : Nat) (st : LinkState) (s : State) :
    Kept r₀ (setPort p st s) ↔ Kept r₀ s :=
  kept_iff (by simp [setPort])

@[simp] theorem kept_quarantine (r₀ : State) (s : State) :
    Kept r₀ (quarantine s) ↔ Kept r₀ s :=
  kept_iff (by simp [quarantine])

@[simp] theorem kept_oweCredit (r₀ : State) (p : Nat) (s : State) :
    Kept r₀ (oweCredit p s) ↔ Kept r₀ s :=
  kept_iff (by simp [oweCredit])

@[simp] theorem kept_checkEpoch (r₀ : State) (p : Nat) (h : LatHdr) (body : State → State) (s : State) (h_body : ∀ t, Kept t
    (body t)) :
    Kept r₀ (checkEpoch p h body s) ↔ Kept r₀ s := by
  apply kept_iff
  unfold checkEpoch
  repeat' first
    | (simp [h_body]; done)
    | split
    | (rename_i h; obtain ⟨rfl, rfl⟩ := Prod.ext_iff.mp h; clear h)
    | (simp [h_body]; split)
    | rw [kept_whenReady]
    | rw [kept_ringThen]
    | rw [kept_dmaStart]
    | rw [kept_foldl]
    | intro _
    | dsimp only

@[simp] theorem kept_passPort (r₀ : State) (p m k : Nat) (o : LatOut) (s : State) :
    Kept r₀ (passPort p m k o s) ↔ Kept r₀ s :=
  kept_iff (by unfold passPort; split <;> simp)

@[simp] theorem kept_sideRecord (r₀ : State) (row : Bytes) (s : State) :
    Kept r₀ (sideRecord row s) ↔ Kept r₀ s :=
  kept_iff (by simp [sideRecord])

@[simp] theorem kept_rowLands (r₀ : State) (p : Nat) (h : LatHdr) (row : Bytes) (s : State) :
    Kept r₀ (rowLands p h row s) ↔ Kept r₀ s :=
  kept_iff (by simp [rowLands])

@[simp] theorem kept_latticeRow (r₀ : State) (p : Nat) (h : LatHdr) (row : Bytes) (s : State) :
    Kept r₀ (latticeRow p h row s) ↔ Kept r₀ s :=
  kept_iff (by simp [latticeRow])

@[simp] theorem kept_latticeSig (r₀ : State) (p : Nat) (h : LatHdr) (s : State) :
    Kept r₀ (latticeSig p h s) ↔ Kept r₀ s :=
  kept_iff (by simp [latticeSig])

@[simp] theorem kept_latticeRelease (r₀ : State) (h : LatHdr) (s : State) :
    Kept r₀ (latticeRelease h s) ↔ Kept r₀ s :=
  kept_iff (by simp [latticeRelease])

@[simp] theorem kept_retryOver (r₀ : State) (p : Nat) (s : State) :
    Kept r₀ (retryOver p s) ↔ Kept r₀ s :=
  kept_iff (by simp [retryOver])

@[simp] theorem kept_portDown (r₀ : State) (p : Nat) (s : State) :
    Kept r₀ (portDown p s) ↔ Kept r₀ s :=
  kept_iff (by simp [portDown])

@[simp] theorem kept_latticeNak (r₀ : State) (p : Nat) (fseq : BitVec 12) (s : State) :
    Kept r₀ (latticeNak p fseq s) ↔ Kept r₀ s :=
  kept_iff (by simp [latticeNak])

@[simp] theorem kept_putFrame (r₀ : State) (p : Nat) (blocks : List LatBlock) (s : State) :
    Kept r₀ (putFrame p blocks s) ↔ Kept r₀ s :=
  kept_iff (by simp [putFrame])

@[simp] theorem kept_chargeBlocks (r₀ : State) (n : Nat) (s : State) :
    Kept r₀ (chargeBlocks n s) ↔ Kept r₀ s :=
  kept_iff (by simp [chargeBlocks])

@[simp] theorem kept_sendAgain (r₀ : State) (p : Nat) (f : Frame LatBlock) (rest : List (Frame LatBlock)) (s : State) :
    Kept r₀ (sendAgain p f rest s) ↔ Kept r₀ s :=
  kept_iff (by simp [sendAgain])

@[simp] theorem kept_sendFrame (r₀ : State) (p : Nat) (s : State) :
    Kept r₀ (sendFrame p s) ↔ Kept r₀ s :=
  kept_iff (by simp [sendFrame]; split <;> simp)

@[simp] theorem kept_moveTransit (r₀ : State) (p : Nat) (s : State) :
    Kept r₀ (moveTransit p s) ↔ Kept r₀ s :=
  kept_iff (by simp [moveTransit]; split <;> simp)

@[simp] theorem kept_frameComes (r₀ : State) (p : Nat) (corrected : Bool) (s : State) :
    Kept r₀ (frameComes p corrected s) ↔ Kept r₀ s :=
  kept_iff (by simp [frameComes])

@[simp] theorem kept_portTick (r₀ : State) (s : State) :
    Kept r₀ (portTick s) ↔ Kept r₀ s :=
  kept_iff (by simp [portTick]; split <;> simp)

/-! ### Machine/Keccak.lean -/

/-! ### Machine/Shape.lean -/

/-! ### Machine/Regs.lean -/

@[simp] theorem kept_abandonWait (r₀ : State) (k : Nat) (s : State) :
    Kept r₀ (abandonWait k s) ↔ Kept r₀ s :=
  kept_iff (by unfold abandonWait; split <;> simp)

@[simp] theorem kept_coreWrite (r₀ : State) (k o : Nat) (v : Word) (s : State) :
    Kept r₀ (coreWrite k o v s) ↔ Kept r₀ s :=
  kept_iff (by simp [coreWrite]; split <;> simp)

@[simp] theorem kept_latClear (r₀ : State) (p o : Nat) (s : State) :
    Kept r₀ (latClear p o s) ↔ Kept r₀ s :=
  kept_iff (by unfold latClear; split <;> simp)

@[simp] theorem kept_monWrite (r₀ : State) (v : Word) (s : State) :
    Kept r₀ (monWrite v s) ↔ Kept r₀ s :=
  kept_iff (by unfold monWrite; split <;> simp)

@[simp] theorem kept_samplePins (r₀ : State) (s : State) :
    Kept r₀ (samplePins s) ↔ Kept r₀ s :=
  kept_iff (by simp [samplePins])

@[simp] theorem kept_regClear (r₀ : State) (b : Block) (o : Nat) (s : State) :
    Kept r₀ (regClear b o s) ↔ Kept r₀ s :=
  kept_iff (by unfold regClear; split <;> simp)

@[simp] theorem kept_regSet (r₀ : State) (b : Block) (o : Nat) (v : Word) (s : State) :
    Kept r₀ (regSet b o v s) ↔ Kept r₀ s :=
  kept_iff (by unfold regSet; split <;> simp)

@[simp] theorem kept_regSample (r₀ : State) (b : Block) (o : Nat) (s : State) :
    Kept r₀ (regSample b o s) ↔ Kept r₀ s :=
  kept_iff (by unfold regSample; split <;> simp)

@[simp] theorem kept_regRead (r₀ : State) (a : Nat) (s : State) :
    Kept r₀ (regRead a s).2 ↔ Kept r₀ s :=
  kept_iff (by unfold regRead; split <;> simp)

@[simp] theorem kept_regWrite (r₀ : State) (a : Nat) (v : Word) (s : State) :
    Kept r₀ (regWrite a v s) ↔ Kept r₀ s :=
  kept_iff (by unfold regWrite; split <;> simp)

/-! ### Machine/Packet.lean -/

@[simp] theorem kept_hostTick (r₀ : State) (s : State) :
    Kept r₀ (hostTick s) ↔ Kept r₀ s :=
  kept_iff (by simp [hostTick])

@[simp] theorem kept_endSession (r₀ : State) (c : Nat) (s : State) :
    Kept r₀ (endSession c s) ↔ Kept r₀ s :=
  kept_iff (by simp [endSession])

@[simp] theorem kept_openPayload (r₀ : State) (hdr payload : Bytes) (s : State) :
    Kept r₀ (openPayload hdr payload s).2 ↔ Kept r₀ s := by
  apply kept_iff
  unfold openPayload
  repeat' first
    | (simp; done)
    | split
    | (rename_i h; obtain ⟨rfl, rfl⟩ := Prod.ext_iff.mp h; clear h)
    | (simp; split)
    | rw [kept_whenReady]
    | rw [kept_ringThen]
    | rw [kept_dmaStart]
    | rw [kept_foldl]
    | intro _
    | dsimp only

@[simp] theorem kept_packetArrival (r₀ : State) (i : Iface) (pkt : Bytes) (s : State) :
    Kept r₀ (packetArrival i pkt s) ↔ Kept r₀ s :=
  kept_iff (by simp [packetArrival])

@[simp] theorem kept_gate (r₀ : State) (p : Pending) (g : Gate) (go : State → State) (s : State) (h_go : ∀ t, Kept t (go t)) :
    Kept r₀ (gate p g go s) ↔ Kept r₀ s := by
  apply kept_iff
  unfold gate
  repeat' first
    | (simp [h_go]; done)
    | split
    | (rename_i h; obtain ⟨rfl, rfl⟩ := Prod.ext_iff.mp h; clear h)
    | (simp [h_go]; split)
    | rw [kept_whenReady]
    | rw [kept_ringThen]
    | rw [kept_dmaStart]
    | rw [kept_foldl]
    | intro _
    | dsimp only

/-! ### Machine/Commands.lean -/

@[simp] theorem kept_regStart (r₀ : State) (write : Bool) (p : Pending) (s : State) :
    Kept r₀ (regStart write p s) ↔ Kept r₀ s :=
  kept_iff (by simp [regStart])

@[simp] theorem kept_regWord (r₀ : State) (j : RegJob) (a : Nat) (s : State) :
    Kept r₀ (regWord j a s).2 ↔ Kept r₀ s :=
  kept_iff (by unfold regWord; split <;> simp)

@[simp] theorem kept_regTick (r₀ : State) (s : State) :
    Kept r₀ (regTick s) ↔ Kept r₀ s := by
  apply kept_iff
  unfold regTick
  repeat' first
    | (simp; done)
    | split
    | (rename_i h; obtain ⟨rfl, rfl⟩ := Prod.ext_iff.mp h; clear h)
    | (simp; split)
    | rw [kept_whenReady]
    | rw [kept_ringThen]
    | rw [kept_dmaStart]
    | rw [kept_foldl]
    | intro _
    | dsimp only

@[simp] theorem kept_progressOf (r₀ : State) (o : Op) (s : State) :
    Kept r₀ (progressOf o s).2 ↔ Kept r₀ s := by
  apply kept_iff
  unfold progressOf
  repeat' first
    | (simp; done)
    | split
    | (rename_i h; obtain ⟨rfl, rfl⟩ := Prod.ext_iff.mp h; clear h)
    | (simp; split)
    | rw [kept_whenReady]
    | rw [kept_ringThen]
    | rw [kept_dmaStart]
    | rw [kept_foldl]
    | intro _
    | dsimp only

@[simp] theorem kept_portOff (r₀ : State) (p : Nat) (s : State) :
    Kept r₀ (portOff p s) ↔ Kept r₀ s :=
  kept_iff (by simp [portOff])

@[simp] theorem kept_portTrain (r₀ : State) (p : Nat) (s : State) :
    Kept r₀ (portTrain p s) ↔ Kept r₀ s :=
  kept_iff (by simp [portTrain])

@[simp] theorem kept_mctpReply (r₀ : State) (src : Byte) (code : Nat) (payload : Bytes) (s : State) :
    Kept r₀ (mctpReply src code payload s) ↔ Kept r₀ s :=
  kept_iff (by simp [mctpReply])

/-! ### Machine/Load.lean -/

@[simp] theorem kept_extendMr (r₀ : State) (m : Nat) (digest : Bytes) (s : State) :
    Kept r₀ (extendMr m digest s) ↔ Kept r₀ s :=
  kept_iff (by simp [extendMr])

@[simp] theorem kept_clearMr (r₀ : State) (m : Nat) (s : State) :
    Kept r₀ (clearMr m s) ↔ Kept r₀ s :=
  kept_iff (by simp [clearMr])

@[simp] theorem kept_loadWrite (r₀ : State) (i : Nat) (b : LoadBlock) (bin : Bytes) (xs : List Section) (s : State) :
    Kept r₀ (loadWrite i b bin xs s) ↔ Kept r₀ s :=
  kept_iff (by simp [loadWrite])

@[simp] theorem kept_loadDone (r₀ : State) (o : Op) (s : State) :
    Kept r₀ (loadDone o s) ↔ Kept r₀ s :=
  kept_iff (by simp [loadDone]; split <;> simp)

/-! ### Machine/Job.lean -/

@[simp] theorem kept_deriveKeys (r₀ : State) (i : Nat) (l : Launch) (s : State) :
    Kept r₀ (deriveKeys i l s) ↔ Kept r₀ s :=
  kept_iff (by simp [deriveKeys])

@[simp] theorem kept_endTrace (r₀ : State) (status : Nat) (s : State) :
    Kept r₀ (endTrace status s) ↔ Kept r₀ s :=
  kept_iff (by simp [endTrace]; split <;> simp)

@[simp] theorem kept_contextDone (r₀ : State) (i : Nat) (s : State) :
    Kept r₀ (contextDone i s) ↔ Kept r₀ s :=
  kept_iff (by simp [contextDone]; split <;> simp)

@[simp] theorem kept_orphan (r₀ : State) (k : Nat) (s : State) :
    Kept r₀ (orphan k s) ↔ Kept r₀ s :=
  kept_iff (by unfold orphan; split <;> simp)

@[simp] theorem kept_dropJob (r₀ : State) (s : State) :
    Kept r₀ (dropJob s) ↔ Kept r₀ s :=
  kept_iff (by simp [dropJob])

@[simp] theorem kept_stopJob (r₀ : State) (s : State) :
    Kept r₀ (stopJob s) ↔ Kept r₀ s :=
  kept_iff (by simp [stopJob])

@[simp] theorem kept_doAbort (r₀ : State) (i : Nat) (s : State) :
    Kept r₀ (doAbort i s) ↔ Kept r₀ s :=
  kept_iff (by simp [doAbort])

@[simp] theorem kept_dropSwitchTo (r₀ : State) (i status : Nat) (s : State) :
    Kept r₀ (dropSwitchTo i status s) ↔ Kept r₀ s :=
  kept_iff (by unfold dropSwitchTo; rw [kept_foldl]; simp; intros; (repeat' split) <;> simp)

@[simp] theorem kept_abortReply (r₀ : State) (i status : Nat) (s : State) :
    Kept r₀ (abortReply i status s) ↔ Kept r₀ s :=
  kept_iff (by simp [abortReply]; split <;> simp)

@[simp] theorem kept_abortRefused (r₀ : State) (p : Pending) (enc : Bool) (status : Nat) (shown id : BitVec 32) (s : State) :
    Kept r₀ (abortRefused p enc status shown id s) ↔ Kept r₀ s :=
  kept_iff (by simp [abortRefused])

@[simp] theorem kept_jobAbort (r₀ : State) (p : Pending) (s : State) :
    Kept r₀ (jobAbort p s) ↔ Kept r₀ s :=
  kept_iff (by simp [jobAbort])

@[simp] theorem kept_abortPoint (r₀ : State) (i : Nat) (s : State) :
    Kept r₀ (abortPoint i s) ↔ Kept r₀ s := by
  apply kept_iff
  unfold abortPoint
  repeat' first
    | (simp; done)
    | split
    | (rename_i h; obtain ⟨rfl, rfl⟩ := Prod.ext_iff.mp h; clear h)
    | (simp; split)
    | rw [kept_whenReady]
    | rw [kept_ringThen]
    | rw [kept_dmaStart]
    | rw [kept_foldl]
    | intro _
    | dsimp only

@[simp] theorem kept_restoreDone (r₀ : State) (o : Op) (s : State) :
    Kept r₀ (restoreDone o s) ↔ Kept r₀ s :=
  kept_iff (by unfold restoreDone; split <;> simp)

@[simp] theorem kept_zeroCores (r₀ : State) (s : State) :
    Kept r₀ (zeroCores s) ↔ Kept r₀ s :=
  kept_iff (by simp [zeroCores])

@[simp] theorem kept_freeSealed (r₀ : State) (i : Nat) (s : State) :
    Kept r₀ (freeSealed i s) ↔ Kept r₀ s :=
  kept_iff (by simp [freeSealed])

@[simp] theorem kept_freeCtx (r₀ : State) (i : Nat) (s : State) :
    Kept r₀ (freeCtx i s) ↔ Kept r₀ s :=
  kept_iff (by simp [freeCtx])

@[simp] theorem kept_starterRelease (r₀ : State) (i : Nat) (s : State) :
    Kept r₀ (starterRelease i s) ↔ Kept r₀ s := by
  apply kept_iff
  unfold starterRelease
  repeat' first
    | (simp; done)
    | split
    | (rename_i h; obtain ⟨rfl, rfl⟩ := Prod.ext_iff.mp h; clear h)
    | (simp; split)
    | rw [kept_whenReady]
    | rw [kept_ringThen]
    | rw [kept_dmaStart]
    | rw [kept_foldl]
    | intro _
    | dsimp only

/-! ### Machine/Bulk.lean -/

@[simp] theorem kept_bulkStart (r₀ : State) (op : Option (BitVec 32)) (write : Bool) (p : Pending) (n : Nat) (data : Bytes) (s
    : State) :
    Kept r₀ (bulkStart op write p n data s) ↔ Kept r₀ s :=
  kept_iff (by simp [bulkStart])

@[simp] theorem kept_bulkSend (r₀ : State) (s : State) :
    Kept r₀ (bulkSend s) ↔ Kept r₀ s :=
  kept_iff (by unfold bulkSend; split <;> simp)

@[simp] theorem kept_bulkBack (r₀ : State) (s : State) :
    Kept r₀ (bulkBack s) ↔ Kept r₀ s :=
  kept_iff (by simp [bulkBack])

@[simp] theorem kept_bulkDone (r₀ : State) (s : State) :
    Kept r₀ (bulkDone s) ↔ Kept r₀ s :=
  kept_iff (by simp [bulkDone])

@[simp] theorem kept_bulkTick (r₀ : State) (s : State) :
    Kept r₀ (bulkTick s) ↔ Kept r₀ s :=
  kept_iff (by simp [bulkTick])

@[simp] theorem kept_fillStop (r₀ : State) (id : BitVec 32) (s : State) :
    Kept r₀ (fillStop id s) ↔ Kept r₀ s :=
  kept_iff (by simp [fillStop])

@[simp] theorem kept_fillDone (r₀ : State) (o : Op) (s : State) :
    Kept r₀ (fillDone o s) ↔ Kept r₀ s :=
  kept_iff (by simp [fillDone])

/-! ### Machine/Safe.lean -/

@[simp] theorem kept_portsOff (r₀ : State) (s : State) :
    Kept r₀ (portsOff s) ↔ Kept r₀ s :=
  kept_iff (by simp [portsOff])

@[simp] theorem kept_loseMain (r₀ : State) (s : State) :
    Kept r₀ (loseMain s) ↔ Kept r₀ s :=
  kept_iff (by simp [loseMain])

@[simp] theorem kept_powerDown (r₀ : State) (s : State) :
    Kept r₀ (powerDown s) ↔ Kept r₀ s :=
  kept_iff (by simp [powerDown])

@[simp] theorem kept_stopOthers (r₀ : State) (s : State) :
    Kept r₀ (stopOthers s) ↔ Kept r₀ s :=
  kept_iff (by simp [stopOthers])

@[simp] theorem kept_endJobs (r₀ : State) (s : State) :
    Kept r₀ (endJobs s) ↔ Kept r₀ s :=
  kept_iff (by simp [endJobs])

@[simp] theorem kept_enterSafe (r₀ : State) (cause : BitVec 8) (s : State) :
    Kept r₀ (enterSafe cause s) ↔ Kept r₀ s :=
  kept_iff (by simp [enterSafe]; split <;> simp)

@[simp] theorem kept_fatal (r₀ : State) (code : Nat) (detail : Bytes) (s : State) :
    Kept r₀ (fatal code detail s) ↔ Kept r₀ s :=
  kept_iff (by simp [fatal])

@[simp] theorem kept_trip (r₀ : State) (cause : Nat) (reading : Nat) (s : State) :
    Kept r₀ (trip cause reading s) ↔ Kept r₀ s :=
  kept_iff (by simp [trip])

@[simp] theorem kept_newKeyId (r₀ : State) (old : Word) (s : State) :
    Kept r₀ (newKeyId old s).2 ↔ Kept r₀ s :=
  kept_iff (by simp [newKeyId])

@[simp] theorem kept_dropOldKeys (r₀ : State) (s : State) :
    Kept r₀ (dropOldKeys s) ↔ Kept r₀ s :=
  kept_iff (by simp [dropOldKeys])

@[simp] theorem kept_rekeyDone (r₀ : State) (s : State) :
    Kept r₀ (rekeyDone s) ↔ Kept r₀ s :=
  kept_iff (by simp [rekeyDone]; split <;> simp)

@[simp] theorem kept_chunkDone (r₀ : State) (s : State) :
    Kept r₀ (chunkDone s) ↔ Kept r₀ s :=
  kept_iff (by simp [chunkDone])

@[simp] theorem kept_endOps (r₀ : State) (keepRekey : Bool) (s : State) :
    Kept r₀ (endOps keepRekey s) ↔ Kept r₀ s :=
  kept_iff (by simp [endOps])

@[simp] theorem kept_resetCommon (r₀ : State) (keepRekey : Bool) (last : BitVec 4) (s : State) :
    Kept r₀ (resetCommon keepRekey last s) ↔ Kept r₀ s :=
  kept_iff (by simp [resetCommon])

@[simp] theorem kept_finishRow (r₀ : State) (s : State) :
    Kept r₀ (finishRow s) ↔ Kept r₀ s :=
  kept_iff (by simp [finishRow])

@[simp] theorem kept_resetWarm (r₀ : State) (last : BitVec 4) (s' : State) :
    Kept r₀ (resetWarm last s') ↔ Kept r₀ s' :=
  kept_iff (by simp [resetWarm])

@[simp] theorem kept_resetCold (r₀ : State) (last : BitVec 4) (s : State) :
    Kept r₀ (resetCold last s) ↔ Kept r₀ s :=
  kept_iff (by simp [resetCold])

@[simp] theorem kept_enterPowering (r₀ : State) (count : Bool) (s : State) :
    Kept r₀ (enterPowering count s) ↔ Kept r₀ s :=
  kept_iff (by simp [enterPowering])

@[simp] theorem kept_doReset (r₀ : State) (kind : Nat) (last : BitVec 4) (s : State) :
    Kept r₀ (doReset kind last s) ↔ Kept r₀ s :=
  kept_iff (by simp [doReset])

@[simp] theorem kept_resetCmd (r₀ : State) (p : Pending) (s : State) :
    Kept r₀ (resetCmd p s) ↔ Kept r₀ s :=
  kept_iff (by simp [resetCmd])

/-! ### Machine/Security.lean -/

@[simp] theorem kept_changeMade (r₀ : State) (counter : Nat) (s : State) :
    Kept r₀ (changeMade counter s) ↔ Kept r₀ s :=
  kept_iff (by simp [changeMade])

@[simp] theorem kept_leafSent (r₀ : State) (s : State) :
    Kept r₀ (leafSent s) ↔ Kept r₀ s :=
  kept_iff (by simp [leafSent])

@[simp] theorem kept_openSession (r₀ : State) (p : Pending) (list : Bytes) (i : Nat) (s : State) :
    Kept r₀ (openSession p list i s) ↔ Kept r₀ s :=
  kept_iff (by simp [openSession])

@[simp] theorem kept_newKey (r₀ : State) (s : State) :
    Kept r₀ (newKey s).2 ↔ Kept r₀ s :=
  kept_iff (by simp [newKey])

@[simp] theorem kept_acceptList (r₀ : State) (i : Nat) (d : Bytes) (s : State) :
    Kept r₀ (acceptList i d s) ↔ Kept r₀ s :=
  kept_iff (by simp [acceptList])

@[simp] theorem kept_newKeys (r₀ : State) (s : State) :
    Kept r₀ (newKeys s) ↔ Kept r₀ s :=
  kept_iff (by simp [newKeys])

/-! ### Machine/Maint.lean -/

@[simp] theorem kept_scrubDone (r₀ : State) (s : State) :
    Kept r₀ (scrubDone s) ↔ Kept r₀ s :=
  kept_iff (by simp [scrubDone])

@[simp] theorem kept_memLost (r₀ : State) (s : State) : Kept r₀ (memLost s) ↔ Kept r₀ s := by
  apply kept_iff
  exact Kept.trans ((kept_scrambleCells s [(0, windowBase + 96 * 0x1000000)] s.mem s).mpr (Kept.refl s))
    ⟨rfl, rfl, rfl, rfl, rfl⟩

@[simp] theorem kept_fwPut (r₀ : State) (o : Nat) (body buf : Bytes) (s : State) :
    Kept r₀ (fwPut o body buf s) ↔ Kept r₀ s :=
  kept_iff (by simp [fwPut])

@[simp] theorem kept_fwChunk (r₀ : State) (id : BitVec 32) (buf : Bytes) (p : Pending) (s : State) :
    Kept r₀ (fwChunk id buf p s) ↔ Kept r₀ s :=
  kept_iff (by simp [fwChunk])

@[simp] theorem kept_fwDone (r₀ : State) (s : State) :
    Kept r₀ (fwDone s) ↔ Kept r₀ s :=
  kept_iff (by simp [fwDone])

@[simp] theorem kept_writeCopyB (r₀ : State) (r : ConfigRecord) (s : State) :
    Kept r₀ (writeCopyB r s) ↔ Kept r₀ s :=
  kept_iff (by simp [writeCopyB])

@[simp] theorem kept_applyTick (r₀ : State) (s : State) :
    Kept r₀ (applyTick s) ↔ Kept r₀ s :=
  kept_iff (by unfold applyTick; split <;> simp)

@[simp] theorem kept_bringupDone (r₀ : State) (o : Op) (s : State) :
    Kept r₀ (bringupDone o s) ↔ Kept r₀ s :=
  kept_iff (by unfold bringupDone; split <;> simp)

@[simp] theorem kept_retrainDone (r₀ : State) (o : Op) (s : State) :
    Kept r₀ (retrainDone o s) ↔ Kept r₀ s :=
  kept_iff (by simp [retrainDone])

@[simp] theorem kept_memtestDone (r₀ : State) (o : Op) (e : OpEnd) (s : State) :
    Kept r₀ (memtestDone o e s) ↔ Kept r₀ s :=
  kept_iff (by unfold memtestDone; split <;> simp)

@[simp] theorem kept_fwEnd (r₀ : State) (o : Op) (e : OpEnd) (s : State) :
    Kept r₀ (fwEnd o e s) ↔ Kept r₀ s :=
  kept_iff (by unfold fwEnd; split <;> simp)

@[simp] theorem kept_noteCancel (r₀ : State) (id : BitVec 32) (p : Pending) (s : State) :
    Kept r₀ (noteCancel id p s) ↔ Kept r₀ s :=
  kept_iff (by simp [noteCancel])

@[simp] theorem kept_undo (r₀ : State) (o : Op) (s : State) :
    Kept r₀ (undo o s) ↔ Kept r₀ s :=
  kept_iff (by unfold undo; split <;> simp)

@[simp] theorem kept_dropCancel (r₀ : State) (id : BitVec 32) (s : State) :
    Kept r₀ (dropCancel id s) ↔ Kept r₀ s :=
  kept_iff (by simp [dropCancel])

@[simp] theorem kept_cancelPoint (r₀ : State) (id : BitVec 32) (s : State) :
    Kept r₀ (cancelPoint id s) ↔ Kept r₀ s :=
  kept_iff (by unfold cancelPoint; (repeat' split) <;> simp)

@[simp] theorem kept_pointTick (r₀ : State) (s : State) :
    Kept r₀ (pointTick s) ↔ Kept r₀ s :=
  kept_iff (by unfold pointTick; rw [kept_foldl]; simp; intros; (repeat' split) <;> simp)

/-! ### Machine/Power.lean -/

@[simp] theorem kept_auxStart (r₀ : State) (mV : Nat) (s : State) :
    Kept r₀ (auxStart mV s) ↔ Kept r₀ s :=
  kept_iff (by simp [auxStart])

@[simp] theorem kept_loseAux (r₀ : State) (mV : Nat) (s : State) :
    Kept r₀ (loseAux mV s) ↔ Kept r₀ s :=
  kept_iff (by simp [loseAux])

@[simp] theorem kept_plausibility (r₀ : State) (r : Coolant) (s : State) :
    Kept r₀ (plausibility r s) ↔ Kept r₀ s :=
  kept_iff (by unfold plausibility; split <;> simp)

@[simp] theorem kept_checkFails (r₀ : State) (step : Nat) (cause : BitVec 8) (s : State) :
    Kept r₀ (checkFails step cause s) ↔ Kept r₀ s :=
  kept_iff (by simp [checkFails])

@[simp] theorem kept_measure (r₀ : State) (fw uc : FlashImage) (s : State) :
    Kept r₀ (measure fw uc s) ↔ Kept r₀ s :=
  kept_iff (by simp [measure])

@[simp] theorem kept_recoverTally (r₀ : State) (s : State) :
    Kept r₀ (recoverTally s) ↔ Kept r₀ s :=
  kept_iff (by unfold recoverTally; split <;> simp)

@[simp] theorem kept_selectRecord (r₀ : State) (n : Nat) (r : ConfigRecord) (s : State) :
    Kept r₀ (selectRecord n r s) ↔ Kept r₀ s :=
  kept_iff (by simp [selectRecord])

@[simp] theorem kept_stacksUp (r₀ : State) (s : State) :
    Kept r₀ (stacksUp s) ↔ Kept r₀ s :=
  kept_iff (by simp [stacksUp])

@[simp] theorem kept_finishCheck (r₀ : State) (s : State) :
    Kept r₀ (finishCheck s) ↔ Kept r₀ s :=
  kept_iff (by simp [finishCheck])

@[simp] theorem kept_lateSteps (r₀ : State) (o : CheckOutcome) (s : State) :
    Kept r₀ (lateSteps o s) ↔ Kept r₀ s :=
  kept_iff (by unfold lateSteps; (repeat' split) <;> simp)

@[simp] theorem kept_earlySteps (r₀ : State) (o : CheckOutcome) (s : State) :
    Kept r₀ (earlySteps o s) ↔ Kept r₀ s := by
  apply kept_iff
  unfold earlySteps
  repeat' first
    | (simp; done)
    | split
    | (rename_i h; obtain ⟨rfl, rfl⟩ := Prod.ext_iff.mp h; clear h)
    | (simp; split)
    | rw [kept_whenReady]
    | rw [kept_ringThen]
    | rw [kept_dmaStart]
    | rw [kept_foldl]
    | intro _
    | dsimp only

@[simp] theorem kept_selfCheck (r₀ : State) (o : CheckOutcome) (s : State) :
    Kept r₀ (selfCheck o s) ↔ Kept r₀ s :=
  kept_iff (by simp [selfCheck])

@[simp] theorem kept_thermalRaise (r₀ : State) (s : State) :
    Kept r₀ (thermalRaise s) ↔ Kept r₀ s :=
  kept_iff (by simp [thermalRaise])

@[simp] theorem kept_crumbTick (r₀ : State) (s : State) :
    Kept r₀ (crumbTick s) ↔ Kept r₀ s :=
  kept_iff (by simp [crumbTick])

/-! ### Machine/Retry.lean -/

@[simp] theorem kept_mxTry (r₀ : State) (k : Nat) (a : Acc) (s : State) :
    Kept r₀ (mxTry k a s) ↔ Kept r₀ s :=
  kept_iff (by unfold mxTry; split <;> simp)

@[simp] theorem kept_vTry (r₀ : State) (k : Nat) (a : Acc) (s : State) :
    Kept r₀ (vTry k a s) ↔ Kept r₀ s :=
  kept_iff (by unfold vTry; split <;> simp)

@[simp] theorem kept_spTry (r₀ : State) (k : Nat) (a : Acc) (s : State) :
    Kept r₀ (spTry k a s) ↔ Kept r₀ s :=
  kept_iff (by unfold spTry; split <;> simp)

@[simp] theorem kept_drainTry (r₀ : State) (k : Nat) (st : Station) (a : Acc) (s : State) :
    Kept r₀ (drainTry k st a s) ↔ Kept r₀ s :=
  kept_iff (by unfold drainTry; split <;> simp)

@[simp] theorem kept_stTry (r₀ : State) (k : Nat) (st : Station) (a : Acc) (s : State) :
    Kept r₀ (stTry k st a s) ↔ Kept r₀ s :=
  kept_iff (by unfold stTry; (repeat' split) <;> simp)

@[simp] theorem kept_retryHead (r₀ : State) (k : Nat) (st : Station) (p : Acc → Nat → Bool) (s : State) :
    Kept r₀ (retryHead k st p s) ↔ Kept r₀ s :=
  kept_iff (by unfold retryHead; (repeat' split) <;> simp)

@[simp] theorem kept_retryDrain (r₀ : State) (k : Nat) (st : Station) (p : Acc → Nat → Bool) (s : State) :
    Kept r₀ (retryDrain k st p s) ↔ Kept r₀ s := by
  apply kept_iff
  unfold retryDrain
  rw [kept_tryIssued]
  · exact Kept.refl _
  · intro a t
    split
    · split <;> simp
    · exact Kept.refl _

@[simp] theorem kept_retry (r₀ : State) (k : Nat) (st : Station) (p : Acc → Nat → Bool) (s : State) :
    Kept r₀ (retry k st p s) ↔ Kept r₀ s :=
  kept_iff (by simp [retry])

/-! ### Machine/Tick.lean -/

@[simp] theorem kept_dmaWaitTick (r₀ : State) (s : State) :
    Kept r₀ (dmaWaitTick s) ↔ Kept r₀ s :=
  kept_iff (by simp [dmaWaitTick])

@[simp] theorem kept_fullTick (r₀ : State) (s : State) :
    Kept r₀ (fullTick s) ↔ Kept r₀ s :=
  kept_iff (by unfold fullTick; rw [kept_foldl]; simp; intros; (repeat' split) <;> simp)

@[simp] theorem kept_purgeTick (r₀ : State) (s : State) :
    Kept r₀ (purgeTick s) ↔ Kept r₀ s :=
  kept_iff (by simp [purgeTick])

@[simp] theorem kept_syncTick (r₀ : State) (s : State) :
    Kept r₀ (syncTick s) ↔ Kept r₀ s :=
  kept_iff (by simp [syncTick])

@[simp] theorem kept_islandTick (r₀ : State) (s : State) :
    Kept r₀ (islandTick s) ↔ Kept r₀ s :=
  kept_iff (by simp [islandTick])

@[simp] theorem kept_engineTick (r₀ : State) (s : State) :
    Kept r₀ (engineTick s) ↔ Kept r₀ s :=
  kept_iff (by simp [engineTick])

@[simp] theorem kept_eventTick (r₀ : State) (s : State) :
    Kept r₀ (eventTick s) ↔ Kept r₀ s :=
  kept_iff (by simp [eventTick])

@[simp] theorem kept_rekeyTick (r₀ : State) (s : State) :
    Kept r₀ (rekeyTick s) ↔ Kept r₀ s :=
  kept_iff (by simp [rekeyTick])

@[simp] theorem kept_dmaTick (r₀ : State) (s : State) :
    Kept r₀ (dmaTick s) ↔ Kept r₀ s :=
  kept_iff (by simp [dmaTick])

@[simp] theorem kept_pumpTick (r₀ : State) (s : State) :
    Kept r₀ (pumpTick s) ↔ Kept r₀ s :=
  kept_iff (by simp [pumpTick])

@[simp] theorem kept_settleTick (r₀ : State) (s : State) :
    Kept r₀ (settleTick s) ↔ Kept r₀ s :=
  kept_iff (by simp [settleTick])

@[simp] theorem kept_countTick (r₀ : State) (s : State) :
    Kept r₀ (countTick s) ↔ Kept r₀ s :=
  kept_iff (by simp [countTick])

@[simp] theorem kept_coreTicks (r₀ : State) (s : State) :
    Kept r₀ (coreTicks s) ↔ Kept r₀ s :=
  kept_iff (by simp [coreTicks])

@[simp] theorem kept_linkTicks (r₀ : State) (s : State) :
    Kept r₀ (linkTicks s) ↔ Kept r₀ s :=
  kept_iff (by simp [linkTicks])

@[simp] theorem kept_lastTicks (r₀ : State) (s : State) :
    Kept r₀ (lastTicks s) ↔ Kept r₀ s :=
  kept_iff (by simp [lastTicks])

end Sys2Proof.Machine
end

