-- ==== Sys2Proof/WellFormed.lean ====
section
/-! DEFINITION. Well-formed commands: the operands that name a part of the module lie in the range the manual gives that
part. Fields of fixed width need no check. A meaning does not rest on these checks: a command outside them concerns
nothing that exists, and changes nothing. -/

namespace Sys2Proof

/-- A logical core number (R12). -/
def coreOk (k : Nat) : Bool := decide (k < 1536)

/-- A physical cluster number (R12). -/
def clusterOk (c : Nat) : Bool := decide (c < 96)

/-- A physical site: cluster and slot, 0 to 17 (R93). -/
def siteOk (c slot : Nat) : Bool := clusterOk c && decide (slot < 18)

/-- A stack (R242). -/
def stackOk (n : Nat) : Bool := decide (n < 24)

/-- A Lattice port (R24). -/
def portOk (p : Nat) : Bool := decide (p < 20)

/-- A budget: that of a cluster, or the shared one (R356, R359). -/
def budgetOk : Option Nat → Bool
  | some c => clusterOk c
  | none => true

/-- A sync cell: its pool holds its number (R267). -/
def cellOk : CellRef → Bool
  | .cluster c n => clusterOk c && decide (n < 4096)
  | .module n => decide (n < 65536)
  | .tray n => decide (n < 1024)
  | .fabric n => decide (n < 256)

/-- A Proof instance (R41). -/
def instOk : ProofInst → Bool
  | .cluster c => clusterOk c
  | .module => true

/-- The operands of a command name parts of the module that exist. -/
def Instr.wellFormed : Instr → Bool
  | .add k _ _ _ _ => coreOk k
  | .sub k _ _ _ _ => coreOk k
  | .and k _ _ _ _ => coreOk k
  | .or k _ _ _ _ => coreOk k
  | .xor k _ _ _ _ => coreOk k
  | .sll k _ _ _ _ => coreOk k
  | .srl k _ _ _ _ => coreOk k
  | .sra k _ _ _ _ => coreOk k
  | .min k _ _ _ _ => coreOk k
  | .max k _ _ _ _ => coreOk k
  | .minu k _ _ _ _ => coreOk k
  | .maxu k _ _ _ _ => coreOk k
  | .mul k _ _ _ _ => coreOk k
  | .mulh k _ _ _ _ => coreOk k
  | .mulhu k _ _ _ _ => coreOk k
  | .addi k _ _ _ _ => coreOk k
  | .andi k _ _ _ _ => coreOk k
  | .ori k _ _ _ _ => coreOk k
  | .xori k _ _ _ _ => coreOk k
  | .slli k _ _ _ _ => coreOk k
  | .srli k _ _ _ _ => coreOk k
  | .srai k _ _ _ _ => coreOk k
  | .ldimm k _ _ _ _ => coreOk k
  | .ld k _ _ _ _ _ => coreOk k
  | .lds k _ _ _ _ _ => coreOk k
  | .st k _ _ _ _ _ => coreOk k
  | .pcmp k _ _ _ _ _ => coreOk k
  | .plogic k _ _ _ _ _ => coreOk k
  | .pget k _ _ _ => coreOk k
  | .br k _ _ => coreOk k
  | .beqz k _ _ _ => coreOk k
  | .bnez k _ _ _ => coreOk k
  | .bpt k _ _ _ => coreOk k
  | .bpf k _ _ _ => coreOk k
  | .call k _ _ => coreOk k
  | .ret k _ => coreOk k
  | .endProg k _ => coreOk k
  | .issue k _ _ _ _ => coreOk k
  | .issuer k _ _ _ _ => coreOk k
  | .bundleIssueAfterWait k => coreOk k
  | .waitTick k _ _ => coreOk k
  | .drain k _ _ => coreOk k
  | .drainComplete k => coreOk k
  | .flagclr k _ => coreOk k
  | .flagclrExecute k => coreOk k
  | .linkcfg k _ _ _ => coreOk k
  | .proof k _ _ _ _ _ _ _ => coreOk k
  | .proofReach k => coreOk k
  | .proofRelease inst => instOk inst
  | .entryProofArrival _ => true
  | .sig k _ _ _ => coreOk k
  | .wait k _ _ _ => coreOk k
  | .signalApply cell => cellOk cell
  | .waitArrival k => coreOk k
  | .waiterResume k => coreOk k
  | .lateCtlHold c => clusterOk c
  | .send k _ _ _ _ => coreOk k
  | .channelMessageWrite k => coreOk k
  | .sendComplete k => coreOk k
  | .recv k _ _ _ => coreOk k
  | .recvWake k => coreOk k
  | .release k _ _ => coreOk k
  | .halt k _ => coreOk k
  | .undefinedOpcode k _ => coreOk k
  | .faultClear c slot => siteOk c slot
  | .resume c slot => siteOk c slot
  | .haltReq c slot => siteOk c slot
  | .setmode k => coreOk k
  | .load k => coreOk k
  | .loadb k => coreOk k
  | .loadpair k => coreOk k
  | .load32 k => coreOk k
  | .stream k => coreOk k
  | .streami k => coreOk k
  | .stream32 k => coreOk k
  | .streamc k => coreOk k
  | .matrixSetidx k => coreOk k
  | .matrixDrain k => coreOk k
  | .accumulationComplete k a b => coreOk k && decide (a < 4) && decide (b < 2)
  | .interlockRelease k _ => coreOk k
  | .vectorCommandStart k => coreOk k
  | .vectorAdd k => coreOk k
  | .vectorSub k => coreOk k
  | .vectorMul k => coreOk k
  | .axpy k => coreOk k
  | .vectorMax k => coreOk k
  | .vectorMin k => coreOk k
  | .abs k => coreOk k
  | .neg k => coreOk k
  | .cmpgt k => coreOk k
  | .rcp k => coreOk k
  | .rsqrt k => coreOk k
  | .sqrt k => coreOk k
  | .exp2 k => coreOk k
  | .log2 k => coreOk k
  | .sigmoid k => coreOk k
  | .silu k => coreOk k
  | .tanh k => coreOk k
  | .rowdot k => coreOk k
  | .colsum k => coreOk k
  | .rowmax k => coreOk k
  | .rownorm k => coreOk k
  | .smaxFwd k => coreOk k
  | .smaxRescale k => coreOk k
  | .smaxNorm k => coreOk k
  | .smaxRecomp k => coreOk k
  | .smaxDs k => coreOk k
  | .statout k => coreOk k
  | .statin k => coreOk k
  | .statclr k => coreOk k
  | .lvbase k => coreOk k
  | .dropout k => coreOk k
  | .randU k => coreOk k
  | .randN k => coreOk k
  | .convert k => coreOk k
  | .packz k => coreOk k
  | .unpackz k => coreOk k
  | .compact k => coreOk k
  | .copy k => coreOk k
  | .tapout k => coreOk k
  | .tapclr k => coreOk k
  | .vectorSetidx k => coreOk k
  | .drawPhaseStart k => coreOk k
  | .setb k => coreOk k
  | .sxload k => coreOk k
  | .spmm k => coreOk k
  | .sparseAccumulationComplete k set => coreOk k && decide (set < 4)
  | .sparseSetidx k => coreOk k
  | .sparseDrain k => coreOk k
  | .rd k _ => coreOk k
  | .fill k => coreOk k
  | .rdrop k => coreOk k
  | .wr k => coreOk k
  | .acc k _ => coreOk k
  | .wback k => coreOk k
  | .dmaEntryRelease k _ => coreOk k
  | .dmaRowArrival _ => true
  | .dmaBankAccessStart c bank _ => clusterOk c && decide (bank < 48)
  | .wbackAckArrival _ => true
  | .tileFilled k _ => coreOk k
  | .slotFreed k _ => coreOk k
  | .stationWaitRelease k _ => coreOk k
  | .transferRetire k _ => coreOk k
  | .ksend k => coreOk k
  | .ksendRowAccept k target => coreOk k && decide (target < 1024)
  | .krecv k => coreOk k
  | .kneadRowArrival _ => true
  | .landingRowWrite _ => true
  | .binj k => coreOk k
  | .braidTileArrival k => coreOk k
  | .braidForward k => coreOk k
  | .routerPacketArrival _ _ => true
  | .stackRequest n _ => stackOk n
  | .dramRefresh n => stackOk n
  | .maintSlotOpen n => decide (n < 16)
  | .maintSlotClose n => decide (n < 16)
  | .backgroundScrub n _ => stackOk n
  | .progressWatchdog _ => true
  | .holdFreeze c => clusterOk c
  | .holdThaw c => clusterOk c
  | .holdLimit => true
  | .braidCreditCauseClear c => clusterOk c
  | .thermalCauseClear => true
  | .powerOverdraw budget => budgetOk budget
  | .overdrawCauseClear budget => budgetOk budget
  | .latticeRow port _ row => portOk port && decide (row.length = 512)
  | .latticeSig port _ => portOk port
  | .latticeProofArrive port _ => portOk port
  | .latticeProofRelease port _ => portOk port
  | .fabricProofReleaseTime => true
  | .latticeAck port _ _ => portOk port
  | .latticeNak port _ => portOk port
  | .latticeStale port _ => portOk port
  | .latticeIdle port => portOk port
  | .latticeCodewordUncorrectable port => portOk port
  | .portTrainingComplete port _ => portOk port
  | .snapshotRecordArrival row => decide (row.length = 512)
  | .traceRowWrite k => coreOk k
  | .plannedTraceTurn k => coreOk k
  | .monitorLevelSample readings => decide (readings.length = 46)
  | .monitorWindowSample => true
  | .monLatch _ => true
  | .monClear _ => true
  | .monLatchClear _ => true
  | .commandPacketArrival _ _ => true
  | .hostLinkAck _ _ _ => true
  | .hostLinkNak _ => true
  | .hostFillFrame => true
  | .hostCodewordUncorrectable => true
  | .hostLinkRetrain _ => true
  | .identify => true
  | .echo => true
  | .regRead => true
  | .regWrite => true
  | .resetWarm => true
  | .resetCold => true
  | .resetShutdown => true
  | .events => true
  | .ctxLoad => true
  | .jobLaunch => true
  | .jobAbort => true
  | .abortPoint _ => true
  | .abortReply _ => true
  | .ctxSwitch => true
  | .ctxRestore => true
  | .ctxFree => true
  | .ctxStatus => true
  | .starterArm => true
  | .starterSummary => true
  | .starterRelease => true
  | .bulkWrite => true
  | .bulkRead _ => true
  | .bulkFill => true
  | .traceCtl => true
  | .attestReport => true
  | .attestCertificate => true
  | .sessionOpen => true
  | .sessionClose => true
  | .releaseList => true
  | .lifecycleProvision => true
  | .lifecycleDeploy => true
  | .lifecycleRetire => true
  | .sealedLock => true
  | .rekey => true
  | .rekeyChunkComplete => true
  | .scrub => true
  | .memtest => true
  | .fwUpdate => true
  | .configWrite _ => true
  | .configApplyReset => true
  | .opStatus => true
  | .opCancel => true
  | .cancelPoint _ => true
  | .operationComplete _ _ => true
  | .fabricBringup => true
  | .portRetrain => true
  | .portDisable => true
  | .epochSet => true
  | .contextDone _ => true
  | .setEndpointId _ _ => true
  | .getEndpointId _ => true
  | .getMctpVersionSupport _ => true
  | .getMessageTypeSupport _ => true
  | .getVendorDefinedMessageSupport _ => true
  | .inputPowerStable _ => true
  | .inputBelowAux _ => true
  | .inputOutOfRange _ => true
  | .coolantOkStable _ => true
  | .plausibilityRetry _ => true
  | .coolantOkLoss => true
  | .resetNRelease => true
  | .selfCheck _ => true
  | .thermalGuardReading r => decide (r.junction.length = 4) && decide (r.stack.length = 24) && decide (r.regulator.length = 4)
  | .thermalRaise => true
  | .crossingMarginLost _ => true
  | .crossingTrimStep _ _ => true
  | .mgmtWatchdogExpiry => true
  | .tamperResponse _ => true
  | .crumbFlashCommit _ => true
  | .auxiliaryDomainStart _ => true
  | .portLaneLoss port _ => portOk port
  | .latticeReplayFrame port _ => portOk port
  | .hostReplayFrame _ => true

end Sys2Proof
end

