-- ==== Sys2Proof/Tests/Slice0.lean ====
section
/-! SUPPORT. Tests: a command out of range for each check of well-formedness; for each claim with hypotheses a state and operands
that meet them, in the claim's order, with what the manual gives there where that is a value. -/

namespace Sys2Proof.Tests

set_option Elab.async false

open Sys2Proof.Machine

/-! ### States to test on -/

/-- A record of two clusters and three cores. -/
def smallRecord : ConfigRecord := { factoryRecord with enabled := [0, 1], coreMap := [(0, 0), (0, 1), (1, 0)] }

/-- A module in RUNNING with a context on its cores, of which core 0 is this one. -/
def withCore (c : Core) : State :=
  { cores := [(0, c)], ctxs := [(0, { st := .running })], onCores := some 0
    mgmt := { st := .running, main := true, record := some smallRecord } }

/-- A core that runs, with this sequencer state and the whole local store as its regions. -/
def runningCore (q : Seq) : Core :=
  { seq := { q with st := .running }, codeLimit := 1024, dataBase := 1024, dataLimit := 4096 }

/-- The guard that is always true. -/
def always : Guard := ⟨0, false⟩

/-- Registers s1 and s2 with these values. -/
def regs2 (a b : Word) : Seq := { regs := [(1, a), (2, b)] }

/-- A sequencer state on core 0 of the small module. -/
def seqTest (q : Seq) : State := withCore (runningCore q)

/-- What a command leaves, if it answers a next state. -/
def after (i : Instr) (s : State) : State :=
  match exec i s with
  | .next t => t
  | _ => s

/-- The state with the words of a sequencer instruction at its core's PC. -/
def holding (i : Instr) (s : State) : State :=
  match seqEncode i with
  | some (k, w, w1) =>
    let c := s.core k
    s.setCore k { c with ls := memWrite c.ls c.seq.pc.toNat (leBytes 4 w.toNat ++ leBytes 4 w1.toNat) }
  | none => s

/-- What the instruction at its core's PC leaves. -/
def ran (i : Instr) (s : State) : State := after i (holding i s)

/-- The instruction runs on core 0, and its word stands at the core's PC. -/
def ready (i : Instr) (g : Guard) (rs : List (BitVec 5)) (s : State) : Bool :=
  seqRuns 0 g rs (holding i s) && (holding i s).names 0 i

/-! ### Well-formed commands: one in range, and one out of range for each check -/

theorem test_well_formed : (Instr.ret 1535 always).wellFormed = true ∧ (Instr.resume 95 17).wellFormed = true ∧
    (Instr.signalApply (.cluster 95 4095)).wellFormed = true ∧ (Instr.signalApply (.fabric 255)).wellFormed = true ∧
    (Instr.powerOverdraw none).wellFormed = true ∧ (Instr.proofRelease .module).wellFormed = true ∧
    (Instr.accumulationComplete 0 3 1).wellFormed = true ∧ (Instr.ksendRowAccept 0 1023).wellFormed = true ∧
    (Instr.thermalGuardReading ⟨[1, 1, 1, 1], List.replicate 24 1, [1, 1, 1, 1], 1, 1⟩).wellFormed = true := by decide +kernel

theorem test_core_out_of_range : (Instr.ret 1536 always).wellFormed = false := by decide +kernel

theorem test_site_out_of_range : (Instr.resume 96 0).wellFormed = false ∧ (Instr.resume 0 18).wellFormed = false ∧
    (Instr.holdFreeze 96).wellFormed = false := by decide +kernel

theorem test_cell_out_of_range : (Instr.signalApply (.cluster 96 0)).wellFormed = false ∧
    (Instr.signalApply (.cluster 0 4096)).wellFormed = false ∧ (Instr.signalApply (.module 65536)).wellFormed = false ∧
    (Instr.signalApply (.tray 1024)).wellFormed = false ∧
    (Instr.signalApply (.fabric 256)).wellFormed = false := by decide +kernel

theorem test_number_out_of_range : (Instr.proofRelease (.cluster 96)).wellFormed = false ∧
    (Instr.powerOverdraw (some 96)).wellFormed = false ∧ (Instr.accumulationComplete 0 4 0).wellFormed = false ∧
    (Instr.accumulationComplete 0 0 2).wellFormed = false ∧ (Instr.sparseAccumulationComplete 0 4).wellFormed = false ∧
    (Instr.dmaBankAccessStart 0 48 .clean).wellFormed = false ∧ (Instr.ksendRowAccept 0 1024).wellFormed = false ∧
    (Instr.stackRequest 24 .clean).wellFormed = false ∧ (Instr.maintSlotOpen 16).wellFormed = false ∧
    (Instr.latticeIdle 20).wellFormed = false := by decide +kernel

theorem test_length_out_of_range : (Instr.snapshotRecordArrival []).wellFormed = false ∧
    (Instr.monitorLevelSample []).wellFormed = false ∧
    (Instr.thermalGuardReading ⟨[1], [1], [1], 1, 1⟩).wellFormed = false := by decide +kernel

/-! ### Sequencer -/

/-- A sum of opposite signs (R65). -/
theorem test_alu_register : ready (.add 0 always 3 1 2) always [1, 2] (seqTest (regs2 5 (-7))) = true ∧
    ((ran (.add 0 always 3 1 2) (seqTest (regs2 5 (-7)))).core 0).seq.reg 3 = -2#64 := by decide +kernel

/-- The high half of a signed product (R65). -/
theorem test_mulh : ((ran (.mulh 0 always 3 1 2) (seqTest (regs2 (-1) 1))).core 0).seq.reg 3 = -1#64 := by decide +kernel

/-- LDIMM shifts by twelve and adds (R65). -/
theorem test_alu_immediate : ready (.ldimm 0 always 3 1 0xFFF#12) always [1] (seqTest (regs2 5 0)) = true ∧
    ((ran (.ldimm 0 always 3 1 0xFFF#12) (seqTest (regs2 5 0))).core 0).seq.reg 3 = 0x5FFF#64 := by decide +kernel

/-- A core with a byte 0x80 at 65537 and bad parity at 65540; s1 names the start of the data region. -/
def lsTest : State :=
  withCore { runningCore (regs2 65536 (-1)) with ls := [(65537, 0x80#8)], lsBad := [65540] }

theorem test_load : ready (.ld 0 always 3 1 1 0) always [1] lsTest = true ∧ lsPlace ((lsTest.core 0).seq.reg 1) 2 0 % 2 = 0 ∧
    (lsTest.core 0).inData 65536 2 = true ∧ (lsTest.core 0).parityBad 65536 2 = false ∧
    ((ran (.ld 0 always 3 1 1 0) lsTest).core 0).seq.reg 3 = 0x8000#64 ∧
    ((ran (.lds 0 always 3 1 1 0) lsTest).core 0).seq.reg 3 = -0x8000#64 := by decide +kernel

/-- A store of four bytes mends the parity of what it writes (R73). -/
theorem test_store : ready (.st 0 always 2 1 2 1) always [2, 1] lsTest = true ∧ lsPlace ((lsTest.core 0).seq.reg 1) 4 1 = 65540 ∧
    (lsTest.core 0).inData 65540 4 = true ∧ ((ran (.st 0 always 2 1 2 1) lsTest).core 0).lsBad = [] ∧
    memRead ((ran (.st 0 always 2 1 2 1) lsTest).core 0).ls 65543 = 0xFF#8 ∧
    memRead ((ran (.st 0 always 2 1 2 1) lsTest).core 0).ls 65544 = 0#8 := by decide +kernel

/-- A misaligned access, one outside the region and one on bad parity, for a load and for a store (R80). -/
theorem test_local_store_faults : (lsTest.core 0).fault.valid = false ∧
    ready (.ld 0 always 3 1 3 (-1)) always [1] lsTest = true ∧ ready (.st 0 always 2 1 3 (-1)) always [2, 1] lsTest = true ∧
    lsPlace 65537 4 0 % 4 ≠ 0 ∧ (lsTest.core 0).inData (lsPlace 65536 8 (-1)) 8 = false ∧
    (lsTest.core 0).parityBad 65540 4 = true ∧
    seqFaulted 0 0x02 (1 * 2 ^ 60 + 65528) 0 (ran (.ld 0 always 3 1 3 (-1)) lsTest) ∧
    seqFaulted 0 0x02 (2 * 2 ^ 60 + 65528) 0 (ran (.st 0 always 2 1 3 (-1)) lsTest) ∧
    seqFaulted 0 0x0C (5 * 2 ^ 60 + 65540) 0 (ran (.lds 0 always 3 1 2 1) lsTest) ∧
    seqFaulted 0 0x01 (6 * 2 ^ 56 + 65537) 0 (ran (.st 0 always 2 1 2 0) (seqTest (regs2 65537 0))) := by
  unfold seqFaulted; decide +kernel

theorem test_predicates : ready (.pcmp 0 always 2 1 2 .ltu) always [1, 2] (seqTest (regs2 5 (-7))) = true ∧
    ready (.pget 0 always 3 0) always [] (seqTest (regs2 5 (-7))) = true ∧
    ((ran (.pcmp 0 always 2 1 2 .ltu) (seqTest (regs2 5 (-7)))).core 0).seq.pred 2 = true ∧
    ((ran (.plogic 0 always 2 0 0 .not) (seqTest (regs2 5 (-7)))).core 0).seq.pred 2 = false ∧
    ((ran (.pget 0 always 3 0) (seqTest (regs2 5 (-7)))).core 0).seq.reg 3 = 1 := by decide +kernel

/-- BEQZ on s0 goes back; CALL and RET meet (R65). -/
theorem test_flow :
    ready (.beqz 0 always 0 (-2)) always [0] (seqTest { pc := 40 }) = true ∧
    ready (.ret 0 always) always [] (seqTest { pc := 40, stack := [8] }) = true ∧
    ((ran (.beqz 0 always 0 (-2)) (seqTest { pc := 40 })).core 0).seq.pc = 32 ∧
    ((ran (.call 0 always 2) (seqTest { pc := 40 })).core 0).seq.stack = [44] ∧
    ((ran (.ret 0 always) (seqTest { pc := 40, stack := [8] })).core 0).seq.pc = 8 := by decide +kernel

/-- A core at a word whose opcode is not defined. -/
def undefinedWord : State := withCore { runningCore {} with ls := [(2, 0xC0#8), (3, 0x03#8)] }

theorem test_stops : seqFetch 0 (holding (.endProg 0 always) (seqTest {})) = true ∧
    (holding (.endProg 0 always) (seqTest {})).names 0 (.endProg 0 always) = true ∧ ((seqTest {}).core 0).fault.valid = false ∧
    16 ≤ (List.replicate 16 8#18).length ∧
    ready (.call 0 always 1) always [] (seqTest { stack := List.replicate 16 8 }) = true ∧
    seqFetch 0 undefinedWord = true ∧ (undefinedWord.fetched 0).1 = 0x03C00000 ∧
    seqDecode 0 0x03C00000 (undefinedWord.fetched 0).2 = none ∧
    ((ran (.endProg 0 always) (seqTest {})).core 0).seq.st = .done ∧
    seqFaulted 0 0x01 0x0900000019C00000#64 0 (ran (.endProg 0 ⟨0, true⟩) (seqTest {})) ∧
    seqFaulted 0 0x01 (0x0A * 2 ^ 56) 0 (ran (.ret 0 always) (seqTest {})) ∧
    seqFaulted 0 0x01 (0x0A * 2 ^ 56) 0 (ran (.call 0 always 1) (seqTest { stack := List.replicate 16 8 })) ∧
    seqFaulted 0 0x01 (0x01 * 2 ^ 56 + 0x03C00000) 0 (after (.undefinedOpcode 0 0x03C00000) undefinedWord) := by
  unfold seqFaulted; decide +kernel

theorem test_guard_false : seqFetch 0 (holding (.br 0 ⟨3, false⟩ 5) (seqTest {})) = true ∧
    (holding (.br 0 ⟨3, false⟩ 5) (seqTest {})).names 0 (.br 0 ⟨3, false⟩ 5) = true ∧
      ((seqTest {}).core 0).seq.guard ⟨3, false⟩ = false ∧
    ((ran (.br 0 ⟨3, false⟩ 5) (seqTest {})).core 0).seq.pc = 4 := by decide +kernel

/-! ### Words of the sequencer, written bit by bit: guard [31:28], opcode [27:22], operands [21:0] (R62, R63, R65, R276) -/

/-- Predicate p3, inverted; p0, as it is. -/
def g3 : Guard := ⟨3, true⟩

theorem test_decode_alu :
    seqDecode 7 0b0111_000001_10001_00010_00011_0000000#32 0 = some (.sub 7 g3 17 2 3) ∧
    seqDecode 7 0b0000_000001_10001_00010_00011_0000001#32 0 = none ∧
    seqDecode 7 0b0000_010111_00001_00010_111111111110#32 0 = some (.ldimm 7 always 1 2 0xFFE) ∧
    seqDecode 7 0b0000_010110_00001_00010_000001_100000#32 0 = none ∧
    seqDecode 7 0b0000_001111_00000_00000_00000_0000000#32 0 = none := by decide +kernel

theorem test_decode_memory_and_flow :
    seqDecode 7 0b0000_011010_00101_00110_10_1111111111#32 0 = some (.st 7 always 5 6 2 0x3FF) ∧
    seqDecode 7 0b0000_011100_00101_00110_00111_0000100#32 0 = some (.pcmp 7 always 5 6 7 .ltu) ∧
    seqDecode 7 0b0000_011100_01101_00110_00111_0000100#32 0 = none ∧
    seqDecode 7 0b0111_100011_00101_11111111111111110#32 0 = some (.bpt 7 g3 5 0x1FFFE) ∧
    seqDecode 7 0b0111_100111_0000000000000000000000#32 0 = some (.endProg 7 g3) := by decide +kernel

theorem test_decode_issue_and_wait :
    seqDecode 7 0b0000_101000_1_00100_1000000000000001#32 0 = some (.issue 7 always true 4 0x8001) ∧
    seqDecode 7 0b0000_101001_0_00100_00101_00000000000#32 0 = some (.issuer 7 always false 4 5) ∧
    seqDecode 7 0b0000_101010_0_00100_0000000000000001#32 0 = some (.waitTick 7 always (.imm 0x40001)) ∧
    seqDecode 7 0b0000_101010_1_00100_0000000000000000#32 0 = some (.waitTick 7 always (.reg 4)) ∧
    seqDecode 7 0b0000_101011_100001_0000000000000000#32 0 = some (.drain 7 always 0x21) ∧
    seqDecode 7 0b0000_101101_00000_00100_00000000_1001#32 0 = some (.linkcfg 7 always 4 9) := by decide +kernel

theorem test_decode_proof_and_sync :
    seqDecode 7 0b0000_110000_10_00001_00010_00011_00100#32 0x12340000 = some (.proof 7 always 2 1 2 3 4 0x1234) ∧
    seqDecode 7 0b0000_110000_10_00001_00010_00011_00100#32 0x12340001 = none ∧
    seqDecode 7 0b0000_110001_00101_0_0000000000000111#32 0 = some (.sig 7 always 5 7) ∧
    seqDecode 7 0b0000_110011_101_00110_00111_000000000#32 0 = some (.send 7 always 5 6 7) ∧
    seqDecode 7 0b0000_110100_101_00110_00000000000000#32 0 = some (.recv 7 always 5 6) ∧
    seqDecode 7 0b0000_111111_0000000000000000000000#32 0 = some (.halt 7 always) ∧
    seqDecode 7 0b0000_111000_0000000000000000000000#32 0 = none := by decide +kernel

/-! ### Issue, waits, links -/

/-- A command with opcode and station at the top of its high word, and these low 112 bits. -/
def cmdOf (opcode station rest : Nat) : Cmd := BitVec.ofNat 128 (opcode * 2 ^ 120 + station * 2 ^ 112 + rest)

/-- A core that holds SETMODE 1 as a template at 65536 and in registers s1, s2. -/
def issueTest : State :=
  withCore { runningCore { regs := [(1, 0x0102000000000000), (2, 1), (3, 65536)] } with
             ls := [(65536, 1#8), (65550, 2#8), (65551, 1#8)] }

theorem test_issue : (0 : Nat) % 4 = 0 ∧ cmdStation (cmdOf 1 2 1) = (stCode .matrix).toNat ∧
    cmdError issueTest 0 (cmdOf 1 2 1) = none ∧ ((issueTest.stq 0 .matrix).outstanding 0).length < 4 ∧
    ready (.issue 0 always false 3 0) always [3] issueTest = true ∧ (issueTest.core 0).inData 65536 16 = true ∧
    (issueTest.core 0).parityBad 65536 16 = false ∧
    cmdOf 1 2 1 = BitVec.ofNat 128 (leNat (memBytes (issueTest.core 0).ls 65536 16)) ∧
    ready (.issuer 0 always false 1 2) always [1, 2] issueTest = true ∧
    cmdOf 1 2 1 = (issueTest.core 0).seq.reg 1 ++ (issueTest.core 0).seq.reg 2 ∧
    ((ran (.issue 0 always false 3 0) issueTest).stq 0 .matrix).acc = [{ cmd := cmdOf 1 2 1, pcw := 0, atT := 0 }] ∧
    ((ran (.issuer 0 always false 1 2) issueTest).stq 0 .matrix).acc = [{ cmd := cmdOf 1 2 1, pcw := 0, atT := 0 }] := by
  decide +kernel

/-- The ISSUE and the ISSUER at the PC read the same command. -/
theorem test_issue_reads :
    bundleReads 0 always false ⟨0, true, some (cmdOf 1 2 1)⟩ (.issue 0 always false 3 0)
      (holding (.issue 0 always false 3 0) issueTest) (holding (.issue 0 always false 3 0) issueTest) ∧
    bundleReads 0 always false ⟨0, true, some (cmdOf 1 2 1)⟩ (.issuer 0 always false 1 2)
      (holding (.issuer 0 always false 1 2) issueTest) (holding (.issuer 0 always false 1 2) issueTest) :=
  ⟨⟨by decide +kernel, by decide +kernel, by decide +kernel, by decide +kernel, .inl ⟨rfl,
      ⟨_, rfl, by decide +kernel, by decide +kernel, .inl ⟨3, 0, rfl, by decide +kernel, by decide +kernel, by decide +kernel,
        by decide +kernel, by decide +kernel⟩⟩, rfl⟩⟩,
    ⟨by decide +kernel, by decide +kernel, by decide +kernel, by decide +kernel, .inl ⟨rfl,
      ⟨_, rfl, by decide +kernel, by decide +kernel, .inr ⟨1, 2, rfl, by decide +kernel, by decide +kernel⟩⟩, rfl⟩⟩⟩

/-- A core whose register s1 is the high word of a command. -/
def badCommand (hi : Word) : State := holding (.issuer 0 always false 1 2) (seqTest (regs2 hi 0))

/-- Station 7, and opcode 0x07 of MATRIX (R80). -/
theorem test_bad_command : badCommand 0x0107000000000000 |> fun s =>
    bundleReads 0 always false ⟨0, true, some (cmdOf 1 7 0)⟩ (.issuer 0 always false 1 2) s s ∧
    (s.core 0).seq.bundle = [] ∧ (s.core 0).fault.valid = false ∧ ((s.stq 0 .matrix).outstanding (s.coreTick 0)).length < 4 ∧
    ((after (.issuer 0 always false 1 2) s).core 0).fault.detail = 2 * 2 ^ 56 + 7 ∧
    ((after (.issuer 0 always false 1 2) (badCommand 0x0702001002000000)).core 0).fault =
      { valid := true, code := 1, station := 2, layer := 1, op := 2, detail := 3 * 2 ^ 56 + 7,
        cmd := cmdOf 7 2 (2 ^ 100 + 2 ^ 89) } :=
  ⟨⟨by decide +kernel, by decide +kernel, by decide +kernel, by decide +kernel, .inl ⟨rfl,
      ⟨_, rfl, by decide +kernel, by decide +kernel, .inr ⟨1, 2, rfl, by decide +kernel, by decide +kernel⟩⟩, rfl⟩⟩,
    by decide +kernel, by decide +kernel, by decide +kernel, by decide +kernel, by decide +kernel⟩

/-- A bundle that holds so many commands, at an ISSUE with `B` under a false guard. -/
def bundleTest (n : Nat) : State :=
  holding (.issue 0 ⟨3, false⟩ true 3 0) (seqTest { bundle := List.replicate n ⟨3, true, some 0⟩, pc := 24 })

theorem test_bundle : bundleTest 5 |> fun s =>
    bundleReads 0 ⟨3, false⟩ true ⟨6, false, none⟩ (.issue 0 ⟨3, false⟩ true 3 0) s (traceOutcome 0 false s) ∧
    (s.core 0).fault.valid = false ∧
    ((after (.issue 0 ⟨3, false⟩ true 3 0) (bundleTest 4)).core 0).seq.bundle =
      List.replicate 4 ⟨3, true, some 0⟩ ++ [⟨6, false, none⟩] ∧
    ((after (.issue 0 ⟨3, false⟩ true 3 0) (bundleTest 4)).core 0).seq.ready = 0 ∧
    ((after (.issue 0 ⟨3, false⟩ true 3 0) s).core 0).fault.detail = 0x0B * 2 ^ 56 + 3 ∧
    ((after (.issue 0 ⟨3, false⟩ true 3 0) s).core 0).seq.pc = 12 :=
  ⟨⟨by decide +kernel, by decide +kernel, by decide +kernel, by decide +kernel, .inr ⟨rfl, rfl,
      ⟨by decide +kernel, by decide +kernel, .inl ⟨3, 0, rfl⟩⟩, rfl⟩⟩,
    by decide +kernel, by decide +kernel, by decide +kernel, by decide +kernel, by decide +kernel⟩

/-- A core with a SETMODE and a LOAD of SPARSE in its bundle, at an ISSUER without `B` whose guard is false, and this queue. -/
def endingBundle (q : List Acc) (spare : Nat) : State :=
  let s := seqTest { bundle := [⟨3, true, some (cmdOf 1 2 1)⟩, ⟨4, true, some (cmdOf 1 spare 0)⟩], pc := 20 }
  holding (.issuer 0 ⟨3, false⟩ false 1 2) (s.setCore 0 { s.core 0 with stn := { matrix := { acc := q } } })

/-- Four commands of MATRIX not begun. -/
def fullQueue : List Acc := List.replicate 4 { cmd := cmdOf 1 2 1, pcw := 0, atT := 0 }

/-- A bundle whose last instruction, under a false guard, stands at the PC. -/
def endingItems (n : Nat) : List BundleItem := [⟨3, true, some (cmdOf 1 2 1)⟩, ⟨4, true, some (cmdOf 1 n 0)⟩, ⟨5, false, none⟩]

/-- The core has come to the end of this bundle. -/
def ends (s : State) (n : Nat) : Prop :=
  bundleComes 0 (.issuer 0 ⟨3, false⟩ false 1 2) (endingItems n) s (traceOutcome 0 false s)

/-- A false guard ends the bundle: it issues at once, waits for its full station, or names a station twice. -/
theorem test_bundle_ends : ends (endingBundle [] 4) 4 ∧ ends (endingBundle fullQueue 4) 4 ∧ ends (endingBundle [] 2) 2 := by
  refine ⟨?_, ?_, ?_⟩ <;>
    exact .inl ⟨⟨3, false⟩, ⟨5, false, none⟩, ⟨by decide +kernel, by decide +kernel, by decide +kernel, by decide +kernel,
      .inr ⟨rfl, rfl, ⟨by decide +kernel, by decide +kernel, .inr ⟨1, 2, rfl⟩⟩, rfl⟩⟩, by decide +kernel⟩

theorem test_bundle_results : endingBundle [] 4 |> fun s => traceOutcome 0 false s |> fun u =>
    (∀ st ∈ [Station.fetch, .matrix, .vector, .sparse, .store, .knead], (bundleNamed (endingItems 4) (stCode st).toNat).length ≤ 1 ∧
      ((s.stq 0 st).outstanding (s.coreTick 0)).length < 4) ∧ (bundleNamed (endingItems 2) 2).length = 2 ∧
    cmdError u 0 (cmdOf 1 2 1) = none ∧ cmdError u 0 (cmdOf 1 4 0) = none ∧ (s.core 0).fault.valid = false ∧
    ((after (.issuer 0 ⟨3, false⟩ false 1 2) s).core 0).seq.pc = 24 ∧
    ((after (.issuer 0 ⟨3, false⟩ false 1 2) s).stq 0 .sparse).acc.map (·.pcw) = [4] ∧
    (((endingBundle fullQueue 4).stq 0 .matrix).outstanding 0).length = 4 ∧
    ((after (.issuer 0 ⟨3, false⟩ false 1 2) (endingBundle fullQueue 4)).core 0).seq.pc = 12 ∧
    ((after (.issuer 0 ⟨3, false⟩ false 1 2) (endingBundle [] 2)).core 0).fault.detail = 0x0B * 2 ^ 56 + 3 := by decide +kernel

/-- A bundle of SETMODE and a false guard's command, which waits. -/
def waitingBundle : State := seqTest { wait := .bundle [⟨3, true, some (cmdOf 1 2 1)⟩, ⟨4, false, none⟩] }

theorem test_waiting_bundle : waitingBundle |> fun s =>
    bundleComes 0 (.bundleIssueAfterWait 0) [⟨3, true, some (cmdOf 1 2 1)⟩, ⟨4, false, none⟩] s s ∧
    cmdError s 0 (cmdOf 1 2 1) = none ∧ ((s.stq 0 .matrix).outstanding (s.coreTick 0)).length < 4 ∧
    ((after (.bundleIssueAfterWait 0) s).core 0).seq.pc = 20 ∧
    ((after (.bundleIssueAfterWait 0) s).stq 0 .matrix).acc.map (·.pcw) = [3] ∧
    ((after (.bundleIssueAfterWait 0) s).core 0).seq.wait = .none :=
  ⟨.inr ⟨rfl, by decide +kernel, by unfold seqAwake; decide +kernel, rfl⟩, by decide +kernel, by decide +kernel, by decide +kernel,
    by decide +kernel, by decide +kernel⟩

/-- In phase tick 10 tick 4 is past, and tick 30 is not (R71). -/
theorem test_wait_tick : seqFetch 0 (holding (.waitTick 0 ⟨3, false⟩ (.imm 30)) { seqTest {} with now := 10 }) = true ∧
    ready (.waitTick 0 always (.imm 4)) always [] { seqTest {} with now := 10 } = true ∧
      ((seqTest {}).core 0).seq.guard ⟨3, false⟩ = false ∧
    ((ran (.waitTick 0 always (.imm 4)) { seqTest {} with now := 10 }).core 0).lateCount = 1 ∧
    ((ran (.waitTick 0 always (.imm 30)) { seqTest {} with now := 10 }).core 0).seq.tickTo = 30 ∧
    ((ran (.waitTick 0 ⟨3, false⟩ (.imm 30)) { seqTest {} with now := 10 }).core 0).seq.tickTo = 0 := by decide +kernel

/-- A core with one command of MATRIX that has not retired, in this wait. -/
def busyMatrix (w : SeqWait) : State :=
  withCore { runningCore { wait := w } with stn := { matrix := { acc := [{ cmd := cmdOf 1 2 1, pcw := 0, atT := 0 }] } } }

theorem test_drain : ready (.drain 0 always 2) always [] (seqTest {}) = true ∧ ((seqTest {}).stq 0 .matrix).outstanding 0 = [] ∧
    ((busyMatrix .none).stq 0 .matrix).outstanding 0 ≠ [] ∧ ready (.flagclr 0 always) always [] (busyMatrix .none) = true ∧
    seqAwake 0 (seqTest { wait := .drain 2 }) ∧ seqAwake 0 { seqTest { wait := .flagclr } with now := 5 } ∧
    (∀ st ∈ [Station.matrix, .vector, .sparse],
      (State.stq { seqTest { wait := .flagclr } with now := 5 } 0 st).last < 5) ∧
    ((ran (.drain 0 always 2) (seqTest {})).core 0).seq.wait = .none ∧
    ((ran (.drain 0 always 2) (busyMatrix .none)).core 0).seq.wait = .drain 2 ∧
    ((ran (.drain 0 always 1) (busyMatrix .none)).core 0).seq.wait = .none ∧
    ((ran (.flagclr 0 always) (busyMatrix .none)).core 0).seq.wait = .flagclr ∧
    ((after (.drainComplete 0) (busyMatrix (.drain 2))).core 0).seq.wait = .drain 2 ∧
    ((after (.drainComplete 0) (busyMatrix (.drain 1))).core 0).seq.wait = .none := by unfold seqAwake; decide +kernel

/-- Link 2 from FETCH to MATRIX, two slots of 2048 bytes at 4096; a link to itself is refused (R51). -/
theorem test_linkcfg : ready (.linkcfg 0 always 1 2) always [1] (seqTest (regs2 0x81222008 0)) = true ∧
    (linkAtRest (seqTest {}) 0 2 && linkFits ((seqTest {}).core 0) 2 0x81222008) = true ∧
    linkFits ((seqTest {}).core 0) 2 0x81122008 = false ∧
    ((ran (.linkcfg 0 always 1 2) (seqTest (regs2 0x81222008 0))).core 0).link 2 =
      { cfg := 0x81222008, free := 2 } ∧
    ((ran (.linkcfg 0 always 1 2) (seqTest (regs2 0x81122008 0))).core 0).fault.detail = 8 * 2 ^ 56 + 2 := by decide +kernel

/-! ### Sync objects and channels -/

/-- Virtual ID 5 is this cell of module 0; s1 holds it, and core 0 waits like this. -/
def syncTest (entry : Word) (w : SeqWait) : State :=
  let s := withCore (runningCore { regs := [(1, 5)], wait := w })
  { s with sync := { xlat := [(0, [(5, entry)])] }, fab := { index := some 0, x := 2 } , now := 100 }

/-- A valid entry of scope MODULE for cell 0, of scope FABRIC for cell 7 at module 1. -/
def moduleCell : Word := 0xA000000000000000
def farCell : Word := 0xE000010000000007

theorem test_signal_and_wait_leave : ready (.sig 0 always 1 2) always [1] (syncTest moduleCell .none) = true ∧
    syncNames 0 1 false (syncTest moduleCell .none) = true ∧ syncNames 0 1 true (syncTest moduleCell .none) = true ∧
    syncNames 0 1 false (syncTest farCell .none) = true ∧
    (syncTest farCell .none).portTo (xlModule (syncTest farCell .none) farCell) 0 ≠ none ∧
    syncNames 0 1 false (syncTest 0 .none) = false ∧ syncNames 0 1 true (syncTest farCell .none) = false ∧
    ((ran (.sig 0 always 1 2) (syncTest moduleCell .none)).sync.sigs.map fun x => (x.amount, x.due, x.away)) =
      [(3, 126, false)] ∧
    ((ran (.wait 0 always 1 2) (syncTest moduleCell .none)).core 0).seq.wait = .sync (.module 0) 3 5 (.travelling 114) ∧
    ((ran (.wait 0 always 1 2) (syncTest farCell .none)).core 0).fault.code = 0x07 ∧
    ((ran (.sig 0 always 1 2) (syncTest farCell .none)).sync.sigs.map (·.away)) = [true] := by decide +kernel

/-- Signals of 2 and 3 for module cell 0, due; core 0 waits in its queue for `a`. -/
def signalTest (a : Nat) : State :=
  let s := syncTest moduleCell (.sync (.module 0) a 5 .queued)
  let x : SigFly := { cell := .module 0, amount := 2, vid := 5, due := 90, home := 0, core := some 0, phase := 0 }
  { s with sync := { s.sync with mcells := [(0, { count := 1, queue := [(0, a)] })], sigs := [x, { x with amount := 3 }] } }

theorem test_signal_applied : firstSigs (signalTest 6) (.module 0) = (signalTest 6).sync.sigs ∧
    (signalTest 6).frozen 0 = false ∧ 90 ≤ (signalTest 6).ticks 0 ∧ ((signalTest 6).cell (.module 1)).queue = [] ∧
    (after (.signalApply (.module 0)) (signalTest 6)).cell (.module 0) = {} ∧
    (after (.signalApply (.module 0)) (signalTest 7)).cell (.module 0) = { count := 6, queue := [(0, 7)] } ∧
    ((after (.signalApply (.module 0)) (signalTest 6)).core 0).seq.wait = .sync (.module 0) 6 5 (.released 130) ∧
    (after (.signalApply (.module 0)) (signalTest 6)).sync.sigs = [] := by decide +kernel

/-- The same two signals, at a count of 2³² − 4: they would pass the last count (R263). -/
def overflowTest : State :=
  let s := signalTest 6
  { s with sync := { s.sync with mcells := [(0, { count := 0xFFFFFFFC, queue := [(0, 6)] })] } }

theorem test_signal_overflow : firstSigs overflowTest (.module 0) = overflowTest.sync.sigs ∧ overflowTest.frozen 0 = false ∧
    90 ≤ overflowTest.ticks 0 ∧ (overflowTest.cell (.module 0)).queue = [(0, 6)] ∧
    (overflowTest.core 0).seq.wait = .sync (.module 0) 6 5 .queued ∧
    ((after (.signalApply (.module 0)) overflowTest).cell (.module 0)).count = 0xFFFFFFF9 ∧
    (after (.signalApply (.module 0)) overflowTest).sync.overflows = 1 := by decide +kernel

theorem test_wait_arrives : waitIsNext (syncTest moduleCell (.sync (.module 0) 1 5 (.travelling 100))) 0 (.module 0) 100 = true ∧
    (syncTest moduleCell (.sync (.module 0) 1 5 (.travelling 100))).frozen 0 = false ∧
    100 ≤ (syncTest moduleCell .none).ticks 0 ∧ seqAwake 0 (syncTest moduleCell (.sync (.module 0) 1 5 (.released 100))) ∧
    ((after (.waitArrival 0) (syncTest moduleCell (.sync (.module 0) 1 5 (.travelling 100)))).cell (.module 0)).queue =
      [(0, 1)] ∧
    ((after (.waiterResume 0) (syncTest moduleCell (.sync (.module 0) 1 5 (.released 100)))).core 0).seq.pc = 4 := by
  unfold seqAwake; decide +kernel

/-- The cell of the test before covers the amount. -/
def coveredWait : State :=
  let s := syncTest moduleCell (.sync (.module 0) 1 5 (.travelling 100))
  { s with sync := { s.sync with mcells := [(0, { count := 4 })] } }

theorem test_wait_covered : (coveredWait.cell (.module 0)).queue = [] ∧ 1 ≤ (coveredWait.cell (.module 0)).count ∧
    (after (.waitArrival 0) coveredWait).cell (.module 0) = { count := 3 } := by decide +kernel

/-- The packet of the first signal has not come. -/
def lateSignal : State :=
  let s := signalTest 6
  { s with
    sync := { s.sync with sigs := s.sync.sigs.map fun x => { x with pkt := some 9 } }
    pkts := [{ id := 9, src := 1, dst := 0, kind := .ctl, plane := 0, vc := 2, core := some 0, path := [0] }] }

theorem test_late_control : ctlDue lateSignal 0 = true ∧ lateSignal.frozen 0 = false ∧ passing 0 lateSignal = none ∧
    (after (.signalApply (.module 0)) lateSignal).sync.sigs.length = 2 ∧
    (after (.lateCtlHold 0) lateSignal).frozen 0 = true := by decide +kernel

/-- A channel of ring size 8 at unit 1024 of the local store from core 0, endpoint 2, to core 0, endpoint 1, where such
messages lie and the tail stands like this. The message of two units lies at 65536, as s1 and s2 say. -/
def channelTest (tail : Nat) (msgs : List (Nat × Bool × Nat)) (w : SeqWait) : State :=
  withCore { runningCore { regs := [(1, 65536), (2, 1)], wait := w } with
             tx := [(2, { cfg := 0x8000000001000008, seq := 7 })]
             rx := [(1, { cfg := 0x8000000000400008, tail := tail, msgs := msgs })] }

theorem test_send : ready (.send 0 always 2 1 2) always [1, 2] (channelTest 0 [] .none) = true ∧
    ((channelTest 0 [] .none).core 0).inData 65536 128 = true ∧
    ((channelTest 0 [] .none).core 0).parityBad 65536 128 = false ∧
    ((channelTest 0 [] .none).core 0).inData 0 64 = false ∧
    ((ran (.send 0 always 2 1 2) (channelTest 0 [] .none)).sync.msgs.map fun m => (m.n, m.dst, m.dstEp, m.lat)) =
      [(2, 0, 1, 6)] ∧
    ((ran (.send 0 always 2 1 2) (channelTest 0 [] .none)).core 0).seq.wait = .send 2 .travelling ∧
    ((ran (.send 0 always 3 1 2) (channelTest 0 [] .none)).core 0).fault.detail = 4 * 2 ^ 56 + 3 ∧
    ((ran (.send 0 always 3 2 2) (channelTest 0 [] .none)).core 0).fault.detail = 6 * 2 ^ 56 + 1 ∧
    ((ran (.send 0 always 2 0 0) (channelTest 0 [] .none)).core 0).fault.code = 0x02 ∧
    ((ran (.send 0 always 2 0 1) { channelTest 0 [] .none with
      cores := [(0, { (channelTest 0 [] .none).core 0 with tx := [(2, { cfg := 0x8000000001000000 })] })] }).core 0).fault.code =
      0x09 := by decide +kernel

/-- A message of two units, of which this much has been read, on its way to the ring; core 0 waits like this. -/
def messageTest (tail : Nat) (data : Bytes) (wr : Option Nat) (w : SeqWait) : State :=
  let m : Msg := { pkt := 9, src := 0, ep := 2, dst := 0, dstEp := 1, n := 2, data := data, atT := 0, lat := 6
                   from' := 1024, wr := wr }
  { (channelTest tail [] w).onSeq 0 fun q => { q with wpkt := some 9 } with sync := { msgs := [m] }, now := 20 }

/-- The message waits for its ring. -/
def newMessage (tail : Nat) : State := messageTest tail (List.replicate 64 0x5A#8) none (.send 2 .travelling)

theorem test_message_written : (newMessage 7).frozen 0 = false ∧ 0 + 7 + 6 ≤ (newMessage 7).ticks 0 ∧
    (newMessage 7).arrived (some 9) = true ∧ ((newMessage 7).sync.msgs.all (newMessage 7).msgRoom) = true ∧
    ((newMessage 7).core 0).seq.wpkt = some 9 ∧
    (((after (.channelMessageWrite 0) (newMessage 7)).core 0).rxEp 1).msgs = [(1, true, 21), (2, false, 23)] ∧
    (((after (.channelMessageWrite 0) (newMessage 7)).core 0).rxEp 1).tail = 2 ∧
    (after (.channelMessageWrite 0) (newMessage 7)).sync.msgs.map (fun m => (m.wr, m.first)) = [(some 20, 0)] ∧
    (((after (.channelMessageWrite 0) (newMessage 6)).core 0).rxEp 1).tail = 0 ∧
    ((after (.channelMessageWrite 0) (newMessage 3)).core 0).seq.wait = .send 2 (.written 37) := by decide +kernel

/-- The message is written, and its acknowledgement has come. -/
def acknowledged : State := { messageTest 0 [] none (.send 2 (.written 0)) with sync := {} }

theorem test_send_completes : seqAwake 0 acknowledged ∧ acknowledged.arrived (some 9) = true ∧ acknowledged.sync.msgs = [] ∧
    ((after (.sendComplete 0) acknowledged).core 0).seq.pc = 4 ∧
    ((after (.sendComplete 0) acknowledged).core 0).seq.wpkt = none := by unfold seqAwake; decide +kernel

/-- Both units have been read, and the first is to be written now. -/
def unitTest (tick : Nat) : State :=
  { messageTest 0 (List.replicate 128 0x5A#8) (some 19) (.send 2 (.written 0)) with now := tick }

theorem test_message_units : seqAwake 0 (newMessage 3) ∧ ((newMessage 3).core 0).parityBad 1088 64 = false ∧
    ((newMessage 3).sync.msgs.map fun m => ((msgRead m (newMessage 3)).sync.msgs.map (·.data.length))) = [[128]] ∧
    (unitTest 20).frozen 0 = false ∧ 19 + 1 ≤ (unitTest 20).ticks 0 ∧
    ((unitTest 20).sync.msgs.map fun m => memRead ((msgPut m (unitTest 20)).core 0).ls 65599) = [0x5A#8] ∧
    ((unitTest 20).sync.msgs.map fun m => memRead ((msgPut m (unitTest 20)).core 0).ls 65600) = [0#8] ∧
    ((unitTest 20).sync.msgs.map fun m => (msgPut m (unitTest 20)).sync.msgs.map (·.put)) = [[1]] ∧
    ((unitTest 21).sync.msgs.map fun m => (msgPut { m with put := 1 } (unitTest 21)).sync.msgs.length) = [0] := by
  unfold seqAwake; decide +kernel

theorem test_receive : ready (.recv 0 always 1 4) always [] (channelTest 3 [(2, false, 0)] .none) = true ∧
    seqAwake 0 (channelTest 3 [(2, false, 0)] (.recv 1 4)) ∧ ready (.recv 0 always 1 4) always [] (channelTest 0 [] .none) = true ∧
    ready (.release 0 always 1) always [] (channelTest 3 [(1, true, 0)] .none) = true ∧
    ((ran (.recv 0 always 1 4) (channelTest 3 [(2, false, 0)] .none)).core 0).seq.reg 4 = 65536 ∧
    ((after (.recvWake 0) (channelTest 3 [(2, false, 0)] (.recv 1 4))).core 0).seq.reg 4 = 65536 ∧
    (((ran (.release 0 always 1) (channelTest 3 [(2, false, 0)] .none)).core 0).rxEp 1).head = 2 ∧
    (((ran (.recv 0 always 1 4) (channelTest 3 [(1, true, 0)] .none)).core 0).rxEp 1).msgs = [] ∧
    ((ran (.recv 0 always 1 4) (channelTest 3 [] .none)).core 0).seq.wait = .recv 1 4 ∧
    ((ran (.release 0 always 1) (channelTest 3 [] .none)).core 0).fault.detail = 4 * 2 ^ 56 + 1 ∧
    ((ran (.recv 0 always 5 4) (channelTest 3 [] .none)).core 0).fault.detail = 4 * 2 ^ 56 + 5 := by
  unfold seqAwake; decide +kernel

/-! ### Halts and Proofs -/

/-- A job launched with debug. -/
def debugTest (q : Seq) (st : CoreState) : State :=
  let s := withCore { seq := { q with st := st }, codeLimit := 1024 }
  { s with ctxs := [(0, { st := .running, launch := { flags := 2 } })] }

theorem test_halt : ready (.halt 0 always) always [] (seqTest {}) = true ∧ (seqTest {}).debugJob = false ∧
    ready (.halt 0 always) always [] (debugTest {} .running) = true ∧ (debugTest {} .running).debugJob = true ∧
    ((ran (.halt 0 always) (seqTest {})).core 0).seq.st = .running ∧
    ((ran (.halt 0 always) (debugTest {} .running)).core 0).seq.st = .halted ∧
    ((ran (.halt 0 always) (debugTest {} .running)).hold.eps.flatMap Episode.raisers).map (·.cause) = [8] := by decide +kernel

/-- A core in a PROOF whose conditions a Hold freezes halts at its release; a core that runs on to one, at once (R84). -/
theorem test_core_control : (debugTest {} .idle).coreAt 5 0 = none ∧ (debugTest {} .idle).coreAt 0 0 = some 0 ∧
    (debugTest {} .idle).sec.resident = none ∧ (debugTest {} .running).debugJob = true ∧
    ((after (.resume 0 0) (debugTest {} .halted)).core 0).seq.st = .running ∧
    ((after (.resume 0 0) (debugTest { pc := 40, tickAt := some 40 } .halted)).core 0).seq.pc = 44 ∧
    ((after (.haltReq 0 0) (debugTest {} .running)).core 0).seq.st = .halted ∧
    ((after (.haltReq 0 0) (debugTest {} .proofWait)).core 0).seq.haltAt = true ∧
    ((after (.haltReq 0 0) (debugTest { wait := .proof ⟨0, 9, 1, 2, 3, 4⟩ } .running)).core 0).seq.haltAt = true := by decide +kernel

/-- What has no effect: HALT_REQ in DONE, FAULT_CLEAR in RUNNING, a site without a core, a core in sealed residency. -/
theorem test_core_control_ignored :
    after (.haltReq 0 0) (debugTest {} .done) = debugTest {} .done ∧
    after (.faultClear 0 0) (debugTest {} .running) = debugTest {} .running ∧
    after (.resume 5 0) (debugTest {} .halted) = debugTest {} .halted ∧
    after (.resume 0 0) { debugTest {} .halted with sec := { resident := some 1 } } =
      { debugTest {} .halted with sec := { resident := some 1 } } := ⟨rfl, rfl, rfl, rfl⟩

/-- A CLUSTER Proof with tag 9. -/
def proofArg : ProofArg := ⟨0, 9, 1, 2, 3, 4⟩

/-- The arrival of core 1 at a Proof with this tag. -/
def arrived (tag : BitVec 16) : Arrival := ⟨1, ⟨0, tag, 0, 0, 0, 0⟩, 0x10, 0xFF, 0, 0⟩

/-- Core 0 before a PROOF, or in one, with such arrivals of its cluster. -/
def proofTest (w : SeqWait) (xs : List Arrival) : State :=
  { seqTest { wait := w, regs := [(1, 0x20), (2, 0x0F)] } with proof := { inst := [(0, { arrivals := xs })] }, now := 50 }

theorem test_proof_arrival :
    ready (.proof 0 always 0 1 2 3 4 9) always [1, 2] (proofTest .none []) = true ∧ ((proofTest .none []).core 0).inCode 4 4 = true ∧
    ((proofTest .none []).core 0).parityBad 4 4 = false ∧ seqAwake 0 (proofTest (.proof proofArg) []) ∧
    mayArrive (proofTest .none []) 0 = true ∧ residue ((proofTest .none []).core 0) = none ∧
    (proofTest .none []).coresOf 0 = [0, 1] ∧
    (mget (ran (.proof 0 always 0 1 2 3 4 9) (proofTest .none [])).proof.inst 0 {}).arrivals =
      [⟨0, proofArg, 0x20, 0x0F, 50, 50⟩] ∧
    (mget (after (.proofReach 0) (proofTest (.proof proofArg) [arrived 9])).proof.inst 0 {}).release = some 62 ∧
    ((after (.proofReach 0) (proofTest (.proof proofArg) [arrived 8])).core 0).fault.detail = 5 * 2 ^ 56 + 9 := by
  unfold seqAwake; decide +kernel

/-- Core 0 before a PROOF with a transfer in flight, with a filled slot, with a Braid tile. -/
def heldProof (n : Nat) : State :=
  let c := (proofTest .none []).core 0
  withCore (match n with
    | 0 => { c with dma := [⟨1, 0, false⟩] }
    | 1 => { c with links := [(3, { cfg := 0x81220000, filled := 1 })] }
    | _ => { c with braid := { buf := [⟨[], 0⟩] } })

theorem test_proof_waits : mayArrive (heldProof 0) 0 = false ∧ ((heldProof 0).cluster 0).krecvs = [] ∧
    mayArrive (heldProof 1) 0 = true ∧ residue ((heldProof 1).core 0) = some 3 ∧ mayArrive (heldProof 2) 0 = true ∧
    residue ((heldProof 2).core 0) = none ∧
    ready (.proof 0 always 0 1 2 3 4 9) always [1, 2] (heldProof 0) = true ∧
    ready (.proof 0 always 0 1 2 3 4 9) always [1, 2] (heldProof 1) = true ∧
    ready (.proof 0 always 0 1 2 3 4 9) always [1, 2] (heldProof 2) = true ∧
    seqFetch 0 (holding (.proof 0 ⟨1, true⟩ 0 1 2 3 4 9) (heldProof 0)) = true ∧
    ((ran (.proof 0 always 0 1 2 3 4 9) (heldProof 0)).core 0).seq.wait = .proof proofArg ∧
    ((ran (.proof 0 always 0 1 2 3 4 9) (heldProof 1)).core 0).fault.detail = 7 * 2 ^ 56 + 3 ∧
    ((ran (.proof 0 always 0 1 2 3 4 9) (heldProof 2)).core 0).fault.detail = 7 * 2 ^ 56 + 0x10 ∧
    ((ran (.proof 0 ⟨1, true⟩ 0 1 2 3 4 9) (heldProof 0)).core 0).fault.detail = 9 * 2 ^ 56 + 0x3C008864 := by
  decide +kernel

/-- Core 0 waits at its Proof; core 1, its neighbour, is idle; the Proof's instance is this. -/
def releaseTest (p : ProofSt) : State :=
  let s := withCore { seq := { st := .proofWait, proof := proofArg }
                      links := [(3, { cfg := 0x81220000, filled := 1, cons := 1, prod := 1, free := 1 })]
                      mx := { origin := 5 } }
  { s with proof := p, now := 70, sync := { mcells := [(1, { count := 3 })], tcells := [(1, { count := 3 })] } }

theorem test_cluster_release :
    (mget (releaseTest { inst := [(0, { arrivals := [arrived 9], release := some 60 })] }).proof.inst 0 {}).release = some 60 ∧
    awaitsRelease 0 (releaseTest {}) ∧
    ((after (.proofRelease (.cluster 0)) (releaseTest
      { inst := [(0, { arrivals := [arrived 9], release := some 60 })] })).core 0).seq =
      { st := .running, proof := proofArg, regs := [(3, 0x10), (4, 0xFF)], regReady := [(3, 70), (4, 70)], pc := 8, phase0 := 70
        ready := 70 } ∧
    ((after (.proofRelease (.cluster 0)) (releaseTest
      { inst := [(0, { arrivals := [arrived 9], release := some 60 })] })).core 0).link 3 =
      { cfg := 0x81220000, free := 2 } := by unfold awaitsRelease; decide +kernel

/-- The release of cluster 0 while a ring of no room holds the units of a message in the routers, and while none is held. -/
theorem test_release_held :
    let s := releaseTest { inst := [(0, { arrivals := [arrived 9], release := some 60 })] }
    let held := { s with pkts := [{ id := 4, src := 0, dst := 0, kind := .ctl, plane := 0, vc := 0, core := none }]
                         sync := { msgs := [⟨4, 0, 0, 1, 0, 1, [], 0, 0, 0, none, 0, 0⟩] } }
    ringHolds held ∧ ¬ringHolds s := by unfold ringHolds; decide +kernel

theorem test_module_release : (releaseTest { release := some 60, wArgs := [arrived 9] }).cur = some 0 ∧
    ((releaseTest {}).ctx 0).arm = none ∧ ((releaseTest {}).ctx 0).switchAt = none ∧ (releaseTest {}).obs.mode ≠ 1 ∧
    ((after (.proofRelease .module) (releaseTest { release := some 60, wArgs := [arrived 9] })).ctx 0).w = 1 ∧
    (after (.proofRelease .module) (releaseTest { release := some 60, wArgs := [arrived 9] })).sync.mcells = [] ∧
    (after (.proofRelease .module) (releaseTest { release := some 60, wArgs := [arrived 9] })).sync.tcells ≠ [] ∧
    ((after (.proofRelease .module) (releaseTest { release := some 60, wArgs := [arrived 9] })).core 0).mx = {} ∧
    ((after (.proofRelease .module) (releaseTest { release := some 60, wArgs := [arrived 9] })).core 0).seq.reg 4 = 0xFF := by
  decide +kernel

/-- A release of scope FABRIC that is due. -/
def fabricRelease (mismatch : Bool) : State :=
  let s := releaseTest { fab := some ⟨40, 3, 7, 0x30, 0x0C, mismatch, false⟩ }
  { s with fab := { ftime := 45 } }

theorem test_fabric_release : (fabricRelease false).cur = some 0 ∧ awaitsRelease 0 (fabricRelease false) ∧
    ((fabricRelease true).core 0).fault.valid = false ∧
    ((after .fabricProofReleaseTime (fabricRelease false)).ctx 0).fabN = 1 ∧
    (after .fabricProofReleaseTime (fabricRelease false)).sync.tcells = [] ∧
    ((after .fabricProofReleaseTime (fabricRelease false)).core 0).seq.reg 3 = 0x30 ∧
    ((after .fabricProofReleaseTime (fabricRelease true)).core 0).fault.detail = 5 * 2 ^ 56 + 3 * 2 ^ 16 + 7 := by
  unfold awaitsRelease; decide +kernel

/-- Context 0 before its entry Proof, in a job of these modules. -/
def entryTest (members : List Nat) : State :=
  let s := releaseTest { entry := some 0, entryAt := some 70 }
  { s with ctxs := [(0, { st := .running, bin := { ttId := 0x0B00, members := members }, launchOp := some 1 })]
           host := { ops := [{ id := 1, iface := .renkai, tag := 5, ctx := 0, opcode := 0x0101 }] } }

theorem test_late_release : (fabricRelease false).hold.eps = [] ∧
    (lateRelease 3 (fabricRelease false)).hold.eps.map (·.u0) = [67] ∧
    ((lateRelease 3 (fabricRelease false)).island 95).since = some 67 := by decide +kernel

theorem test_entry_proof : (∀ k ∈ (entryTest []).allCores, (entryTest []).coreFrozen k = false) ∧
  (entryArg ((entryTest []).ctx 0)).scope = 1 ∧ (entryArg ((entryTest [0, 1]).ctx 0)).scope ≠ 1 ∧
    ((entryTest [0, 1]).op 1).isSome = true ∧
    (after (.entryProofArrival none) (entryTest [])).proof.release = some 230 ∧
    ((after (.entryProofArrival (some ⟨0x0A01, 0, 0⟩)) (entryTest [0, 1])).ctx 0).st = .loaded ∧
    (after (.entryProofArrival (some ⟨0x0A01, 0, 0⟩)) (entryTest [0, 1])).host.sent.map (fun y => y.hdr.take 7) =
      [[0x01#8, 0x01#8, 5#8, 0#8, 0#8, 0x80#8, 0x0E#8]] ∧
    (after (.entryProofArrival (some ⟨0x0B00, 4, 0⟩)) (entryTest [0, 1])).host.sent.map (fun y => y.hdr.drop 6 |>.take 1) =
      [[0x05#8]] := by decide +kernel

/-! ### Stations -/

/-- A link of four slots of 512 bytes at a base of 2048 times `n`, with two tiles in it. -/
def testLink (n : Nat) : Link := { cfg := BitVec.ofNat 64 (0x81240000 + 4 * n), filled := 2, free := 2 }

/-- A core whose station has this command, with links 1 and 2. -/
def stationTest (st : Station) (cmd : Cmd) (c : Core) : State :=
  withCore { c with seq := { st := .running }, links := [(1, testLink 0), (2, testLink 1)]
                    stn := Stations.setQ {} st { acc := [{ cmd := cmd, pcw := 0, atT := 0 }] } }

/-- The command of a station that has just been accepted. -/
def accTest (cmd : Cmd) : Acc := { cmd := cmd, pcw := 0, atT := 0 }

/-- GANG2; ORIGIN 3 and PITCH 5. -/
def setmodeCmd : Cmd := cmdOf 1 2 (2 ^ 78)
def setidxCmd : Cmd := cmdOf 0x10 2 (3 * 2 ^ 32 + 5 * 2 ^ 8)

theorem test_matrix_mode : comesUp 0 .matrix (accTest setmodeCmd) 0x01 [] [] (stationTest .matrix setmodeCmd {}) ∧
    comesUp 0 .matrix (accTest setidxCmd) 0x10 [] [] (stationTest .matrix setidxCmd {}) ∧
    ((after (.setmode 0) (stationTest .matrix setmodeCmd {})).core 0).mx.mode = .gang2 ∧
    ((after (.matrixSetidx 0) (stationTest .matrix setidxCmd {})).core 0).mx.origin = 3 := by unfold comesUp; decide +kernel

/-- A load of E2M1 from link 1 (and 2) into arrays 0 and 2, and one of FP32. -/
def loadCmd (opcode : Nat) : Cmd := cmdOf opcode 2 (2 ^ 84 + 5 * 2 ^ 76 + 2 * 2 ^ 68 + 7 * 2 ^ 64)
def load32Cmd : Cmd := cmdOf 5 2 (2 ^ 84 + 5 * 2 ^ 76)

theorem test_matrix_loads :
    comesUp 0 .matrix (accTest (loadCmd 2)) 0x02 [1] [] (stationTest .matrix (loadCmd 2) {}) ∧
    comesUp 0 .matrix (accTest (loadCmd 4)) 0x04 [1, 2] [] (stationTest .matrix (loadCmd 4) {}) ∧
    comesUp 0 .matrix (accTest load32Cmd) 0x05 [1] [] (stationTest .matrix load32Cmd {}) ∧
    (((after (.load 0) (stationTest .matrix (loadCmd 2) { slotMem := [(0, 0x21#8)] })).core 0).mx.array 2).p1.take 3 = [1, 2, 0] ∧
    (((after (.loadpair 0) (stationTest .matrix (loadCmd 4) { slotMem := [(2048, 0x21#8)] })).core 0).mx.array 0).p1.take 2 =
      [1, 2] ∧
    (((after (.load32 0) (stationTest .matrix load32Cmd { slotMem := [(2, 0x80#8), (3, 0x3F#8)] })).core 0).mx.array 0).p0.take 1 =
      [0x3F80] ∧
    (((after (.load 0) (stationTest .matrix (loadCmd 2) {})).core 0).link 1).filled = 1 := by unfold comesUp; decide +kernel

/-- A stream of INT8 from link 1 (and 2) into array 0, bank 0. -/
def streamCmd (opcode fmt : Nat) : Cmd := cmdOf opcode 2 (2 ^ 84 + 2 * 2 ^ 68 + fmt * 2 ^ 64)

theorem test_matrix_stream :
    comesUp 0 .matrix (accTest (streamCmd 8 8)) 0x08 [1] [] (stationTest .matrix (streamCmd 8 8) {}) ∧
    streamFrom ((stationTest .matrix (streamCmd 8 8) {}).core 0).mx [0] false false
      ((mxPlan .split false 0).map fun p => (p.1, false, 16)) ≤ 0 ∧
    mxPlan .split false 0 ≠ [] ∧ noDrainOf 0 0 false (stationTest .matrix (streamCmd 8 8) {}) ∧
    ((((after (.stream 0) (stationTest .matrix (streamCmd 8 8)
      { slotMem := [(0, 3#8)], mx := { arrays := [(0, { p0 := [5] })] } })).core 0).mx.array 0).bank0.vals.take 1) = [15] := by
  unfold comesUp noDrainOf; decide +kernel

theorem test_matrix_passes : mxFlip (streamCmd 9 8) = false ∧
    comesUp 0 .matrix (accTest (streamCmd 9 8)) 0x09 [1] [] (stationTest .matrix (streamCmd 9 8) {}) ∧
    comesUp 0 .matrix (accTest (streamCmd 10 0)) 0x0A [1] [] (stationTest .matrix (streamCmd 10 0) {}) ∧
    comesUp 0 .matrix (accTest (streamCmd 11 1)) 0x0B [1, 2] [] (stationTest .matrix (streamCmd 11 1) {}) ∧
    (((stationTest .matrix (streamCmd 11 1) {}).core 0).mx.array 0).lastIn ≤ 0 ∧
    noDrainOf 0 0 true (stationTest .matrix (streamCmd 11 1) {}) ∧
    (((after (.streami 0) (stationTest .matrix (streamCmd 9 8)
      { slotMem := [(0, 0xFD#8)], mx := { arrays := [(0, { p0 := [5] })] } })).core 0).mx.array 0).bank0.vals.take 1 =
      [-15#32] ∧
    ((((after (.streamc 0) (stationTest .matrix (streamCmd 11 1) {})).core 0).mx.array 0).bank1.done =
      (((after (.streamc 0) (stationTest .matrix (streamCmd 11 1) {})).core 0).mx.array 0).bank0.done + 64) := by
        unfold comesUp noDrainOf; decide +kernel

/-- A drain of bank 0 of array 1 to link 2 as FP32, scale 1. -/
def drainCmd : Cmd := cmdOf 0x11 2 (2 * 2 ^ 80 + 2 ^ 76 + 0x3F800000 * 2 ^ 16)

/-- The drain begins in its turn; a drain of an incomplete bank waits, and one that waits begins while no other is ahead (R121). -/
theorem test_matrix_drain :
    let t := stationTest .matrix drainCmd
    let issued := fun c => (t c).onStq 0 .matrix fun q => { q with acc := [{ accTest drainCmd with stage := .issued 15 }] }
    drainComes 0 .matrix (accTest drainCmd) 0x11 (t {}) ∧ linkWait ((t {}).core 0) [] [2] = none ∧
    (((t {}).core 0).mx.array 1).bank0.done ≤ 0 ∧ ((t {}).core 0).mx.drainLast ≤ 0 ∧ (accTest drainCmd).draw = none ∧
    drainComes 0 .matrix { accTest drainCmd with stage := .issued 15 } 0x11 (issued {}) ∧
    ((after (.matrixDrain 0) (t { mx := { arrays := [(1, { bank0 := { vals := [0x40490FDB], done := 0 } })] } })).core 0).stn.outs.map
        (fun x => (x.data.take 4, x.due, x.link)) = [([0xDB#8, 0x0F#8, 0x49#8, 0x40#8], 16, 2)] ∧
    ((after (.matrixDrain 0) (issued {})).stq 0 .matrix).acc.map (·.stage) = [.running 16] ∧
    ((after (.matrixDrain 0) (t { mx := { arrays := [(1, { bank0 := { done := 9 } })] } })).stq 0 .matrix).acc.map (·.stage) =
      [.issued 15] := by unfold drainComes; decide +kernel

/-- A VECTOR command on E2M1 tiles: A from link 1, B from link 2, the result to link 2; the statistics set is 1. -/
def vecCmd (opcode : Nat) : Cmd :=
  cmdOf opcode 3 (2 ^ 84 + 2 * 2 ^ 80 + 7 * 2 ^ 76 + 7 * 2 ^ 72 + 2 * 2 ^ 68 + 2 ^ 11)

/-- VECTOR has this command; the first elements of A and of B are the nibbles of a byte. -/
def vecTest (opcode : Nat) (x y : Byte) : State := stationTest .vector (vecCmd opcode) { slotMem := [(0, x), (2048, y)] }

/-- The first bytes of the tile that VECTOR writes after a command. -/
def vecOut (i : Instr) (s : State) : List Bytes := ((after i s).core 0).stn.outs.map (·.data.take 1)

/-- 1.0 and 6.0 in E2M1 are 2 and 7 (R130). -/
theorem test_vector_elementwise : vectorComesUp 0 (accTest (vecCmd 1)) 0x01 (vecTest 1 0x22 0x42) ∧
    vecOut (.vectorAdd 0) (vecTest 1 0x22 0x42) = [[0x54#8]] ∧ vecOut (.vectorMul 0) (vecTest 3 0x22 0x42) = [[0x42#8]] ∧
    vecOut (.neg 0) (vecTest 8 0x22 0) = [[0xAA#8]] ∧ vecOut (.cmpgt 0) (vecTest 9 0x23 0x32) = [[0x02#8]] ∧
    ((after (.vectorAdd 0) (vecTest 1 0x22 0x42)).core 0).stn.outs.map (·.due) = [14] := by
  unfold vectorComesUp comesUp; decide +kernel

theorem test_vector_statistics : vectorComesUp 0 (accTest (vecCmd 0x1A)) 0x1A (vecTest 0x1A 0x74 0) ∧
    vectorComesUp 0 (accTest (vecCmd 0x27)) 0x27 (vecTest 0x27 0 0) ∧
    (statRow ((after (.rowmax 0) (vecTest 0x1A 0x74 0)).core 0).vec 1 0).m = 0x40C00000 ∧
    (statRow ((after (.rowdot 0) (vecTest 0x18 0x04 0x04)).core 0).vec 1 0).d = 0x40800000 ∧
    (statRow ((after (.statin 0) (vecTest 0x26 0x42 0)).core 0).vec 1 0).l = 0x40000000 := by
  unfold vectorComesUp comesUp; decide +kernel

theorem test_vector_reads_statistics : vectorComesUp 0 (accTest (vecCmd 0x22)) 0x22 (vecTest 0x22 0x22 0) ∧
    vectorComesUp 0 (accTest (vecCmd 0x25)) 0x25 (vecTest 0x25 0 0) ∧
    vecOut (.smaxNorm 0) (vecTest 0x22 0x22 0) = [[0#8]] ∧
    ((after (.statout 0) (vecTest 0x25 0 0)).core 0).stn.outs.map (·.data.take 4) = [[0#8, 0#8, 0x80#8, 0xFF#8]] := by
  unfold vectorComesUp comesUp; decide +kernel

theorem test_softmax : vectorComesUp 0 (accTest (vecCmd 0x20)) 0x20 (vecTest 0x20 0x22 0) ∧
    (statRow ((after (.smaxFwd 0) (vecTest 0x20 0x22 0)).core 0).vec 1 0).m = 0x3F800000 ∧
    (statRow ((after (.smaxFwd 0) (vecTest 0x20 0x22 0)).core 0).vec 1 1).m = 0 := by
  unfold vectorComesUp comesUp; decide +kernel

/-- DROPOUT of stream 9 with a draw phase that has come. -/
def dropoutCmd : Cmd := cmdOf 0x29 3 (2 ^ 84 + 2 * 2 ^ 80 + 7 * 2 ^ 76 + 7 * 2 ^ 72 + 9 * 2 ^ 48 + 0x3F800000 * 2 ^ 16)
def dropoutAcc : Acc := { accTest dropoutCmd with draw := some { base := 0, first := 1, last := 4, origin := 0, pitch := 0 } }
def dropoutTest : State :=
  withCore { seq := { st := .running }, links := [(1, testLink 0), (2, testLink 1)], slotMem := [(0, 0x22#8)]
             lv := { slots := [(0, { valid := true, id := 9 })] }, stn := { vector := { acc := [dropoutAcc] } } }

/-- With a threshold of 0 nothing is dropped. -/
theorem test_vector_draws : vectorComesUp 0 dropoutAcc 0x29 dropoutTest ∧
    (dropoutTest.core 0).lv.slot (vStream dropoutCmd) = some { valid := true, id := 9 } ∧
    vectorComesUp 0 (accTest (vecCmd 0x30)) 0x30 (vecTest 0x30 0x22 0) ∧
    vecOut (.dropout 0) dropoutTest = [[0x22#8]] := by unfold vectorComesUp comesUp; decide +kernel

theorem test_vector_other : vectorComesUp 0 (accTest (vecCmd 0x33)) 0x33 (vecTest 0x33 0x22 0) ∧
    vectorComesUp 0 (accTest (vecCmd 0x38)) 0x38 (vecTest 0x38 0 0) ∧
    vectorComesUp 0 (accTest (vecCmd 0x39)) 0x39 (vecTest 0x39 0 0) ∧
    vectorComesUp 0 (accTest (vecCmd 0x3A)) 0x3A (vecTest 0x3A 0 0) ∧
    vectorComesUp 0 (accTest (vecCmd 0x28)) 0x28 (vecTest 0x28 0 0) ∧
    ((after (.compact 0) (vecTest 0x33 0x22 0)).core 0).stn.outs.map (·.data.take 3) = [[0#8, 2#8,
      0x20#8]] := by unfold vectorComesUp comesUp; decide +kernel

/-- A PACKZ or UNPACKZ of E4M3 with Z = 1, from four filled slots of link 1 to four free slots of link 2. -/
def packCmd (opcode : Nat) : Cmd := cmdOf opcode 3 (2 ^ 84 + 2 * 2 ^ 80 + 3 * 2 ^ 76 + 3 * 2 ^ 72 + 2 ^ 8)
def packTest (opcode : Nat) : State :=
  withCore { seq := { st := .running }, slotMem := [(0, 0x38#8)]
             links := [(1, { testLink 0 with filled := 4 }), (2, { testLink 1 with free := 4 })]
             stn := { vector := { acc := [accTest (packCmd opcode)] } } }

theorem test_packz : comesUp 0 .vector (accTest (packCmd 0x31)) 0x31 [] [] (packTest 0x31) ∧
    comesUp 0 .vector (accTest (packCmd 0x32)) 0x32 [] [] (packTest 0x32) ∧
    4 ≤ ((packTest 0x31).core 0).links[0].2.filled ∧ 4 ≤ (((packTest 0x31).core 0).link 2).free ∧
    (((packTest 0x31).core 0).link 1).cons < linkDepth (((packTest 0x31).core 0).link 1).cfg ∧
    ((after (.packz 0) (packTest 0x31)).core 0).stn.outs.map (·.due) = [38, 39] ∧
    ((after (.unpackz 0) (packTest 0x32)).core 0).stn.outs.map (·.due) = [14, 22, 30, 38] ∧
    (((after (.unpackz 0) (packTest 0x32)).core 0).link 1).filled = 2 := by unfold comesUp; decide +kernel

/-! ### SPARSE -/

/-- SETB to 8, SXLOAD of one E2M1 tile into chunk 3, SETIDX, SPMM into set 1, DRAIN of pair 0. -/
def spCmd (opcode rest : Nat) : Cmd := cmdOf opcode 4 (2 ^ 84 + 7 * 2 ^ 76 + rest)
def spTest (opcode rest : Nat) (c : Core) : State := stationTest .sparse (spCmd opcode rest) c

theorem test_sparse_setup : comesUp 0 .sparse (accTest (spCmd 1 (2 ^ 62))) 0x01 [] [] (spTest 1 (2 ^ 62) {}) ∧
    comesUp 0 .sparse (accTest (spCmd 2 (3 * 2 ^ 70))) 0x02 [] [] (spTest 2 (3 * 2 ^ 70) {}) ∧
    comesUp 0 .sparse (accTest (spCmd 4 0)) 0x04 [] [] (spTest 4 0 {}) ∧
    512 / ((spTest 2 (3 * 2 ^ 70) {}).core 0).sp.budget / 32 ≤ (((spTest 2 (3 * 2 ^ 70) {}).core 0).link 1).filled ∧
    ((after (.setb 0) (spTest 1 (2 ^ 62) {})).core 0).sp.budget = 8 ∧
    ((mfind ((after (.sxload 0) (spTest 2 (3 * 2 ^ 70) { slotMem := [(0, 0x21#8)] })).core 0).sp.chunks 3).map
      (·.data.take 2)) = some [1, 2] := by unfold comesUp; decide +kernel

/-- A record that names more positions than the budget of 16 is bad. -/
theorem test_sparse_products :
    comesUp 0 .sparse (accTest (spCmd 3 (2 ^ 68))) 0x03 [1] [] (spTest 3 (2 ^ 68) {}) ∧
    (rowsOf (recSize (valWidth 7) 16) 32 (((spTest 3 (2 ^ 68) {}).core 0).inSlot 1)).all (recOk 7 16) = true ∧
    ((spTest 3 (2 ^ 68) {}).core 0).fault.valid = false ∧
    (((after (.spmm 0) (spTest 3 (2 ^ 68) {})).core 0).sp.set 1).issue = some 0 ∧
    ((after (.spmm 0) (spTest 3 (2 ^ 68) { slotMem := [(1, 17#8)] })).core 0).fault.code = 0x06 ∧
    (∀ y ∈ ((spTest 3 (2 ^ 68) {}).stq 0 .sparse).acc, y.issued = true → spPair y.cmd ≠ 0) := by
  unfold comesUp; decide +kernel

/-- A drain of pair 0 begins in its turn, waits for its sets, and begins after it has waited. -/
theorem test_sparse_drain :
    let cmd := spCmd 5 (2 * 2 ^ 80)
    let s := spTest 5 (2 * 2 ^ 80) {}
    let issued := s.onStq 0 .sparse fun q => { q with acc := [{ accTest cmd with stage := .issued 15 }] }
    drainComes 0 .sparse (accTest cmd) 0x05 s ∧ linkWait (s.core 0) [] [2] = none ∧
    drainComes 0 .sparse { accTest cmd with stage := .issued 15 } 0x05 issued ∧
    ((after (.sparseDrain 0) s).core 0).stn.outs.map (·.due) = [2] ∧
    ((after (.sparseDrain 0) issued).core 0).stn.outs.map (·.due) = [2] ∧
    ((after (.sparseDrain 0) (spTest 5 (2 * 2 ^ 80) { sp := { sets := [(1, { done := 7 })] } })).stq 0 .sparse).acc.map (·.stage) =
      [.issued 15] := by unfold drainComes; decide +kernel

/-- A command of MATRIX that waits for its link, for an interlock, for its accumulation. -/
def waitingTest (st : Station) (cmd : Cmd) (r : Nat) : State :=
  withCore { seq := { st := .running }, links := [(1, testLink 0), (2, testLink 1)]
             stn := Stations.setQ {} st { acc := [{ accTest cmd with stage := .stalled r }] } }

theorem test_waiting_commands : ((waitingTest .matrix drainCmd 2).stq 0 .matrix).issued = none ∧
  (State.stq (waitingTest .matrix drainCmd 2) 0 .matrix).head =
      some { accTest drainCmd with stage := .stalled 2 } ∧ stationsOn 0 (waitingTest .matrix drainCmd 2) = true ∧
    stationRow 0 .matrix (cmdOpcode drainCmd) = some (.matrixDrain 0) ∧
    stationRow 0 .sparse (cmdOpcode (spCmd 5 0)) = some (.sparseDrain 0) ∧ spPair (spCmd 5 0) = 1 / 2 ∧
    ((after (.stationWaitRelease 0 .matrix) (waitingTest .matrix drainCmd 2)).stq 0 .matrix).acc.map (·.stage) = [.running 16] ∧
    ((after (.interlockRelease 0 .matrix) (waitingTest .matrix drainCmd 4)).stq 0 .matrix).acc.map (·.stage) = [.running 16] ∧
    ((after (.accumulationComplete 0 1 0) (waitingTest .matrix drainCmd 4)).stq 0 .matrix).acc.map (·.stage) = [.running 16] ∧
    ((after (.vectorCommandStart 0) (waitingTest .vector (vecCmd 0x27) 15)).stq 0 .vector).acc.map (·.stage) = [.running 2] ∧
    ((after (.interlockRelease 0 .matrix) (waitingTest .matrix drainCmd 2)).stq 0 .matrix).acc.map (·.stage) = [.stalled 2] := by
  decide +kernel

/-- A drain that has had its turn goes on by the rows of its wait. -/
theorem test_issued_drain :
    let s := (waitingTest .matrix drainCmd 2).onStq 0 .matrix fun q => { q with acc := [{ accTest drainCmd with stage := .issued 4 }] }
    (s.stq 0 .matrix).issued = some { accTest drainCmd with stage := .issued 4 } ∧ (s.stq 0 .matrix).head = none ∧
    stationsOn 0 s = true ∧
    ((after (.interlockRelease 0 .matrix) s).stq 0 .matrix).acc.map (·.stage) = [.running 16] ∧
    ((after (.accumulationComplete 0 1 0) s).stq 0 .matrix).acc.map (·.stage) = [.running 16] ∧
    ((after (.stationWaitRelease 0 .matrix) s).stq 0 .matrix).acc.map (·.stage) = [.issued 4] := by decide +kernel

theorem test_draw_phase : stationsOn 0 { dropoutTest with now := 3 } = true ∧
    ((after (.drawPhaseStart 0) { dropoutTest with now := 3 }).stq 0 .vector).acc.map (fun a => a.draw.map (·.begun)) =
      [some true] := by decide +kernel

/-! ### Cluster memory -/

/-- A FIFO ring of 16 rows at row 32 that core 0 reads, with six rows in it; a RESIDENT ring; an ACCUMULATE ring. -/
def fifoRing : Ring := { mode := 1, size := 16, base := 32, readers := 1, tail := 6 }
def residentRing : Ring := { mode := 2, size := 16, base := 64 }
def accRing : Ring := { mode := 3, size := 16, base := 96 }

/-- What an access answers, and how it fails. -/
def okOf : Except RingErr (Nat × Ring) → Option (Nat × Ring)
  | .ok x => some x
  | .error _ => none
def errOf : Except RingErr (Nat × Ring) → Option RingErr
  | .ok _ => none
  | .error e => some e

theorem test_ring_rules : fifoRing.readers.getLsbD 0 = true ∧ fifoRing.readers.getLsbD 1 = false ∧ ({} : Ring).mode = 0 ∧
    2 ≤ residentRing.mode.toNat ∧
    okOf (fifoRing.read 0 false 0 6) = some (0, { fifoRing with heads := [(0, 6)] }) ∧
    errOf (fifoRing.read 0 false 0 7) = some .underrun ∧ errOf (fifoRing.append 0 false 0 11) = some .overrun ∧
    okOf (fifoRing.append 0 false 0 10) = some (6, { fifoRing with tail := 16 }) ∧
    errOf (residentRing.read 0 true 16 1) = some .overrun := by decide +kernel

/-- A FETCH or STORE command of ring `n` with so many rows and this address. -/
def ringCmd (opcode station n rows addr : Nat) : Cmd :=
  cmdOf opcode station (2 ^ 84 + 2 * 2 ^ 80 + n * 2 ^ 74 + rows * 2 ^ 66 + addr)

/-- Cluster 0 has the three rings, and core 0 this command at its station. -/
def ringTest (st : Station) (cmd : Cmd) : State :=
  { stationTest st cmd { slotMem := [(0, 0x5A#8)] } with
    clusters := [(0, { rings := [(1, fifoRing), (2, residentRing), (3, accRing)] })] }

theorem test_ring_commands :
    ringComes 0 .fetch (accTest (ringCmd 1 1 1 0 0)) 1 [] [2] (ringTest .fetch (ringCmd 1 1 1 0 0)) ∧
    ringComes 0 .store (accTest (ringCmd 1 5 1 0 0)) 1 [1] [] (ringTest .store (ringCmd 1 5 1 0 0)) ∧
    ringComes 0 .store (accTest (ringCmd 2 5 3 0 0)) 2 [1] [] (ringTest .store (ringCmd 2 5 3 0 0)) ∧
    reservesLater (ringTest .fetch (ringCmd 1 1 1 0 0)) 0 .fetch (accTest (ringCmd 1 1 1 0 0)) = false ∧
    reservesLater (ringTest .store (ringCmd 1 5 1 0 0)) 0 .store (accTest (ringCmd 1 5 1 0 0)) = false ∧
    reservesLater (ringTest .store (ringCmd 2 5 3 0 0)) 0 .store (accTest (ringCmd 2 5 3 0 0)) = false ∧
    okOf (accRing.append 0 false 0 8) = some (0, { accRing with tail := 8 }) ∧
    ((after (.rd 0 []) (ringTest .fetch (ringCmd 1 1 1 0 0))).cluster 0).resv.map (fun x => (x.row, x.start)) = [(32, 2)] ∧
    ((after (.rd 0 []) (ringTest .fetch (ringCmd 1 1 1 0 0))).core 0).stn.outs.map (·.due) = [10] ∧
    ((after (.wr 0) (ringTest .store (ringCmd 1 5 1 0 0))).cluster 0).resv.map (fun x => (x.row, x.start, x.data.take 1)) =
      [(38, 6, [0x5A#8])] ∧
    (((after (.acc 0 []) (ringTest .store (ringCmd 2 5 3 0 0))).cluster 0).resv.take 3).map (fun x => (x.row, x.start)) =
      [(96, 6), (96, 10), (97, 8)] := by unfold ringComes; decide +kernel

/-- The start of cluster 1's window, and an address of the DRAM. -/
def window1 : Nat := windowBase + 0x1000000

theorem test_ring_transfers :
    ringComes 0 .fetch (accTest (ringCmd 2 1 1 4 512)) 2 [] [] (ringTest .fetch (ringCmd 2 1 1 4 512)) ∧
    transferMay 0 (accTest (ringCmd 2 1 1 4 512)) (ringTest .fetch (ringCmd 2 1 1 4 512)) ∧
    ringComes 0 .store (accTest (ringCmd 3 5 1 2 window1)) 3 [] [] (ringTest .store (ringCmd 3 5 1 2 window1)) ∧
    transferMay 0 (accTest (ringCmd 3 5 1 2 window1)) (ringTest .store (ringCmd 3 5 1 2 window1)) ∧
    ringComes 0 .fetch (accTest (ringCmd 3 1 1 5 0)) 3 [] [] (ringTest .fetch (ringCmd 3 1 1 5 0)) ∧
    ringComes 0 .fetch (accTest (ringCmd 3 1 2 5 0)) 3 [] [] (ringTest .fetch (ringCmd 3 1 2 5 0)) ∧
    engineClear 0 [38, 39, 40, 41] (ringTest .fetch (ringCmd 2 1 1 4 512)) ∧
    engineClear 0 [32, 33] (ringTest .store (ringCmd 3 5 1 2 window1)) ∧
    (after (.fill 0) (ringTest .fetch (ringCmd 2 1 1 4 512))).pkts.map (fun p => (p.plane, p.addr)) =
      [(0, 512), (1, 1024), (2, 1536), (0, 2048)] ∧
    ((after (.fill 0) (ringTest .fetch (ringCmd 2 1 1 4 512))).cluster 0).pend.map (·.row) = [38, 39, 40, 41] ∧
    ((after (.wback 0) (ringTest .store (ringCmd 3 5 1 2 window1))).cluster 0).bankQ.map (·.row) = [32, 33] ∧
    ((((after (.rdrop 0) (ringTest .fetch (ringCmd 3 1 1 5 0))).cluster 0).ring 1).head 0) = 5 := by
  unfold ringComes transferMay engineClear; decide +kernel

/-- A FILL behind an RD whose port is taken makes its rows pending in this tick, and retires two ticks on (R214, R226). -/
theorem test_fill_beside_port :
    let s := (ringTest .fetch (ringCmd 2 1 1 4 512)).onStq 0 .fetch fun q => { q with port := 9 }
    ringComes 0 .fetch (accTest (ringCmd 2 1 1 4 512)) 2 [] [] s ∧
      ((after (.fill 0) s).cluster 0).pend.map (·.row) = [38, 39, 40, 41] ∧
    ((after (.fill 0) s).stq 0 .fetch).acc.map (·.stage) = [.running 2] := by unfold ringComes; decide +kernel

/-- Ring 0 is not configured; ring 1 holds six rows; ring 2 has sixteen; stack memory ends before the address. -/
theorem test_ring_faults : ((ringTest .fetch 0).core 0).fault.valid = false ∧ (ringTest .fetch 0).clusterOf 0 < 2 ^ 7 ∧
    ringComes 0 .fetch (accTest (ringCmd 1 1 0 0 0)) 1 [] [2] (ringTest .fetch (ringCmd 1 1 0 0 0)) ∧
    ringComes 0 .store (accTest (ringCmd 1 5 0 0 0)) 1 [1] [] (ringTest .store (ringCmd 1 5 0 0 0)) ∧
    ringComes 0 .fetch (accTest (ringCmd 2 1 1 4 100)) 2 [] [] (ringTest .fetch (ringCmd 2 1 1 4 100)) ∧
    ringComes 0 .store (accTest (ringCmd 3 5 1 4 100)) 3 [] [] (ringTest .store (ringCmd 3 5 1 4 100)) ∧
    (ringTest .fetch 0).badRow 100 4 = some 100 ∧
    reservesLater (ringTest .fetch (ringCmd 1 1 0 0 0)) 0 .fetch (accTest (ringCmd 1 1 0 0 0)) = false ∧
    reservesLater (ringTest .store (ringCmd 1 5 0 0 0)) 0 .store (accTest (ringCmd 1 5 0 0 0)) = false ∧
    ((after (.rd 0 []) (ringTest .fetch (ringCmd 1 1 0 0 0))).core 0).fault.detail = 3 * 2 ^ 56 + 1 ∧
    ((after (.fill 0) (ringTest .fetch (ringCmd 2 1 1 4 100))).core 0).fault.code = 0x05 ∧
    ((after (.fill 0) (ringTest .fetch (ringCmd 2 1 1 11 512))).core 0).fault.code = 0x03 ∧
    ((after (.rdrop 0) (ringTest .fetch (ringCmd 3 1 1 7 0))).core 0).fault.detail = 1 := by unfold ringComes; decide +kernel

/-- A tile due in slot 1 of link 2, a slot of link 1 to be given back, a command that retires. -/
def eventTest : State :=
  withCore
    { seq := { st := .running }, links := [(1, testLink 0), (2, testLink 1)]
      stn := { outs := [⟨.fetch, 2, 1, 0, [0x77#8], { nf := true, row := 3 }, 4, 5, 0, 0, 0, none⟩], frees := [(1, 0)]
               fetch := { acc := [{ accTest 0 with stage := .running 0 }] } } }

theorem test_slot_events : stationsOn 0 eventTest = true ∧ (dueTile eventTest 0 .fetch).isSome = true ∧
    dueTile eventTest 0 .matrix = none ∧
    (((after (.tileFilled 0 .fetch) eventTest).core 0).link 2).filled = 3 ∧
    ((after (.tileFilled 0 .fetch) eventTest).core 0).nf = { flag := true, station := 1, layer := 4, op := 5, row := 3 } ∧
    (((after (.tileFilled 0 .fetch) eventTest).core 0).slotData 2 1).take 1 = [0x77#8] ∧
    (((after (.slotFreed 0 1) eventTest).core 0).link 1).free = 3 ∧
    (after (.slotFreed 0 2) eventTest).cores = eventTest.cores ∧
    ((after (.transferRetire 0 .fetch) eventTest).stq 0 .fetch).acc = [] := by decide +kernel

/-- A packet of this kind that has reached cluster 0 from cluster 1, for row 0 of transfer 9 of core 0. -/
def packetTo0 (kind : PktKind) (addr : Nat) : Pkt :=
  { id := 4, src := 1, dst := 0, kind := kind, plane := 0, vc := 0, core := some 0, xfer := 9, row := 0, addr := addr, path := []
    data := [0x33#8], atT := 0 }

/-- Transfer 9, a FILL or a WBACK of two rows from row 32 on. -/
def transfer (kind : XferKind) : Xfer :=
  { id := 9, kind := kind, core := 0, ring := 1, rowsNo := [32, 33], addr := 512, issue := 0, worst := 400 }

def arrivalTest (kind : PktKind) (resv : List Resv) : State :=
  { ringTest .fetch 0 with
    pkts := [packetTo0 kind (windowBase + 1024)], xfers := [transfer .fillDram], now := 5
    clusters := [(0, { resv := resv })] }

/-- An engine read of row 32 that starts in this tick. -/
def engineWrite : Resv := { row := 32, start := 5, kind := .read, core := 0, cmd := 0, pcw := 0, done := true }

theorem test_rows_arrive : (arrivalTest .readRsp []).delivered (packetTo0 .readRsp (windowBase + 1024)) = true ∧
    startedOpposite (arrivalTest .readRsp []) 0 32 true = [] ∧
    startedOpposite (arrivalTest .readRsp [engineWrite]) 0 32 true = [engineWrite] ∧
    windowOf (windowBase + 1024) = some (0, 1024) ∧
    ((after (.dmaRowArrival 4) (arrivalTest .readRsp [])).cluster 0).bankQ = [⟨32, 5, .fillRow 9 0 [0x33#8]⟩] ∧
    ((after (.dmaRowArrival 4) (arrivalTest .readRsp [engineWrite])).cluster 0).collCount = 1 ∧
    ((after (.dmaRowArrival 4) (arrivalTest .readReq [])).cluster 0).bankQ = [⟨2, 5, .drawRead 4⟩] ∧
    ((after (.dmaRowArrival 4) (arrivalTest .writeRow [])).cluster 0).bankQ = [⟨2, 5, .windowWrite 4 [0x33#8]⟩] := by
  decide +kernel

/-- This access waits at bank 32 of cluster 0, where a KRECV takes two rows of which one has landed. -/
def testRecv : KRecv := { id := 6, core := 0, srcmod := 0, tag := 7, rowsNo := [32, 33], due := 0 }
def bankTest (work : BankWork) : State :=
  { arrivalTest .readReq [] with
    mem := [(windowBase + 32 * 512, 0x44#8)]
    clusters := [(0, { bankQ := [⟨32, 0, work⟩], pend := [⟨32, 9, false⟩, ⟨32, 6, false⟩], krecvs := [testRecv] })]
    fab := { landed := [⟨8, .router 0, 0, 7, 0, 2, 0, [0x55#8], 0, false, false⟩] } }

/-- Its cycle is over. -/
def cycleTest (read : Bool) (work : BankWork) (ecc : Ecc) : State :=
  let s := bankTest work
  s.setCluster 0 { s.cluster 0 with bankQ := [], dmaBusy := [⟨32, read, 5, ecc, false, [(work, 5)]⟩] }

/-- A cycle of a read of row 32 is in progress, and another read of it waits; or nothing waits. -/
def joinTest : State :=
  let s := bankTest (.drawRead 4)
  s.setCluster 0 { s.cluster 0 with dmaBusy := [⟨32, true, 6, .clean, false, [(.drawRead 3, 6)]⟩] }

theorem test_bank_starts :
    nextAccess (bankTest (.fillRow 9 0 [0x33#8])) 0 32 = some (⟨32, 0, .fillRow 9 0 [0x33#8]⟩, false) ∧
    nextAccess joinTest 0 32 = some (⟨32, 0, .drawRead 4⟩, true) ∧ nextAccess joinTest 0 31 = none ∧
    ((after (.dmaBankAccessStart 0 32 .clean) (bankTest (.fillRow 9 0 [0x33#8]))).cluster 0).dmaBusy =
      [⟨32, false, 7, .clean, false, [(.fillRow 9 0 [0x33#8], 7)]⟩] ∧
    (after (.dmaBankAccessStart 0 32 .clean) (bankTest (.fillRow 9 0 [0x33#8]))).mem = (bankTest (.drawRead 4)).mem ∧
    ((after (.dmaBankAccessStart 0 32 .clean) joinTest).cluster 0).dmaBusy.map (fun d => (d.until', d.works.map (·.2))) =
      [(6, [6, 7])] := by decide +kernel

theorem test_bank_writes : (cycleTest false (.fillRow 9 0 [0x33#8]) .clean).now = 5 ∧
    ((cycleTest false (.landing 8) .clean).cluster 0).match' 0 7 = some testRecv ∧
    memRead (dmaFinish 0 (cycleTest false (.fillRow 9 0 [0x33#8]) .clean)).mem (windowBase + 32 * 512) = 0x33#8 ∧
    ((dmaFinish 0 (cycleTest false (.fillRow 9 0 [0x33#8]) .clean)).cluster 0).pend = [⟨32, 6, false⟩] ∧
    (dmaFinish 0 (cycleTest false (.fillRow 9 0 [0x33#8]) .clean)).xfers.map (·.done) = [[0]] ∧
    (dmaFinish 0 (cycleTest false (.windowWrite 4 [0x33#8]) .clean)).pkts.map (fun z => (z.kind, z.dst)) = [(.writeAck, 1)] ∧
    memRead (dmaFinish 0 (cycleTest false (.landing 8) .clean)).mem (windowBase + 32 * 512) = 0x55#8 ∧
    ((dmaFinish 0 (cycleTest false (.landing 8) .clean)).cluster 0).krecvs.map (·.got) = [[0]] ∧
    (dmaFinish 0 (cycleTest false (.landing 8) .clean)).fab.landed = [] := by decide +kernel

/-- Core 0 sends two rows to cluster 1, and reads the first of them; the host asked for packet 4. -/
def sendRead (ecc : Ecc) : State :=
  let s := cycleTest true (.kneadRead 0 9 0) ecc
  s.setCore 0 { s.core 0 with
    ks := [{ id := 9, ring := some 1, rowsNo := [32, 33], start := 0, n := 2, dest := [0], dcluster := 1, tag := 7 }] }
def hostRead : State :=
  let s := cycleTest true (.drawRead 4) .uncorrectable
  { s with pkts := s.pkts.map fun p => { p with bulk := some 1, core := none } }

theorem test_bank_reads :
    (dmaFinish 0 (cycleTest true (.drawRead 4) .clean)).pkts.map (fun z => (z.kind, z.data.take 1)) =
      [(.readRsp, [0x44#8])] ∧
    ((dmaFinish 0 (cycleTest true (.drawRead 4) .uncorrectable)).core 0).fault.code = 0x0C ∧
    ((dmaFinish 0 (cycleTest true (.drawRead 4) .uncorrectable)).cluster 0).eccUncorr = 1 ∧
    (dmaFinish 0 hostRead).pkts.map (fun z => z.data.take 2) = [[0, 0]] ∧
    ((dmaFinish 0 (cycleTest true (.wbackRead 9 1) .clean)).pkts.drop 1).map (fun z => (z.kind, z.addr)) =
      [(.writeRow, 1024)] ∧
    ((dmaFinish 0 (cycleTest true (.wbackRead 9 1) .uncorrectable)).core 0).fault.detail =
      BitVec.ofNat 64 (windowBase + 32 * 512) ∧
    ((dmaFinish 0 (sendRead .clean)).core 0).ks.map (fun x => x.readRows.map fun y => (y.1, y.2.take 1)) =
      [[(0, [0x44#8])]] := by decide +kernel

/-- A read of row 32 joined in the second tick of the cycle: it ends one tick after it. -/
def joinedLate : State :=
  let s := bankTest (.drawRead 4)
  s.setCluster 0 { s.cluster 0 with bankQ := [], dmaBusy := [⟨32, true, 5, .clean, false, [(.drawRead 4, 6)]⟩] }

theorem test_joined_read : joinedLate.now = 5 ∧ ((dmaFinish 0 joinedLate).cluster 0).dmaBusy =
      [⟨32, true, 5, .clean, true, [(.drawRead 4, 6)]⟩] ∧ (dmaFinish 0 joinedLate).pkts.map (·.kind) = [.readReq] ∧
    (dmaFinish 0 ({ joinedLate with now := 6 })).pkts.map (·.kind) = [.readRsp] := by decide +kernel

/-- Transfer 9 has one row left, and core 0 an entry of it. -/
def lastRow (done : Bool) : State :=
  let s := arrivalTest .writeAck []
  { s with xfers := [{ transfer .wbackDram with done := [1] }], cores := [(0, { dma := [⟨9, 3, done⟩] })] }

theorem test_transfers_complete : (lastRow false).delivered (packetTo0 .writeAck (windowBase + 1024)) = true ∧
    (after (.wbackAckArrival 4) (lastRow false)).xfers = [] ∧
    ((after (.wbackAckArrival 4) (lastRow false)).core 0).dma = [⟨9, 3, true⟩] ∧
    ((after (.dmaEntryRelease 0 9) (lastRow true)).core 0).dma = [] ∧
    (after (.dmaEntryRelease 0 9) (lastRow false)).cores = (lastRow false).cores := by decide +kernel

/-! ### KNEAD and Braid -/

/-- KSEND of one row from link 1, or from ring 1, to cluster 5 of this module, with tag 6; KRECV of two rows from module 0 with
tag 7 into ring 2. -/
def ksendCmd (slot : Bool) : Cmd :=
  cmdOf 1 6 (2 ^ 84 + 2 ^ 74 + 2 ^ 66 + (if slot then 2 ^ 50 else 0) + 5 * 2 ^ 32 + 6 * 2 ^ 20)
def krecvCmd : Cmd := cmdOf 2 6 (2 * 2 ^ 74 + 2 * 2 ^ 66 + 7 * 2 ^ 29 + 3)

/-- The module has index 0, and cluster 0 has such open receives. -/
def kneadTest (cmd : Cmd) (rs : List KRecv) : State :=
  { ringTest .knead cmd with
    fab := { index := some 0 }
    clusters := [(0, { rings := [(1, fifoRing), (2, residentRing)], krecvs := rs })] }

/-- An open receive of core 0 from module 0 with tag 7, with this due tick. -/
def openRecv (due : Nat) : KRecv := ⟨6, 0, 0, 7, [64, 65], due, [], 0, 0⟩

theorem test_knead_commands :
    comesUp 0 .knead (accTest (ksendCmd true)) 1 [1] [] (kneadTest (ksendCmd true) []) ∧ ksSrc (ksendCmd true) = true ∧
    sendUsed ((kneadTest (ksendCmd true) []).core 0) + 1 ≤ 16 ∧ ksSrc (ksendCmd false) = false ∧
    comesUp 0 .knead (accTest (ksendCmd false)) 1 [] [] (kneadTest (ksendCmd false) []) ∧
    comesUp 0 .knead (accTest krecvCmd) 2 [] [] (kneadTest krecvCmd []) ∧
    comesUp 0 .knead (accTest krecvCmd) 2 [] [] (kneadTest krecvCmd [{ openRecv 0 with cmd := krecvCmd }]) ∧
    ((after (.ksend 0) (kneadTest (ksendCmd true) [])).core 0).ks.map (fun y => (y.dest, y.dcluster, y.tag, y.asked)) =
      [([0], 5, 6, 0)] ∧
    ((after (.ksend 0) (kneadTest (ksendCmd false) [])).cluster 0).bankQ.map (·.row) = [32] ∧
    ((after (.krecv 0) (kneadTest krecvCmd [{ openRecv 0 with cmd := krecvCmd }])).stq 0 .knead).acc =
      [{ accTest krecvCmd with stage := .open }] ∧
    ((after (.krecv 0) (kneadTest krecvCmd [])).stq 0 .knead).acc = [{ accTest krecvCmd with stage := .running 0 }] := by
  unfold comesUp; decide +kernel

/-- A core whose bundle holds a SETMODE, at an ISSUER of the KRECV in registers s1 and s2, with such open receives. -/
def receiveTest (rs : List KRecv) : State :=
  holding (.issuer 0 always false 1 2) { kneadTest krecvCmd rs with
    cores := [(0, runningCore { regs2 (krecvCmd.extractLsb' 64 64) (krecvCmd.extractLsb' 0 64) with
      pc := 4, bundle := [⟨0, true, some (cmdOf 1 2 1)⟩] })] }

theorem test_receive_comes (rs : List KRecv) (h : rs = [] ∨ rs = [openRecv 0]) :
    bundleComes 0 (.issuer 0 always false 1 2) [⟨0, true, some (cmdOf 1 2 1)⟩, ⟨1, true, some krecvCmd⟩] (receiveTest rs)
      (receiveTest rs) := by
  rcases h with rfl | rfl <;>
    exact .inl ⟨always, ⟨1, true, some krecvCmd⟩, ⟨by decide +kernel, by decide +kernel, by decide +kernel, by decide +kernel,
      .inl ⟨rfl,
      ⟨_, rfl, by decide +kernel, by decide +kernel, .inr ⟨1, 2, rfl, by decide +kernel, by decide +kernel⟩⟩, rfl⟩⟩,
        by decide +kernel⟩

theorem test_knead_receive : let items : List BundleItem := [⟨0, true, some (cmdOf 1 2 1)⟩, ⟨1, true, some krecvCmd⟩]
    bundleNamed items 6 = [(krecvCmd, 1)] ∧ cmdOpcode krecvCmd = 2 ∧ cmdError (receiveTest []) 0 krecvCmd = none ∧
    cmdError (receiveTest [openRecv 0]) 0 krecvCmd = none ∧ cmdError (receiveTest []) 0 (cmdOf 1 2 1) = none ∧
    (∀ st ∈ [Station.fetch, .matrix, .vector, .sparse, .store, .knead], (bundleNamed items (stCode st).toNat).length ≤ 1 ∧
      (((receiveTest []).stq 0 st).outstanding 0).length < 4) ∧ landedFit 0 (receiveTest []) ∧
    engineClear 0 [64, 65] (receiveTest []) ∧ (receiveTest []).fab.landed = [] ∧
    okOf (residentRing.append 0 false 0 2) = some (0, { residentRing with tail := 2 }) ∧
    ((receiveTest []).cluster 0).match' 0 7 = none ∧ (((receiveTest [openRecv 0]).cluster 0).match' 0 7).isSome ∧
    ((after (.issuer 0 always false 1 2) (receiveTest [])).cluster 0).krecvs.map (fun r => (r.rowsNo, r.due, r.pcw)) =
      [([64, 65], 24, 1)] ∧
    ((after (.issuer 0 always false 1 2) (receiveTest [])).stq 0 .matrix).acc.map (·.pcw) = [0] ∧
    ((after (.issuer 0 always false 1 2) (receiveTest [])).cluster 0).pend.map (·.row) = [64, 65] ∧
    ((after (.issuer 0 always false 1 2) (receiveTest [openRecv 0])).core 0).fault.detail = 3 * 2 ^ 56 + 7 := by
  unfold landedFit engineClear; decide +kernel

/-- A KSEND of core 0 of one row that has been read, to module `m`; a Knead row of two, or of `n`, that has reached cluster 0; a
row that has landed. -/
def rowTest (m n due : Nat) : State :=
  { kneadTest 0 [openRecv due] with
    cores := [(0, { ks := [{ id := 3, ring := none, rowsNo := [], start := 0, dest := [m], dcluster := 5, tag := 6, n := 1, asked := 1
                             readRows := [(0, [0x66#8])] }] })]
    ports := [(0, { credits := 2 })], now := 20
    pkts := [{ packetTo0 .kneadRow 0 with tag := 7, rows := n }]
    fab := { index := some 0, nextId := 9, landed := [⟨8, .router 0, 0, 7, 1, 2, 0, [0x55#8], 0, false, false⟩] } }

/-- The row has landed at a Lattice port instead. -/
def portRow : State :=
  let s := rowTest 0 2 0
  { s with fab := { s.fab with landed := s.fab.landed.map fun l => { l with place := .port 3 } }, pkts := [] }

theorem test_knead_rows : (rowTest 0 2 0).portTo 0 0 = none ∧ routerLand (rowTest 0 2 0) 5 < 128 ∧
  (rowTest 1 2 0).portTo 1 0 = some 0 ∧
    (rowTest 2 2 0).portTo 2 0 = some 2 ∧ ((rowTest 2 2 0).port 2).credits = 0 ∧
    (rowTest 0 2 0).delivered { packetTo0 .kneadRow 0 with tag := 7, rows := 2 } = true ∧
    (rowTest 0 2 0).fab.landed.all (fun l => l.id < 9 && l.rows == 2) = true ∧
    (after (.ksendRowAccept 0 0) (rowTest 0 2 0)).pkts.length = 2 ∧
    ((after (.ksendRowAccept 0 1) (rowTest 1 2 0)).port 0).credits = 1 ∧
    (after (.ksendRowAccept 0 2) (rowTest 2 2 0)).pkts = (rowTest 2 2 0).pkts ∧
    (after (.kneadRowArrival 4) (rowTest 0 2 0)).fab.landed.map (·.id) = [8, 9] ∧
    (after (.kneadRowArrival 4) (rowTest 0 3 0)).fab.landed.map (·.id) = [8] ∧
    ((after (.kneadRowArrival 4) (rowTest 0 3 0)).core 0).fault.detail = 3 * 2 ^ 56 + 7 ∧
    ((after (.landingRowWrite 8) (rowTest 0 2 12)).cluster 0).bankQ = [⟨65, 20, .landing 8⟩] ∧
    (after (.landingRowWrite 8) portRow).pkts.map (fun z => (z.kind, z.dst, z.row)) = [(.landRow, 0, 65)] ∧
    (after (.landingRowWrite 8) (rowTest 0 2 13)).clusters = (rowTest 0 2 13).clusters := by decide +kernel

/-- Core 0 has this Braid state; core 1 is its next. -/
def braidTest (st : Station) (cmd : Cmd) (b : Braid) : State :=
  stationTest st cmd { braid := b, slotMem := [(0, 0x77#8)] }

/-- LOADB of E2M1 into array 0, with forwarding or without. -/
def loadbCmd (fwd : Bool) : Cmd := cmdOf 3 2 (2 ^ 76 + 7 * 2 ^ 64 + if fwd then 2 ^ 63 else 0)
def binjCmd : Cmd := cmdOf 3 6 (2 ^ 84 + 7 * 2 ^ 76)

theorem test_braid : comesUp 0 .knead (accTest binjCmd) 3 [1] [] (braidTest .knead binjCmd {}) ∧ braidFree {} 0 ≠ 0 ∧
    comesUp 0 .matrix (accTest (loadbCmd true)) 3 [] [] (braidTest .matrix (loadbCmd true) {}) ∧
    (braidTest .matrix 0 {}).braidNext 0 = 1 ∧ ({ missed := true } : Braid).held = true ∧
    ((after (.binj 0) (braidTest .knead binjCmd {})).core 0).braid.buf.map (fun x => (x.data.take 1, x.arrived)) = [([0x77#8], 2)] ∧
    (((after (.loadb 0) (braidTest .matrix (loadbCmd false) { buf := [⟨[0x21#8], 0⟩] })).core 0).mx.array 0).p1.take 2 = [1, 2] ∧
    ((after (.loadb 0) (braidTest .matrix (loadbCmd true) { buf := [⟨[0x21#8], 0⟩] })).core 1).braid.inbound =
      [(3, [0x21#8], false)] ∧
    (after (.loadb 0) (braidTest .matrix (loadbCmd true) { missed := true })).frozen 0 = true ∧
    ((after (.braidTileArrival 0) (braidTest .matrix 0 { inbound := [(0, [0x21#8], false)] })).core 0).braid.buf =
      [⟨[0x21#8], 0⟩] ∧
    ((after (.braidForward 0) (braidTest .matrix 0 { forward := [([0x21#8], 0, 0)] })).core 1).braid.inbound =
      [(3, [0x21#8], false)] := by unfold comesUp; decide +kernel

/-- A LOADB with FWD whose next core has no place keeps its tile behind those it keeps; a tile from the ring arrives before the one
that BINJ put there for a later tick (R298–R300). -/
theorem test_braid_waits :
    let tile : BraidTile := ⟨[0x21#8], 0⟩
    let full : Braid := { buf := [tile, tile] }
    let s := braidTest .matrix (loadbCmd true) { buf := [tile] }
    let t := s.setCore 1 { s.core 1 with braid := full }
    braidFree full 0 = 0 ∧ (t.braidNext 0) = 1 ∧ mxGauss (loadbCmd true) = true ∧
    ((after (.loadb 0) t).core 0).braid.forward.map (·.1) = [[0x21#8]] ∧ ((after (.loadb 0) t).core 1).braid.missed = true ∧
    ((after (.loadb 0) (braidTest .matrix (loadbCmd true) { buf := [tile], forward := [([5#8], 0, 0)] })).core 0).braid.forward.map
      (·.1) = [[5#8], [0x21#8]] ∧
    ((after (.braidTileArrival 0) (braidTest .matrix 0 { buf := [⟨[7#8], 2⟩], inbound := [(0, [0x21#8],
      false)] })).core 0).braid.buf =
      [⟨[0x21#8], 0⟩, ⟨[7#8], 2⟩] := by decide +kernel

/-! ### Mesh and stacks -/

/-- A packet of core 0 on its way to this end, with such routers before it, and the same flow's earlier packet, if any. -/
def flying (kind : PktKind) (path : List Nat) (dst : MeshEnd) : Pkt :=
  { packetTo0 kind 512 with
    path := path, dstEnd := dst
    lat := some (3, { epoch := 0, context := 0, src := 0, dst := 1, dcluster := 0, tag := 0, row := 0, rows := 0
                      mismatch := false }) }
def meshTest (kind : PktKind) (path : List Nat) (dst : MeshEnd) (earlier : List Pkt) : State :=
  { ringTest .fetch 0 with pkts := earlier ++ [flying kind path dst] }
def ahead : Pkt := { packetTo0 .readReq 512 with id := 2, path := [9, 7, 8] }

/-- A message of core 0 for a full ring stands on the link from router 6 to router 7. -/
def fullRing : State :=
  let s := messageTest 7 [] none (.send 2 .travelling)
  s.setCore 0 { s.core 0 with rx := [(1, { cfg := 0x8000000000400008, tail := 7, msgs := [(7, false, 0)] })] }
def blockedPath : State :=
  { fullRing with
    pkts := [{ packetTo0 .ctl 0 with id := 9, src := 6, dst := 7, path := [] }, { flying .ctl [7,
      8] .cluster with place := some 6 }] }

theorem test_mesh_packets :
    ((meshTest .readReq [7, 8] .cluster []).pkt 4).map (·.path) = some [7, 8] ∧
    (meshTest .readReq [7, 8] .cluster []).flowBlocked (flying .readReq [7, 8] .cluster) = false ∧
    (meshTest .readReq [7, 8] .cluster [ahead]).flowBlocked (flying .readReq [7, 8] .cluster) = true ∧
    (meshTest .readReq [7, 8] .cluster []).pathHeld (meshTest .readReq [7, 8] .cluster []).msgRoom
      (flying .readReq [7, 8] .cluster) 7 = false ∧
    blockedPath.pathHeld blockedPath.msgRoom { flying .ctl [7, 8] .cluster with place := some 6 } 7 = true ∧
    (meshTest .writeRow [7, 8] .cluster []).portsOpen 512 ((flying .writeRow [7, 8] .cluster).ports 7 false) = true ∧
    (after (.routerPacketArrival 4 .clean) (meshTest .readReq [7, 8] .cluster [])).pkts.map (fun x => (x.path, x.place, x.ready)) =
      [([8], some 7, 2)] ∧
    (after (.routerPacketArrival 4 .clean) (meshTest .readReq [5, 6] .cluster [])).pkts.map (·.ready) = [6] ∧
    ((after (.routerPacketArrival 4 .clean) (meshTest .readReq [7] .stack [])).stack (stackOf 512)).reqs = [4] ∧
    ((after (.routerPacketArrival 4 .clean) (meshTest .kneadRow [7] .lattice [])).port 3).queue.length = 1 ∧
    mget (after (.routerPacketArrival 4 .corrected) (meshTest .readReq [7, 8] .cluster [])).routers 7 {} = { corr := 1 } ∧
    ((after (.routerPacketArrival 4 .uncorrectable) (meshTest .readReq [7, 8] .cluster [])).core 0).fault.code = 0x0C ∧
    (after (.routerPacketArrival 4 .clean) (meshTest .readReq [7, 8] .cluster [ahead])).pkts = (meshTest .readReq [7,
      8] .cluster [ahead]).pkts ∧
    (after (.routerPacketArrival 4 .clean) blockedPath).pkts = blockedPath.pkts := by decide +kernel

/-- A request of this kind waits at stack 0; row 512 holds a byte. -/
def stackTest (kind : PktKind) (x : Stack) : State :=
  { meshTest kind [] .stack [] with mem := [(512, 0x11#8)], drams := [(0, { x with reqs := [4] })], now := 9 }

theorem test_stack_requests : ((stackTest .readReq {}).nextReq 0).isSome = true ∧
  (stackTest .readReq {}).portsOpen 512 [(1536, 3750)] = true ∧
    memRead (after (.stackRequest 0 .clean) (stackTest .writeRow {})).mem 512 = 0x33#8 ∧
    (after (.stackRequest 0 .clean) (stackTest .readReq {})).pkts.map (fun z => (z.kind, z.data.take 1, z.dst)) =
      [(.readRsp, [0x11#8], 1)] ∧
    ((after (.stackRequest 0 .corrected) (stackTest .readReq {})).stack 0).addr = 512 ∧
    ((after (.stackRequest 0 .uncorrectable) (stackTest .readReq {})).core 0).fault.detail = 512 ∧
    (after (.stackRequest 0 .clean) (stackTest .readReq { refresh := 10 })).pkts = (stackTest .readReq { refresh := 10 }).pkts := by
  decide +kernel

/-- Stack 0 powered and trained; with a context running whose binary has one maintenance slot, or with none. -/
def maintTest (running : Bool) (x : Stack) : State :=
  let m : MaintSlot := { mask := 1, knead := false, period := 2, residue := 0, start := 10, length := 20, declared := 0 }
  { ctxs := if running then [(0, { st := .running, w := 4, bin := { maint := [m] } })] else []
    drams := [(0, { x with powered := true, trained := true })], now := 15 }

theorem test_stacks_maintained : (maintTest true {}).cur.isSome = true ∧ (maintTest true {}).curCtx.bin.maint.length = 1 ∧
    (maintTest true {}).proof.phaseStart + 10 ≤ 15 ∧ (maintTest false {}).cur = none ∧
    ((after (.dramRefresh 0) (maintTest false {})).stack 0).refresh = 16 ∧
    ((after (.maintSlotOpen 0) (maintTest true {})).stack 0).slots = [(0, 30)] ∧
    ((after (.maintSlotClose 0) (maintTest true { slots := [(0, 15)], slotAt := 5 })).stack 0).pos = 37376 ∧
    ((after (.maintSlotClose 0) (maintTest true { slots := [(0, 15), (1, 40)], slotAt := 5 })).stack 0).slots = [(1, 40)] ∧
    ((after (.backgroundScrub 0 .corrected) (maintTest false {})).stack 0).corr = 1 ∧
    ((after (.backgroundScrub 0 .clean) (maintTest false { pos := 85899345920 - 512 })).stack 0).passes = 1 ∧
    (maintTest false {}).portsOpen 32768 [(1560, 3750)] = true ∧
    ((after (.backgroundScrub 0 .uncorrectable) (maintTest true { slots := [(0, 30)], slotAt := 5 })).stack 0).uncorr = 1 ∧
    (after (.backgroundScrub 0 .clean) (maintTest true {})).drams = (maintTest true {}).drams := by decide +kernel

/-- A slot's first tick covers the rows from 0 to 3749: row 1 is the next, and row 8 begins beyond it. -/
theorem test_slot_rows :
    let x : Stack := { slots := [(0, 30)], slotAt := 15 }
    let t := fun n => ((after (.backgroundScrub 0 .corrected) (maintTest true { x with seen := n })).stack 0)
    (maintTest true x).now = 15 ∧ ((maintTest true x).stack 0).selfRef = false ∧ (t 512).addr = addrOf 0 512 ∧ (t 512).seen = 1024 ∧
    (t 512).corr = 1 ∧ (t 4096).corr = 0 ∧
    ((after (.maintSlotClose 0) (maintTest true
      { x with slots := [(0, 15)], slotAt := 5, pos := 85899345920 - 512 })).stack 0).passes = 1 := by decide +kernel

/-- A message of core 0 that stands before a full ring since tick 0, and a signal of it that has not left its first router. -/
def stallTest (now : Nat) : State :=
  { fullRing with
    pkts := [{ packetTo0 .ctl 0 with id := 9, src := 6, dst := 7, path := [] }], now := now }
def stalledSignal : State :=
  { lateSignal with now := 65536 }

theorem test_watchdog : (stalledPkt (stallTest 65536) 0).map (·.id) = some 9 ∧ stalledPkt (stallTest 65535) 0 = none ∧
    ((after (.progressWatchdog 0) (stallTest 65536)).core 0).recov = { valid := true, count := 1, code := 0x10, atT := 65536 } ∧
    (after (.progressWatchdog 0) (stallTest 65536)).pkts.map (·.watched) = [true] ∧
    (after (.progressWatchdog 0) stalledSignal).pkts.map (·.watched) = [true] ∧
    (after (.progressWatchdog 0) (stallTest 65535)).cores = (stallTest 65535).cores := by decide +kernel

/-! ### Holds -/

/-- An episode that began in tick 100 with this raiser; cluster 1's island has the given freeze, if any. -/
def holdTest (r : Raiser) (since : Option Nat) (now : Nat) : State :=
  let s := seqTest {}
  { s with
    now := now
    hold := { eps := [{ u0 := 100, raisers := [r], froze := match since with | some t => [(0, t)] | none => [] }]
              islands := [(0, { since := since })] } }

/-- A raise of cluster 5 in tick 100 that has not cleared, or has in tick 105. -/
def raiser5 (clear : Option Nat) : Raiser := { who := .island 5, cause := 4, s := 100, clear := clear }

theorem test_holds : (arriving (holdTest (raiser5 none) none 120) 0).isSome = true ∧
    (holdTest (raiser5 none) none 120).frozen 0 = false ∧ arriving (holdTest (raiser5 none) none 115) 0 = none ∧
    (episodeOf (holdTest (raiser5 (some 105)) (some 116) 154) 0).isSome = true ∧
    ((after (.holdFreeze 0) (holdTest (raiser5 none) none 120)).island 0).since = some 116 ∧
    (after (.holdThaw 0) (holdTest (raiser5 none) (some 116) 999)).hold = (holdTest (raiser5 none) (some 116) 999).hold ∧
    (after (.holdThaw 0) (holdTest (raiser5 (some 105)) (some 116) 153)).hold = (holdTest (raiser5 (some 105)) (some 116) 153).hold ∧
    (after (.holdThaw 0) (holdTest (raiser5 (some 105)) (some 116) 154)).island 0 = { frozen := 38 } ∧
    (after (.holdThaw 0) (holdTest (raiser5 (some 105)) (some 116) 154)).ticks 0 = 116 := by decide +kernel

theorem test_hold_limit : (holdTest (raiser5 none) (some 116) 67108964).curCtx.st = .running ∧
    ((holdTest (raiser5 none) (some 116) 67108964).hold.eps.find? fun e =>
      e.live && !e.limited && decide (67108864 ≤ e.counted 67108964)).isSome = true ∧
    ((after .holdLimit (holdTest (raiser5 none) (some 116) 67108964)).core 0).fault.code = 0x11 ∧
    (after .holdLimit (holdTest (raiser5 none) (some 116) 67108964)).hold.eps.map (·.limited) = [true] ∧
    ((after .holdLimit (holdTest (raiser5 none) (some 116) 67108963)).core 0).fault.valid = false := by decide +kernel

/-- Cluster 0 has a budget of 10, and has been charged so many tokens. -/
def budgetTest (tokens : Nat) (drawn : List (Option Nat)) (rs : List Raiser) : State :=
  let s := seqTest {}
  { s with
    ctxs := [(0, { st := .running, bin := { budgets := [(0, 10)] } })], now := 20
    meter := { charges := [⟨10, some 0, tokens, some 0, 1, 0, 0⟩], drawn := drawn }
    hold := { eps := if rs.isEmpty then [] else [{ u0 := 5, raisers := rs }] } }

theorem test_budget_holds : windowSum (budgetTest 2561 [] []) (some 0) = 2561 ∧ (budgetTest 2561 [] []).cur.isSome = true ∧
    ((after (.powerOverdraw (some 0)) (budgetTest 2561 [] [])).hold.eps.flatMap Episode.raisers).map (·.who) = [.budget (some 0)] ∧
    (after (.powerOverdraw (some 0)) (budgetTest 2560 [] [])).hold = (budgetTest 2560 [] []).hold ∧
    (after (.overdrawCauseClear (some 0)) (budgetTest 1280 [some 0]
      [{ who := .budget (some 0), cause := 6, s := 21 }])).hold.eps.flatMap (fun e => e.raisers.map (·.clear)) = [some 20] ∧
    (after (.overdrawCauseClear (some 0)) (budgetTest 1281 [some 0] [])).meter = (budgetTest 1281 [some 0] []).meter ∧
    (after .thermalCauseClear { budgetTest 0 [] [{ who := .mgmt, cause := 7, s := 21 }] with now := 49172 }).hold.eps.flatMap
      (fun e => e.raisers.map (·.clear)) = [some 49172] := by decide +kernel

/-! ### Lattice -/

/-- A header from module 1 for module `m` in context 0 with epoch `e`. -/
def latHdr (m : BitVec 10) (e : BitVec 32) : LatHdr :=
  { epoch := e, context := 0, src := 1, dst := m, dcluster := 0, tag := 7, row := 0, rows := 2, mismatch := false
    vid := 5, amount1 := 2, ptag := 9, scope := 2, orWord := 0x10, andWord := 0xFF }

/-- Module 0 of a job of modules 0 and 1, in epoch 3, with port 0 up. -/
def latTest (q : Port) : State :=
  let s := syncTest moduleCell .none
  { s with ctxs := [(0, { st := .running, bin := { members := [0, 1] } })], now := 1000, fab := { index := some 0, epoch := 3 }
           ports := [(0, { q with st := .up })] }

theorem test_lattice_packets : portHears (latTest {}) 0 = true ∧ (latTest {}).portTo 2 0 = some 2 ∧ (latTest {}).moduleIndex = 0 ∧
    (latTest {}).cur = some 0 ∧ xlValid ((latTest {}).xlatEntry 5) = true ∧ xlModule (latTest {}) ((latTest {}).xlatEntry 5) = 0 ∧
    ((after (.latticeRow 0 (latHdr 2 3) []) (latTest {})).port 0).transit = [⟨2, .row (latHdr 2 3) [], 1004⟩] ∧
    ((after (.latticeSig 0 (latHdr 2 3)) (latTest {})).port 0).transit = [⟨2, .sig (latHdr 2 3), 1004⟩] ∧
      (latTest {}).landUsed 0 < 128 ∧
    (after (.latticeRow 0 { latHdr 0 3 with context := 1 } []) (latTest {})).fab.wrongCtx = 1 ∧
    (after (.latticeRow 0 (latHdr 0 3) [0x12#8]) (latTest {})).fab.landed.map (fun l => (l.srcmod, l.data.length)) = [(1, 512)] ∧
    (after (.latticeSig 0 { latHdr 0 3 with vid := 6 }) (latTest {})).sync.dropped = 1 ∧
    (after (.latticeSig 0 (latHdr 0 3)) (latTest {})).sync.sigs.map (fun x => (x.cell, x.amount)) = [(.module 0, 3)] ∧
    ((after (.latticeRow 0 (latHdr 0 2) []) (latTest {})).port 0).staleN = 1 ∧
    ((after (.latticeSig 0 (latHdr 0 4)) (latTest {})).core 0).fault.detail = 3 := by decide +kernel

theorem test_lattice_proofs : (latTest {}).trayModules 0 = [0, 1] ∧ (latTest {}).trayRoot 0 = 0 ∧
    (after (.latticeProofArrive 0 (latHdr 0 3)) (latTest {})).proof.trayIn.length = 1 ∧
    ((after (.latticeProofArrive 0 (latHdr 0 3)) { latTest {} with
      proof := { trayIn := [⟨0, 2, 2, false, 9, 0x20, 0x0F, 4, 1⟩] } }).proof.fab.map fun r => (r.time, r.orW, r.andW)) =
        some (1924, 0x30, 0x0F) ∧
    ((after (.latticeProofRelease 0 (latHdr 1 3)) { latTest {} with fab := { index := some 1, epoch := 3 } }).proof.fab.map
      fun r => (r.time, r.tag)) = some (1920, 9) := by decide +kernel

theorem test_lattice_link : ((latTest {}).port 0).st = .up ∧
    ((after (.latticeAck 0 4 200) (latTest { sent := [⟨4, 0, []⟩, ⟨5, 0, []⟩] })).port 0).sent = [⟨5, 0, []⟩] ∧
    ((after (.latticeAck 0 4 200) (latTest { sent := [⟨4, 0, []⟩, ⟨5, 0, []⟩] })).port 0).credits = 128 ∧
    ((after (.latticeNak 0 5) (latTest { sent := [⟨4, 0, []⟩, ⟨5, 0, []⟩] })).port 0).again.map (·.seq) = [5] ∧
    ((after (.latticeNak 0 5) (latTest { retryOf := 5, retries := 7 })).port 0).st = .down ∧
    ((after (.latticeNak 0 5) (latTest { retryOf := 5, retries := 6 })).port 0).st = .replay ∧
    ((after (.latticeCodewordUncorrectable 0) (latTest { rxSeq := 8 })).port 0).waitFor = some 8 ∧
    ((after (.latticeReplayFrame 0 8) (latTest { waitFor := some 8, nakAt := 960 })).port 0).maxTicks = 40 ∧
    ((after (.latticeIdle 0) (latTest {})).port 0).st = .up ∧ (after (.latticeStale 0 9) (latTest {})).fab.quar = true ∧
    (after (.latticeIdle 1) (latTest {})).ports = (latTest {}).ports := by decide +kernel

/-- A port that waits for a REPLAY frame hears no other block; it counts the frames it lost, and the end of a retry is with the last
of them, or with the last frame sent again. -/
theorem test_lattice_retries :
    let waits : Port := { waitFor := some 4, lost := 3, nakAt := 990 }
    ((after (.latticeAck 0 4 200) (latTest { waits with sent := [⟨4, 0, []⟩] })).port 0).sent.length = 1 ∧
    ((after (.latticeNak 0 5) (latTest waits)).port 0).retries = 0 ∧
    ((after (.latticeReplayFrame 0 4) (latTest waits)).port 0).replays = 3 ∧
    ((after (.latticeReplayFrame 0 5) (latTest waits)).port 0).waitFor = some 4 ∧
    ((after (.latticeAck 0 3 0) (latTest { sent := [⟨4, 0, []⟩], retries := 5 })).port 0).retries = 5 ∧
    ((after (.latticeAck 0 4 0) (latTest { sent := [⟨4, 0, []⟩], retries := 5, again := [⟨4, 0, []⟩] })).port 0).retries = 0 ∧
    ((after (.latticeIdle 0) { latTest {} with ports := [(0, { st := .replay, again := [⟨4, 0, []⟩] })] }).port 0).st = .replay ∧
    ((after (.latticeIdle 0) { latTest {} with ports := [(0, { st := .replay })] }).port 0).st = .up ∧
    ((after (.latticeAck 0 4 0) { latTest {} with ports := [(0, { st := .replay, sent := [⟨4, 0, []⟩], again := [⟨4, 0,
      []⟩] })] }).port
      0).st = .up := by decide +kernel

/-- A port in training; R311 joins port 0 of slot 0 to port 12 of slot 1. -/
def trainTest : State := { latTest {} with ports := [(0, { st := .training })] }

theorem test_ports_train : partner trainTest 0 = (1, 12) ∧
    ((after (.portTrainingComplete 0 ⟨0xFF, 1, 12, true, 9⟩) trainTest).port 0).st = .up ∧
    ((after (.portTrainingComplete 0 ⟨0xFF, 1, 13, true, 9⟩) trainTest).port 0).st = .miswired ∧
    ((after (.portTrainingComplete 0 ⟨0xFF, 1, 12, false, 9⟩) trainTest).port 0).st = .freqErr ∧
    ((after (.portTrainingComplete 0 ⟨0x7F, 1, 12, true, 9⟩) trainTest).port 0).st = .down ∧
    (after (.portTrainingComplete 0 ⟨0xFF, 1, 12, true, 9⟩) (latTest {})).ports = (latTest {}).ports ∧
    ((after (.portLaneLoss 0 0x7F) (latTest {})).port 0).st = .down := by decide +kernel

/-! ### Records, monitors, the host link -/

/-- A module whose core 0 has two trace rows ready, in a trace of this kind (2 by command, 1 planned) with share 8. -/
def traceTest (kind : BitVec 2) (phase0 : Nat) : State :=
  let s := withCore { runningCore {} with trc := { ready := [[0x11#8], [0x22#8]] } }
  let s1 : State := { s with cores := s.cores.map fun e => (e.1, { e.2 with seq := { e.2.seq with phase0 := phase0 } }) }
  { s1 with obs := { trace := kind, share := 8, traceRows := 1, traceBase := 0x4000, mode := 1, snapBase := 0x8000, snapSlots := 2
                     snapN := 3 } }

theorem test_records : (traceTest 2 0).sealedJob = false ∧ (traceTest 1 0).coreFrozen 0 = false ∧
    (traceTest 1 0).phase 0 % 512 = 0 ∧ (traceTest 1 5).cur = some 0 ∧
    (after (.snapshotRecordArrival [0x33#8]) (traceTest 2 0)).obs.side = [padTo 512 [0x33#8]] ∧
    (sideTick (after (.snapshotRecordArrival [0x33#8]) (traceTest 2 0))).mem = [(0x8200, 0x33#8)] ∧
    (after (.traceRowWrite 0) (traceTest 2 0)).pkts.map (fun z => (z.kind, z.addr, z.data)) = [(.writeRow, 0x4000, [0x11#8])] ∧
    ((after (.traceRowWrite 0) (traceTest 2 0)).core 0).trc.wraps = 1 ∧
    (after (.plannedTraceTurn 0) (traceTest 1 0)).pkts.map (fun z => (z.addr, z.data)) = [(0x4000, [0x11#8])] ∧
    (after (.traceRowWrite 0) (traceTest 1 0)).pkts = [] := by decide +kernel

/-- The turn after a row comes 512 ticks on; a row waits for it, unless its core is halted in a frozen island, and for the rate of the
core's write-backs. The row of a Sealed job leaves under its key. -/
theorem test_trace_turns :
    let s := after (.plannedTraceTurn 0) (traceTest 1 0)
    let late := fun n => { s with now := n }
    let halted := { late 9 with
      cores := [(0, { s.core 0 with seq := { (s.core 0).seq with st := .halted } })], hold := { islands := [(0,
        { since := some 0 })] } }
    let keyed := { traceTest 2 0 with
      ctxs := [(0, { st := .running, launch := { flags := 4 }, sec := { traceKey := some [1#8, 2#8] } })] }
    (s.core 0).trc.turnAt = 512 ∧ (s.core 0).outAt = 8 ∧ (after (.plannedTraceTurn 0) (late 511)).pkts.length = 1 ∧
    (after (.plannedTraceTurn 0) (late 512)).pkts.length = 2 ∧ halted.coreFrozen 0 = true ∧
    (after (.plannedTraceTurn 0) halted).pkts.length = 2 ∧ keyed.sealedJob = true ∧
    (after (.traceRowWrite 0) keyed).pkts.map (·.data) ≠ [[0x11#8]] ∧
    (after (.traceRowWrite 0) { traceTest 2 0 with cores := s.cores, now := 7 }).pkts = [] := by decide +kernel

/-- What was lost is reported once a row has left, in the row that is open then. -/
theorem test_trace_lost :
    let s := traceTest 2 0
    let lossy := s.setCore 0 { s.core 0 with
      trc := { (s.core 0).trc with ready := [[0x11#8]], row := [1#8], lostNow := 5, lost := 5 } }
    ((after (.traceRowWrite 0) lossy).core 0).trc.lostNow = 0 ∧ ((after (.traceRowWrite 0) lossy).core 0).trc.lost = 5 := by
  decide +kernel

theorem test_monitor_records :
    (after (.monLatch 5) { mon := { mons := [(5, { samples := 3 })] } }).mon.latch.samples = 3 ∧
    (after (.monClear 5) { mon := { mons := [(5, { samples := 3 })] } }).mon.mons = [] ∧
    (after (.monLatchClear 5) { mon := { mons := [(5, { samples := 3 })] } }).mon.latch.samples = 3 ∧
    (mget (settleTick (after (.monitorLevelSample [7]) { mon := { eccSeen := 2 } })).mon.mons 56 {}).last = 2 ∧
    (mget (settleTick (after (.monitorLevelSample [7]) {})).mon.mons 0 {}).last = 7 ∧
    (after (.monitorLevelSample [7]) { now := 1 }).mon = {} ∧
    (mget (settleTick (after .monitorWindowSample {})).mon.mons 47 {}).samples = 1 := by decide +kernel

/-- A state whose host link is this. -/
def linkTest (h : HostSt) : State := { host := h, mgmt := { aux := true } }

theorem test_host_link :
    (after (.hostLinkAck 9 0 0) (linkTest { link := .replay, retries := 3 })).host = { link := .up, acked := 9, retries := 3 } ∧
    (after (.hostLinkAck 9 0 0) (linkTest { link := .replay, retries := 3, frames := [⟨9, 0, []⟩] })).host.retries = 0 ∧
    (after (.hostLinkNak 9) (linkTest { link := .up, retryOf := 9, retries := 7 })).host.link = .down ∧
    (after (.hostLinkNak 9) (linkTest { link := .up, retryOf := 9, retries := 6 })).host.link = .replay ∧
    (after .hostCodewordUncorrectable (linkTest { link := .up, rxSeq := 4 })).host.waitFor = some 4 ∧
    (after (.hostReplayFrame 4) (linkTest { link := .replay, rxSeq := 4, waitFor := some 4 })).host = { link := .up, rxSeq := 4 } ∧
    (after (.hostLinkRetrain true) { linkTest { link := .down } with now := 16000000 }).host.lanes = 15 ∧
    (after (.hostLinkRetrain true) (linkTest { link := .down })).host = { link := .down } ∧
    (after .hostFillFrame (linkTest { link := .up })).host = { link := .up, fillSeen := true } ∧
    (after (.hostLinkRetrain false) (linkTest { link := .down })).host.link = .down ∧
    (after (.hostLinkAck 9 0 0) (linkTest { link := .down })).host = { link := .down } := by decide +kernel

/-! ### Host commands -/

/-- A command packet with this opcode, tag, context, parameters (from byte 12 on) and payload. -/
def packet (op tag ctx : Nat) (params payload : Bytes) : Bytes :=
  leBytes 2 op ++ leBytes 2 tag ++ leBytes 1 ctx ++ [0#8, 0#8, 0#8] ++ leBytes 4 payload.length ++ padTo 20 params ++ payload

/-- The command of such a packet, with tag 0x1234 and context 1, as it waits in its queue. -/
def waiting (op : Nat) (params payload : Bytes) : Pending :=
  { iface := .renkai, hdr := (packet op 0x1234 1 params payload).take 32, payload := payload, atT := 0, plain := some payload }

/-- A powered module with this command at the head of its queue. -/
def hostTest (p : Pending) (s : State) : State :=
  { s with
    host := { link := .up, tags := [(p.iface, hTag p.hdr)], control := if hOp p.hdr / 256 = 3 then [] else [p]
              bulk := if hOp p.hdr / 256 = 3 then [p] else [] }
    mgmt := { s.mgmt with aux := true, main := true, record := some smallRecord } }

/-- A module in this state. -/
def inState (m : ModState) : State := { mgmt := { st := m } }

/-- The status of the last reply, and its parameters. -/
def lastStatus (t : State) : Option Nat := t.host.sent.getLast?.map fun y => field y.hdr 6 1
def lastPayload (t : State) : Option Bytes := t.host.sent.getLast?.map (·.payload)

theorem test_packet_arrives : checkOne .renkai (packet 0x0102 0x1234 1 [] (List.replicate 32 7#8)) { link := .up } = true ∧
    (after (.commandPacketArrival .renkai (packet 0x0102 0x1234 1 [] (List.replicate 32 7#8)))
      (linkTest { link := .up })).host.control = [waiting 0x0102 [] (List.replicate 32 7#8)] ∧
    (after (.commandPacketArrival .renkai (packet 0x0102 0x1234 1 [] (List.replicate 32 7#8)))
      (linkTest { link := .up })).host.payCred = 65535 ∧
    checkOne .renkai (packet 0x0109 0x1234 1 [] []) { link := .up } = false ∧
    lastStatus (after (.commandPacketArrival .renkai (packet 0x0109 0x1234 1 [] [])) (linkTest { link := .up })) = some 4 ∧
    (after (.commandPacketArrival .mgmt (packet 0x0101 0x1234 1 [] [])) (linkTest { link := .down })).host.control.length = 1 ∧
    (after (.commandPacketArrival .renkai (packet 0x0101 0x1234 1 [] [])) (linkTest { link := .down })).host = { link := .down } := by decide +kernel

/-- A context with a session, for a protected command; its flag `ENC` is bit 0 of byte 5. -/
def sessionTest : State := { ctxs := [(1, { sec := { session := some (1, 2, [0#8], [1#8]) } })] }

/-- The command with `ENC`. -/
def sealedForm (p : Pending) : Pending := { p with hdr := p.hdr.take 5 ++ [1#8] ++ p.hdr.drop 6 }

theorem test_replies : (waiting 0x0101 [] []).hdr.length = 32 ∧ (waiting 0x0101 [] []).enc = false ∧
    (reply (waiting 0x0101 [] []) 6 [9#8] [] true (linkTest { tags := [(.renkai, 0x1234)] })).host.tags = [] ∧
    (reply (waiting 0x0101 [] []) 6 [9#8] [] true (linkTest {})).sec.deniedHost = 1 ∧
    (reply (waiting 0x0101 [] []) 4 [9#8] [5#8] true (linkTest {})).host.bad = 1 ∧
    (reply (waiting 0x0101 [] []) 6 [9#8] [] true (linkTest {})).host.sent.map (·.hdr) =
      [[0x01#8, 0x01#8, 0x34#8, 0x12#8, 1#8, 0x80#8, 6#8, 0#8, 0#8, 0#8, 0#8, 0#8, 9#8] ++ List.replicate 19 0#8] ∧
    (sealedForm (waiting 0x0101 [] [])).enc = true ∧
    ((reply (sealedForm (waiting 0x0101 [] [])) 0 [] [] true sessionTest).ctx 1).sec.session = some (1, 3, [0#8], [1#8]) := by
  decide +kernel

/-- What a query leaves, with the hypotheses of take-up checked. -/
def taken (p : Pending) (s : State) : Bool :=
  (queueOf (hOp p.hdr) s.host).head? == some p && s.mgmt.aux && (!barrier (hOp p.hdr) || !bulkOwed s p.num) &&
    (!p.enc || (s.optionS && (s.ctx p.ctx).sec.session.isSome)) && p.plain.isSome

theorem test_queries :
    (let p := waiting 0x0101 [] []; let s := hostTest p (inState .ready); taken p s = true ∧ plainForm p [] = true ∧
      (lastPayload (after .identify s)).map (fun b => ((b.drop 32).take 5, (b.drop 18).take 1, b.length)) =
        some ([4#8, 0#8, 0#8, 0#8, 0#8], [0xB0#8], 64)) ∧
    (let p := waiting 0x0102 [] (List.replicate 32 7#8); taken p (hostTest p {}) = true ∧ unusedZero p [] = true ∧
      lastPayload (after .echo (hostTest p {})) = some (List.replicate 32 7#8)) ∧
    (let p := waiting 0x0106 [5#8] []; taken p (hostTest p {}) = true ∧ plainForm p [(12, 1)] = true ∧
      (after .events (hostTest p {})).host.maskR = 5) ∧
    (let p := waiting 0x0207 [] []; let s := hostTest p (inState .ready); taken p s = true ∧ plainForm p [] = true ∧
      inStates [.ready] s = true ∧ lastStatus (after .ctxStatus s) = some 0) := by decide +kernel

/-- Logical core 2's block has 0x018 as IDENT: site 0 of cluster 1. -/
theorem test_reg_commands :
    (let p := waiting 0x0103 (leBytes 8 0x030010008018 ++ leBytes 4 1) []; let s := hostTest p (inState .ready)
      taken p s = true ∧ regState false p s = true ∧ regSealed false p s = false ∧ regParams false p = none ∧
        (after .regRead s).host.regJob.map (·.addrs) = some [0x030010008018] ∧
        lastPayload (regTick (after .regRead s)) = some (blockPad (leBytes 8 (2 * 2 ^ 32 + 2 ^ 24)))) ∧
    (let p := waiting 0x0104 (leBytes 8 0x030025000010 ++ leBytes 4 1) (blockPad (leBytes 8 77)); let s := hostTest p (inState .safe)
      taken p s = true ∧ regState true p s = true ∧ regSealed true p s = false ∧ regParams true p = none ∧
        lastStatus (after .regWrite s) = none ∧ lastStatus (regTick (after .regWrite s)) = some 0 ∧
        (regTick (after .regWrite s)).crumb.cursor = 77) := by decide +kernel

theorem test_status_commands :
    (let p := waiting 0x0605 (leBytes 4 5) []; let o : Op := { id := 5, iface := .mgmt, tag := 1, ctx := 0, opcode := 0x0602 }
      let s : State := { hostTest p (inState .ready) with host := { (hostTest p {}).host with ended := [{ o with state := 1 }] } }
      taken p s = true ∧ plainForm p [(12, 4)] = true ∧ namedOp p s = some { o with state := 1 } ∧
        (after .opStatus s).host.sent.map (fun y => (y.hdr.drop 12).take 2) = [[0#8, 1#8]]) ∧
    (let p := waiting 0x0704 (leBytes 4 9) []; let s : State := { hostTest p (inState .ready) with fab := { epoch := 8 } }
      taken p s = true ∧ plainForm p [(12, 4)] = true ∧ s.cur = none ∧ field p.hdr 12 4 = 9 ∧ (after .epochSet s).fab.epoch = 9) ∧
    (let p := waiting 0x0704 (leBytes 4 8) []; let s : State := { hostTest p (inState .ready) with fab := { epoch := 8 } }
      lastStatus (after .epochSet s) = some 5) ∧
    (let p := waiting 0x0703 (leBytes 4 0x80001) []; let s : State := { hostTest p (inState .ready) with ports := [(19,
      { st := .up })] }
      taken p s = true ∧ plainForm p [(12, 4)] = true ∧ s.cur = none ∧ ((after .portDisable s).port 19).st = .off) := by
  decide +kernel

theorem test_bulk_commands :
    (let p := waiting 0x0301 (leBytes 8 0x400) (padTo 512 [9#8]); let s := hostTest p (inState .ready)
      taken p s = true ∧ rekeyOp s = none ∧ bulkDenied true p 0x400 1 s = false ∧ bulkBad s 0x400 1 = none ∧
        unusedZero p [(12, 8)] = true ∧ (after .bulkWrite s).host.jobs.map (fun x => (x.addr, x.n, x.write)) = [(0x400, 1, true)]) ∧
    (let p := waiting 0x0302 (leBytes 8 0x400 ++ leBytes 4 1) []
      let s : State := { hostTest p (inState .ready) with mem := [(0x400, 9#8)] }
      taken p s = true ∧ bulkDenied false p 0x400 1 s = false ∧ bulkBad s 0x400 1 = none ∧
        plainForm p [(12, 8), (20, 4)] = true ∧ (after (.bulkRead []) s).host.jobs.map (fun x => (x.addr, x.n,
          x.write)) = [(0x400, 1, false)]) ∧
    (let p := waiting 0x0303 (leBytes 8 0x400 ++ leBytes 4 2 ++ leBytes 8 3) []; let s := hostTest p (inState .running)
      taken p s = true ∧ bulkDenied true p 0x400 2 s = false ∧ bulkBad s 0x400 2 = none ∧
        plainForm p [(12, 8), (20, 4), (24, 8)] = true ∧ (after .bulkFill s).host.jobs.map (fun x => (x.n, x.op.isSome,
          x.data.take 8)) = [(2, true, leBytes 8 3)]) ∧
    (let p := waiting 0x0401 (padTo 4 [2#8] ++ leBytes 8 0x400 ++ leBytes 8 0) []; let s := hostTest p (inState .running)
      taken p s = true ∧ s.sealedJob = false ∧ (s.ctx p.ctx).sec.sealed = false ∧ plainForm p [(12, 1), (16, 8), (24, 8)] = true ∧
        (after .traceCtl s).obs.pendTrace.map (·.on) = [false]) := by decide +kernel

/-- A BULK_READ of two rows of which one has gone out; its answer has come back; or both have. -/
def rowsTest (got : SMap Bytes) (pkts : List Pkt) : State :=
  { linkTest { link := .up
               jobs := [{ id := 7, cmd := waiting 0x0302 (leBytes 8 0x400 ++ leBytes 4 2) [], write := false, addr := 0x400, n := 2
                          gone := if got.length = 2 then 2 else 1, got := got, next := 16 }] } with
    now := 20, pkts := pkts }
def rowBack : Pkt := { packetTo0 .readRsp 0x400 with core := none, bulk := some 7, dstEnd := .host, data := [9#8] }

theorem test_bulk_rows :
    ((rowsTest [] []).host.jobs.find? fun x => decide (x.gone < x.n)).map (fun x => (x.id, x.next)) = some (7, 16) ∧
    (bulkSend (rowsTest [] [])).pkts.map (fun z => (z.kind, z.addr, z.plane, z.ready, z.dst)) =
      [(.readReq, 0x600, 1, 31, (rowsTest [] []).targetRouter (rowsTest [] []).hostRouter 0x600)] ∧
    (bulkSend (rowsTest [] [])).host.jobs.map (fun x => (x.gone, x.next)) = [(2, 36)] ∧
    (bulkSend { rowsTest [] [] with now := 15 }).pkts = [] ∧
    (rowsTest [] [rowBack]).pkts.filter (fun x => x.bulk.isSome && x.dstEnd == .host && (rowsTest [] [rowBack]).delivered x) =
      [rowBack] ∧
    (bulkBack (rowsTest [] [rowBack])).host.jobs.map (·.got) = [[(0, [9#8])]] ∧
    lastPayload (bulkDone (rowsTest [(0, padTo 512 [9#8]), (1, padTo 512 [8#8])] [])) =
      some (padTo 512 [9#8] ++ padTo 512 [8#8]) := by decide +kernel

/-- A REG_WRITE of two words of which the first is next. -/
def regJobTest (write : Bool) (addrs : List Nat) : State :=
  linkTest { regJob := some { cmd := waiting 0x0103 [] (leBytes 8 77 ++ leBytes 8 78), write := write, addrs := addrs } }

theorem test_register_words :
    (regTick (regJobTest true [0x030025000010, 0x030025000010])).host.regJob.map (fun j => (j.addrs.length, j.data.length)) =
      some (1, 8) ∧
    (regTick (regJobTest true [0x030025000010, 0x030025000010])).crumb.cursor = 77 ∧
    (regTick (regJobTest false [0x030025000010, 0x030025000010])).host.regJob.map (·.addrs.length) = some 1 ∧
    lastStatus (regTick (regJobTest false [0x030025000010])) = some 0 := by decide +kernel

/-! ### Loads and restores -/

/-- A module of one core. -/
def tiny : State := { mgmt := { st := .ready, main := true, aux := true, slotUsed := 0, record := some { smallRecord with
  enabled := [0], coreMap := [(0, 0)] } } }

/-- One directory entry. -/
def entry (kind len off : Nat) : Bytes := leBytes 2 kind ++ leBytes 2 0 ++ leBytes 4 len ++ leBytes 8 off

/-- A binary for that module: one line of code at line 2 of the local store, no rings, no entries, a budget of 5 tokens. -/
def tinyBinary (tt : Nat) : Bytes :=
  padTo 192 (padTo 64 (ascii "LBIN" ++ leBytes 2 1 ++ leBytes 2 tt ++ leBytes 8 tiny.shape.toNat ++ leBytes 4 0 ++ leBytes 4 7 ++
    leBytes 8 2320) ++ entry 1 448 192 ++ entry 2 1024 640 ++ entry 3 16 1664 ++ entry 4 16 1728 ++ entry 5 16 1792 ++
    entry 6 392 1856 ++ entry 7 16 2304) ++
  padTo 1664 (leBytes 2 tt ++ leBytes 2 0 ++ leBytes 2 2 ++ leBytes 2 3) ++ padTo 464 (leBytes 8 0 ++ leBytes 4 5)

/-- Its load block, with the save area at 1 MiB. -/
def tinyBlock : Bytes :=
  padTo 192 (padTo 64 (leBytes 8 0x10000 ++ leBytes 8 2320 ++ leBytes 8 0x100000 ++ leBytes 8 0x100000) ++ [1#8])

/-- An operation on context 1. -/
def opTest (opcode : BitVec 16) : Op := { id := 0x80000001, iface := .renkai, tag := 0x1234, ctx := 1, opcode := opcode }

/-- A module with the binary in DRAM and its load under way, or a restore from 1 MiB. -/
def loadTest (tt : Nat) : State :=
  { tiny with mem := memWrite [] 0x10000 (tinyBinary tt), host := { ops := [{ opTest 0x0201 with data := tinyBlock }] } }

theorem tiny_len : (loadBlock tinyBlock).binLen = 2320 := by decide +kernel

/-- What lies in DRAM is the binary. -/
theorem tiny_bin : binBytes (loadTest 0xB00) (loadBlock tinyBlock) = tinyBinary 0xB00 := by
  have h1 : (loadBlock tinyBlock).binAddr = 0x10000 := by decide +kernel
  have h2 : (loadBlock tinyBlock).binLen = (tinyBinary 0xB00).length := by decide +kernel
  rw [binBytes, h1, h2]
  exact memBytes_memWrite [] 0x10000 (tinyBinary 0xB00)

/-- Its sections. -/
def tinySections : List Section :=
  [⟨1, 0, padTo 448 (leBytes 2 0xB00 ++ leBytes 2 0 ++ leBytes 2 2 ++ leBytes 2 3)⟩, ⟨2, 0, padTo 1024 []⟩, ⟨3, 0, padTo 16 []⟩,
    ⟨4, 0, padTo 16 []⟩, ⟨5, 0, padTo 16 []⟩, ⟨6, 0, padTo 392 (leBytes 8 0 ++ leBytes 4 5)⟩, ⟨7, 0, padTo 16 []⟩]

theorem tiny_parse : parseBinary 2320 (tinyBinary 0xB00) = .ok tinySections := by
  have h1 : formatErrs 2320 (tinyBinary 0xB00) = [] := by decide +kernel
  have h2 : (directory (tinyBinary 0xB00)).good = tinySections := by decide +kernel
  rw [parseBinary, h1, h2]; rfl

theorem test_load_ready : ((loadTest 0xB00).op 0x80000001).map (·.opcode) = some 0x0201 ∧
    mainOff (loadTest 0xB00) = false ∧ loadable ((loadTest 0xB00).ctx 1).st = true ∧ coresFree (loadTest 0xB00) 1 = true := by
  decide +kernel

theorem tiny_checks : checkBinary (loadTest 0xB00) 1 (loadBlock tinyBlock) (tinyBinary 0xB00) tinySections = .ok () := by
  have h : (match checkBinary (loadTest 0xB00) 1 (loadBlock tinyBlock) (tinyBinary 0xB00) tinySections with
    | .ok _ => true
    | .error _ => false) = true := by decide +kernel
  generalize checkBinary _ _ _ _ _ = r at h ⊢
  cases r with
  | ok u => rfl
  | error e => cases h

/-- A load passes when each of its parts does. -/
theorem load_passes {s : State} {i : Nat} {b : LoadBlock} {d : Bytes} {xs : List Section} (hb : blockErrs s b = [])
    (hd : binBytes s b = d) (hp : parseBinary b.binLen d = .ok xs)
    (hn : saveNeed s (bitAt (field d 16 4) 0) xs ≤ b.saveLen) (hc : checkBinary s i b d xs = .ok ()) :
    (loadResult s i b).2 = .ok xs := by
  have hn' := Nat.not_lt.mpr hn
  simp [loadResult, hb, hd, hp, hn', hc]

theorem test_load_passes : (loadResult (loadTest 0xB00) 1 (loadBlock tinyBlock)).2 = .ok tinySections :=
  load_passes (by decide +kernel) tiny_bin (by rw [tiny_len]; exact tiny_parse) (by decide +kernel) tiny_checks

/-- No binary at the address (FORMAT), and a context that may not be loaded. -/
theorem test_load_fails : lastStatus (after (.operationComplete 0x80000001 .ok) { loadTest 0xB00 with mem := [] }) = some 4 ∧
    lastStatus (after (.operationComplete 0x80000001 .ok) { loadTest 0xB00 with ctxs := [(1, { st := .switched })] }) = some 3 := by
  decide +kernel

/-- A module with a save image of a context at 1 MiB, and its restore under way. -/
def restoreTest (b : BinInfo) (isSealed : Bool) (key : Word) : State :=
  { tiny with images := [(0x100000, { bin := b, isSealed := isSealed, keyId := key, img := { w := 6 }, launch := {}, xlat := [] })]
              ctxs := [(1, { sec := { keyId := 4 } })], host := { ops := [{ opTest 0x0205 with args := [0x100000] }] } }

/-- What the restore answers. -/
def restored (b : BinInfo) (isSealed : Bool) (key : Word) : Option Nat :=
  lastStatus (after (.operationComplete 0x80000001 .ok) (restoreTest b isSealed key))

theorem test_restores : (restoreTest {} false 0).op 0x80000001 = some { opTest 0x0205 with args := [0x100000] } ∧
    ttListed tiny 0x0A01 = true ∧ ttListed tiny 0x0A02 = false ∧ restored { shape := tiny.shape + 1 } false 0 = some 13 ∧
    restored { shape := tiny.shape, ttId := 0x0A02 } false 0 = some 14 ∧
    restored { shape := tiny.shape, ttId := 0x0A01 } true 3 = some 6 ∧
    restored { shape := tiny.shape, ttId := 0x0A01 } true 4 = some 0 ∧
    ((after (.operationComplete 0x80000001 .ok) (restoreTest { shape := tiny.shape, ttId := 0x0B00 } false 0)).ctx 1).w = 6 := by
  decide +kernel

/-! ### Launches, switches, aborts, captures -/

/-- The launch block of a job with seed 7 and no streams. -/
def tinyLaunch : Bytes := padTo 64 [7#8]

/-- The module of one core, with a stream on it, in READY, whose context 1 is loaded and on the cores. -/
def readyTest (p : Pending) (c : Ctx) : State :=
  let s := hostTest p tiny
  { s with mgmt := tiny.mgmt, sec := { life := 1 }, ctxs := [(1, c)], onCores := some 1
           cores := [(0, { lv := { slots := [(0, { valid := true, id := 5 })] }, obs := { miss := 3 } })] }

/-- The launch command. -/
def launchCmd : Pending := waiting 0x0202 [] tinyLaunch

theorem test_launch_ready : taken launchCmd (readyTest launchCmd { st := .loaded }) = true ∧
    (readyTest launchCmd { st := .loaded }).cur = none ∧ unusedZero launchCmd [] = true ∧ hLen launchCmd.hdr = 64 ∧
    standsReady launchCmd.ctx (readyTest launchCmd { st := .loaded }) ∧
    launchable launchCmd (launchBlock launchCmd.body) (readyTest launchCmd { st := .loaded }) := by
  unfold standsReady launchable; decide +kernel

theorem test_launch : ((after .jobLaunch (readyTest launchCmd { st := .loaded })).ctx 1).st = .running ∧
    ((after .jobLaunch (readyTest launchCmd { st := .loaded })).core 0).seq.st = .running ∧
    ((after .jobLaunch (readyTest launchCmd { st := .loaded })).core 0).obs.miss = 0 ∧
    (after .jobLaunch (readyTest launchCmd { st := .loaded })).proof.entryAt = some 4096 ∧
    (after .jobLaunch (readyTest launchCmd { st := .loaded })).mgmt.st = .running := by decide +kernel

/-- The switch to context 1: it is loaded, or switched out. -/
def switchCmd (payload : Bytes) : Pending := waiting 0x0204 (leBytes 4 3) payload

theorem test_switch_ready : taken (switchCmd tinyLaunch) (readyTest (switchCmd tinyLaunch) { st := .loaded }) = true ∧
    unusedZero (switchCmd tinyLaunch) [(12, 4)] = true ∧
    launchable (switchCmd tinyLaunch) (launchBlock (switchCmd tinyLaunch).body) (readyTest (switchCmd tinyLaunch) { st := .loaded }) ∧
    taken (switchCmd []) (readyTest (switchCmd []) { st := .switched, save := some {} }) = true ∧
    hLen (switchCmd []).hdr = 0 ∧ standsReady 1 (readyTest (switchCmd []) { st := .switched, save := some {} }) := by
  unfold standsReady launchable; decide +kernel

theorem test_switch : ((after .ctxSwitch (readyTest (switchCmd tinyLaunch) { st := .loaded })).ctx 1).st = .running ∧
    ((after .ctxSwitch (readyTest (switchCmd []) { st := .switched, save := some {} })).ctx 1).st = .running ∧
    (let s : State := { readyTest (switchCmd []) {} with
        ctxs := [(0, { st := .running, fabN := 2 }), (1, { st := .switched })] };
      s.cur = some 0 ∧ switchAllowed 3 s = true ∧
        ((after .ctxSwitch s).ctx 0).switchAt = some (1, 3, 0x80000001)) := by decide +kernel

/-- The abort of context 1. -/
def abortCmd : Pending := waiting 0x0203 [] []

theorem test_aborts : taken abortCmd (readyTest abortCmd { st := .running }) = true ∧ plainForm abortCmd [] = true ∧
    ((after .jobAbort (readyTest abortCmd { st := .running })).ctx 1).abortAt = some 64 ∧
    ((after .jobAbort (readyTest abortCmd { st := .held })).ctx 1).st = .aborted ∧
    ((after .jobAbort (readyTest abortCmd { st := .switched })).ctx 1).st = .aborted ∧
    lastStatus (after .jobAbort (readyTest abortCmd { st := .running, abortAt := some 9, abortOp := 5 })) = some 2 ∧
    lastStatus (after .jobAbort (readyTest abortCmd { st := .done })) = some 3 := by decide +kernel

/-- The abort of context 1 of operation 5 stands, due at tick 9. -/
def dueTest (now : Nat) (st : CtxState) (q : CoreState) : State :=
  { tiny with now := now, ctxs := [(1, ({ st := .running, abortAt := some 9, abortOp := 5 } : Ctx).enter st)], onCores := some 1
              cores := [(0, { seq := { st := q } })], host := { ops := [{ opTest 0x0203 with id := 5 }] } }

/-- A row of the aborted job has still to be written. -/
def rowsLeft : State :=
  { dueTest 10 .aborted .idle with pkts := [{ packetTo0 .writeRow 512 with dstEnd := .stack }] }

theorem test_abort_points : doneCondition (dueTest 9 .running .done) = true ∧ doneCondition (dueTest 9 .running .running) = false ∧
    (dueTest 9 .done .done).op 5 = some { opTest 0x0203 with id := 5 } ∧
    lastStatus (after (.abortPoint 1) (dueTest 9 .done .done)) = some 9 ∧
    lastStatus (after (.abortPoint 1) (dueTest 9 .running .done)) = some 9 ∧
    ((after (.abortPoint 1) (dueTest 9 .running .running)).ctx 1).st = .aborted ∧
    lastStatus (after (.abortPoint 1) (dueTest 9 .running .running)) = none ∧
    (after (.abortPoint 1) (dueTest 8 .running .running)).ctxs = (dueTest 8 .running .running).ctxs ∧
    (({ abortAt := some 9 } : Ctx).enter .done).abortEnd = some true ∧
    (after (.abortPoint 1) (dueTest 9 .aborted .idle)).ctxs = (dueTest 9 .aborted .idle).ctxs ∧
      (dueTest 10 .aborted .idle).xfers = [] ∧
    lastStatus (after (.abortReply 1) rowsLeft) = none ∧
    lastStatus (after (.abortReply 1) (dueTest 10 .aborted .idle)) = some 8 := by decide +kernel

/-- Context 1 is done, and a switch to context 2 may wait for its Proof. -/
def endTest (sw : Option (Nat × Nat × BitVec 32)) : State :=
  { dueTest 9 .running .done with ctxs := [(1, { st := .running, switchAt := sw }), (2, { st := .switched, save := some {} })]
                                  mgmt := { tiny.mgmt with st := .running } }

theorem test_context_ends : ((endTest none).ctx 1).st = .running ∧ doneCondition (endTest none) = true ∧
    ((after (.contextDone 1) (endTest none)).ctx 1).st = .done ∧ (after (.contextDone 1) (endTest none)).mgmt.st = .ready ∧
    ((after (.contextDone 1) (endTest (some (2, 0, 7)))).ctx 2).st = .running ∧
    (after (.contextDone 1) (endTest (some (2, 0, 7)))).proof.entry = some 2 ∧
    (after (.contextDone 2) (endTest none)).ctxs = (endTest none).ctxs := by decide +kernel

/-- CTX_FREE of context 1. -/
def freeCmd : Pending := waiting 0x0206 [] []

/-- A sealed context in residency, with a row in cluster memory and one in DRAM. -/
def sealedTest : State :=
  let s := readyTest freeCmd { st := .done, sec := { sealed := true, keyId := 4 } }
  { s with sec := { life := 1, resident := some 1 }, mem := [(7, 1#8), (windowBase, 2#8)] }

theorem test_free : taken freeCmd (readyTest freeCmd { st := .done }) = true ∧ plainForm freeCmd [] = true ∧
    ((after .ctxFree (readyTest freeCmd { st := .done })).ctx 1).st = .empty ∧
    (after .ctxFree (readyTest freeCmd { st := .done })).cores = (readyTest freeCmd { st := .done }).cores ∧
    (sealedTest.ctx 1).sec.sealed = true ∧ (after .ctxFree sealedTest).mem = [(7, 1#8)] ∧
    ((after .ctxFree sealedTest).ctx 1).sec.keyId = 0 ∧ (after .ctxFree sealedTest).cores = [] := by decide +kernel

/-- The three Starter commands on context 1: `N` = 3 and the tag `T` = 6. -/
def armCmd : Pending := waiting 0x0208 (leBytes 4 3 ++ leBytes 2 6) []
def summaryCmd : Pending := waiting 0x0209 [] []
def releaseCmd : Pending := waiting 0x020A [] []

/-- A capture that stands, with a core at the Proof; a switch to context 2 may be due there. -/
def heldTest (p : Pending) (sw : Option (Nat × Nat × BitVec 32)) : State :=
  { readyTest p {} with
    ctxs := [(1, { st := .held, fabN := 2, capture := some (2, 6, 8, 9), switchAt := sw }), (2, { st := .switched, save := some {} })]
    cores := [(0, { seq := { st := .proofWait } })] }

theorem test_captures : taken armCmd (readyTest armCmd { st := .running, fabN := 2 }) = true ∧
    plainForm armCmd [(12, 4), (16, 2)] = true ∧ conflict kStarter (readyTest armCmd { st := .running, fabN := 2 }) = none ∧
    ((after .starterArm (readyTest armCmd { st := .running, fabN := 2 })).ctx 1).arm =
      some ⟨3, 6, 0x07000001, 0x1234, .renkai⟩ ∧
    taken summaryCmd (heldTest summaryCmd none) = true ∧ plainForm summaryCmd [] = true ∧
    (lastPayload (after .starterSummary (heldTest summaryCmd none))).map (·.take 12) =
      some (leBytes 4 2 ++ leBytes 2 6 ++ leBytes 2 0 ++ leBytes 4 8) ∧
    taken releaseCmd (heldTest releaseCmd none) = true ∧
    ((after .starterRelease (heldTest releaseCmd none)).core 0).seq.st = .running ∧
    ((after .starterRelease (heldTest releaseCmd (some (2, 0, 7)))).ctx 1).st = .switched ∧
    ((after .starterRelease (heldTest releaseCmd (some (2, 0, 7)))).ctx 2).st = .running := by decide +kernel

/-- CTX_LOAD of context 1, and its restore from 1 MiB. -/
def ctxLoadCmd : Pending := waiting 0x0201 [] tinyBlock
def ctxRestoreCmd : Pending := waiting 0x0205 (leBytes 8 0x100000) []

theorem test_loads_accepted : taken ctxLoadCmd (readyTest ctxLoadCmd {}) = true ∧ unusedZero ctxLoadCmd [] = true ∧
    hLen ctxLoadCmd.hdr = 192 ∧ loadable .empty = true ∧
    (after .ctxLoad (readyTest ctxLoadCmd {})).host.ops.map (·.data) = [tinyBlock] ∧
    taken ctxRestoreCmd (readyTest ctxRestoreCmd {}) = true ∧ plainForm ctxRestoreCmd [(12, 8)] = true ∧
    (after .ctxRestore (readyTest ctxRestoreCmd {})).host.ops.map (·.args) = [[0x100000]] := by decide +kernel

/-! ### Maintenance -/

/-- The commands that begin an operation. -/
def scrubCmd : Pending := waiting 0x0601 [] []
def memtestCmd : Pending := waiting 0x0602 [] []
def chunkCmd (offset : Nat) : Pending := waiting 0x0603 (leBytes 4 offset) (List.replicate 32 7#8)
def configCmd : Pending := waiting 0x0604 [] (List.replicate 32 7#8)
def rekeyCmd : Pending := waiting 0x0507 [] []
def retrainCmd : Pending := waiting 0x0702 [3#8] []

/-- The module of one core with a command, in READY, with these contexts. -/
def idleTest (p : Pending) (cs : SMap Ctx) : State :=
  let s := hostTest p tiny
  { s with mgmt := tiny.mgmt, sec := { life := 1 }, ctxs := cs }

/-- The operations that run: kind, number and arguments. -/
def opsOf (t : State) : List (Nat × List Nat) := t.host.ops.map fun o => (opKind o, o.args)

theorem test_maintenance_begins :
    taken scrubCmd (idleTest scrubCmd []) = true ∧ (idleTest scrubCmd []).cur = none ∧ plainForm scrubCmd [] = true ∧
    conflict kScrub (idleTest scrubCmd []) = none ∧ opsOf (after .scrub (idleTest scrubCmd [])) = [(2, [])] ∧
    taken memtestCmd (idleTest memtestCmd []) = true ∧ allEmpty (idleTest memtestCmd []) = true ∧
    plainForm memtestCmd [] = true ∧ conflict kMemtest (idleTest memtestCmd []) = none ∧
    opsOf (after .memtest (idleTest memtestCmd [])) = [(3, [])] ∧
    taken configCmd (idleTest configCmd []) = true ∧ unusedZero configCmd [] = true ∧
    conflict kConfig (idleTest configCmd []) = none ∧
    opsOf (after (.configWrite factoryRecord) (idleTest configCmd [])) = [(5, [])] ∧
    taken retrainCmd (idleTest retrainCmd []) = true ∧ portInUse (idleTest retrainCmd []) 3 = false ∧
    plainForm retrainCmd [(12, 1)] = true ∧ conflict kRetrain (idleTest retrainCmd []) = none ∧
    opsOf (after .portRetrain (idleTest retrainCmd [])) = [(6, [3])] ∧
    ((after .portRetrain (idleTest retrainCmd [])).port 3).st = .training := by decide +kernel

/-- An update under way, whose buffer holds one chunk. -/
def updateTest : State :=
  let s := idleTest (chunkCmd 32) []
  { s with mgmt := { s.mgmt with fwBuf := List.replicate 32 8#8 }
           host := { s.host with ops := [{ opTest 0x0603 with id := 0x04000001 }] } }

/-- The next chunk lies at this offset. -/
def gapTest (n : Nat) : State :=
  { updateTest with host := { (hostTest (chunkCmd n) {}).host with ops := updateTest.host.ops } }

theorem test_update_and_rekey :
    taken (chunkCmd 0) (idleTest (chunkCmd 0) []) = true ∧ unusedZero (chunkCmd 0) [(12, 4), (16, 1)] = true ∧
    conflict kFw (idleTest (chunkCmd 0) []) = none ∧
    (after .fwUpdate (idleTest (chunkCmd 0) [])).mgmt.fwBuf = List.replicate 32 7#8 ∧
    taken (chunkCmd 32) updateTest = true ∧ (fwOpen updateTest).isSome = true ∧
    (after .fwUpdate updateTest).mgmt.fwBuf = List.replicate 32 8#8 ++ List.replicate 32 7#8 ∧
    (after .fwUpdate (gapTest 64)).mgmt.fwBuf.take 32 = List.replicate 32 8#8 ∧
    (after .fwUpdate (gapTest 64)).mgmt.fwBuf.drop 64 = List.replicate 32 7#8 ∧
    (after .fwUpdate (gapTest 64)).mgmt.fwBuf.length = 96 ∧
    taken rekeyCmd (idleTest rekeyCmd [(2, { sec := { keyId := 4 } })]) = true ∧
    (idleTest rekeyCmd []).optionS = true ∧ plainForm rekeyCmd [] = true ∧ conflict kRekey (idleTest rekeyCmd []) = none ∧
    keyed (idleTest rekeyCmd [(2, { sec := { keyId := 4 } })]) = true ∧ keyed (idleTest rekeyCmd []) = false ∧
    (after .rekey (idleTest rekeyCmd [(2, { sec := { keyId := 4 } })])).sec.rekeyOpen = true ∧
    lastStatus (after .rekey (idleTest rekeyCmd [])) = some 0 := by decide +kernel

/-- FABRIC_BRINGUP of two trays along X, with this module's at place 1 or 0. -/
def bringupCmd (ox : Byte) : Pending := waiting 0x0701 [2#8, 1#8, 1#8, ox] []

theorem test_bringup : taken (bringupCmd 0) (idleTest (bringupCmd 0) []) = true ∧ plainForm (bringupCmd 0) [(12, 6)] = true ∧
    (idleTest (bringupCmd 0) []).mgmt.trayId = false ∧
    (after .fabricBringup (idleTest (bringupCmd 0) [])).fab.index = some 0 ∧
    (List.range 20).map (fun q => ((after .fabricBringup (idleTest (bringupCmd 0) [])).port q).st) =
      List.replicate 16 .training ++ List.replicate 4 .off ∧
    lastStatus (after .fabricBringup (idleTest (bringupCmd 1) [])) = some 5 := by decide +kernel

/-- An operation that ends, with these arguments, on a module whose port 3 is in this state. -/
def endsTest (opcode : BitVec 16) (args : List Nat) (st : LinkState) : State :=
  { tiny with host := { ops := [{ opTest opcode with args := args, data := [1#8, 2#8, 0#8, 0#8, 0#8, 0#8, 0#8, 3#8] }] }
              ports := [(3, { st := st })], fab := { index := some 0 }
              images := [(0, { bin := {}, isSealed := false, keyId := 0, img := {}, launch := {}, xlat := [] })]
              mgmt := { tiny.mgmt with fwBuf := [9#8] } }

/-- What it leaves. -/
def ended (opcode : BitVec 16) (args : List Nat) (e : OpEnd) : State :=
  after (.operationComplete 0x80000001 e) (endsTest opcode args .up)

theorem test_maintenance_ends : mainOff (endsTest 0x0601 [] .up) = false ∧
    ((ended 0x0601 [] .ok).stack 23).passes = 1 ∧ lastStatus (ended 0x0601 [] .ok) = some 0 ∧
    (ended 0x0602 [] .ok).images = [] ∧ lastStatus (ended 0x0602 [] (.failed 512)) = some 10 ∧
    lastStatus (ended 0x0603 [1] .ok) = some 0 ∧ lastStatus (ended 0x0603 [1] .verifyFail) = some 12 ∧
    lastStatus (ended 0x0303 [] .ok) = some 0 ∧ trainingOver (endsTest 0x0701 [] .up) = true ∧
    failedPorts (endsTest 0x0701 [] .up) ≠ [] ∧ lastStatus (ended 0x0701 [] .ok) = some 10 ∧
    lastStatus (ended 0x0702 [3] .ok) = some 0 ∧ lastStatus (ended 0x0702 [4] .ok) = some 10 ∧
    lastStatus (after (.operationComplete 0x80000001 .ok) (endsTest 0x0702 [3] .training)) = none := by decide +kernel

/-- All ports that are wired are up. -/
def allUp : State :=
  { endsTest 0x0701 [] .up with ports := (List.range 14).map fun q => (q, { st := .up }) }

theorem test_bringup_ends : trainingOver allUp = true ∧ failedPorts allUp = [] ∧
    lastStatus (after (.operationComplete 0x80000001 .ok) allUp) = some 0 := by decide +kernel

/-- OP_CANCEL of the fill 0x80000001. -/
def cancelCmd : Pending := waiting 0x0606 (leBytes 4 0x80000001) []

/-- A fill of two rows, whose cancel point is tick 9; or one that has ended. -/
def cancelTest (now : Nat) (c : Option (Nat × Pending)) (kind : Nat) (over_ : Bool) : State :=
  let o : Op := { opTest 0x0303 with
                  id := BitVec.ofNat 32 (kind * 2 ^ 24 + 1), args := [512, 2], data := List.replicate 8 1#8, cancel := c }
  let s := idleTest cancelCmd []
  { s with now := now, host := { s.host with ops := if over_ then [] else [o], ended := if over_ then [o] else [] } }

theorem test_cancels : taken cancelCmd (cancelTest 0 none 0x80 false) = true ∧ plainForm cancelCmd [(12, 4)] = true ∧
    (namedOp cancelCmd (cancelTest 0 none 0x80 false)).isSome = true ∧
    (after .opCancel (cancelTest 0 none 0x80 false)).host.ops.map (·.cancel) = [some (64, cancelCmd)] ∧
    ((cancelTest 0 none 1 false).op 0x01000001).map uncancellable = some true ∧
    (after (.cancelPoint 0x80000001) (cancelTest 8 (some (9, cancelCmd)) 0x80 false)).host.sent = [] ∧
    cancelPast (opTest 0x0303) 9 = false ∧ cancelPast { opTest 0x0303 with cancel := some (8, cancelCmd) } 9 = true ∧
    (after (.cancelPoint 0x80000001) (cancelTest 9 (some (9, cancelCmd)) 0x80 false)).host.sent.map (fun y => field y.hdr 6 1) =
      [8, 8] ∧
    lastStatus (after (.cancelPoint 0x80000001) (cancelTest 9 (some (9, cancelCmd)) 0x80 true)) = some 9 := by decide +kernel

/-! ### Configuration records -/

/-- Sixteen sites of each of 64 clusters. -/
def goodSites : List (Nat × Nat) := (List.range 1024).map fun k => (k / 16, k % 16)

/-- A record that is well formed: 64 clusters, sixteen cores each. -/
def goodRecord : ConfigRecord :=
  { factoryRecord with
    version := 2, grade := 64, enabled := List.range 64, coreMap := goodSites }

theorem distinct_of_nodup {α : Type} [BEq α] [LawfulBEq α] (l : List α) (h : l.Nodup) : distinct l = true := by
  induction l with
  | nil => rfl
  | cons x l ih =>
    obtain ⟨h1, h2⟩ := List.nodup_cons.mp h
    simp [distinct, h1, ih h2]

theorem sites_nodup (n : Nat) : ((List.range n).map fun k => (k / 16, k % 16)).Nodup := by
  refine List.Pairwise.map _ ?_ List.nodup_range
  intro a b h e
  simp only [Prod.mk.injEq] at e
  omega

theorem goodRecord_ok : recordOk goodRecord = true := by
  have h1 : distinct goodRecord.enabled = true := distinct_of_nodup _ List.nodup_range
  have h2 : distinct goodRecord.coreMap = true := by
    simp only [goodRecord]
    exact distinct_of_nodup goodSites (sites_nodup 1024)
  have h3 : (goodRecord.coreMap.all fun e => goodRecord.enabled.contains e.1 && decide (e.2 < 18) &&
    !goodRecord.badCores.contains e) = true := by decide +kernel
  have h4 : (goodRecord.enabled.all fun c => (goodRecord.coreMap.filter fun e => e.1 == c).length == 16 &&
    decide ((goodRecord.badCores.filter fun e => e.1 == c).length ≤ 2)) = true := by decide +kernel
  have h5 : (goodRecord.grade == 96 || goodRecord.grade == 80 || goodRecord.grade == 64) = true := by decide +kernel
  have h6 : (goodRecord.enabled.all fun c => decide (c < nIslands)) = true := by decide +kernel
  have h7 : (goodRecord.enabled.length == goodRecord.grade) = true := by decide +kernel
  have h8 : routersOk goodRecord = true := by decide +kernel
  have h9 : (goodRecord.crossings.all fun x => decide (1 ≤ x.k) && decide (x.trim ≤ 63)) = true := by decide +kernel
  have h10 : (goodRecord.crossings.length == allCrossings) = true := by decide +kernel
  simp only [recordOk, mapOk, h1, h2, h3, h4, h5, h6, h7, h8, h9, h10, Bool.and_self]

/-- The record's write ends on a module that waits for its host, and has none. -/
def commitTest (r : ConfigRecord) : State :=
  { mgmt := { st := .waitHost, main := true, aux := true }, host := { ops := [{ opTest 0x0604 with cfg := some r }] } }

/-- The configuration limit is not reached, and the version is the next one. -/
theorem goodRecord_status : configStatus goodRecord (commitTest goodRecord) = none := by
  have h : goodRecord.signed = true ∧ (goodRecord.stepping != (commitTest goodRecord).mgmt.stepping) = false ∧
    (goodRecord.version != (commitTest goodRecord).sec.tally.config + 1) = false ∧
    ¬configLimit ≤ (commitTest goodRecord).sec.tally.config ∧
    (commitTest goodRecord).mgmt.record.isSome = false := by decide +kernel
  simp [configStatus, h, goodRecord_ok]

/-- A record without a signature, and one of another stepping. -/
theorem test_config_refused : configStatus { smallRecord with signed := false } (commitTest smallRecord) = some 12 ∧
    configStatus { smallRecord with stepping := 0xA1 } (commitTest smallRecord) = some 5 ∧
    recordOk smallRecord = false ∧ configStatus smallRecord (commitTest smallRecord) = some 5 ∧
    lastStatus (after (.operationComplete 0x80000001 .ok) (commitTest smallRecord)) = some 5 := by decide +kernel

/-- A record with one crossing too few, and one whose k is 0 (R529). -/
theorem test_crossings_checked :
    recordOk { smallRecord with crossings := smallRecord.crossings.drop 1 } = false ∧
    recordOk { smallRecord with crossings := ⟨0, 3⟩ :: smallRecord.crossings.drop 1 } = false := by decide +kernel

/-- A record that has been committed: the counters' changes are owed until copy B holds it. -/
def pendingTest (m : ModState) (b : Bool) : State :=
  { commitTest smallRecord with mgmt := { st := m, main := true, applyPend := some (smallRecord, b) }
                                sec := { tally := { intents := [cntConfig, cntGrade] } } }

theorem test_config_applies :
    (after .configApplyReset (pendingTest .waitHost false)).mgmt.st = .powering ∧
    (after .configApplyReset (pendingTest .ready false)).mgmt.copyA = .copy smallRecord ∧
    (after .configApplyReset (pendingTest .ready false)).mgmt.copyB = .copy smallRecord ∧
    (after .configApplyReset (pendingTest .ready false)).sec.tally.intents = [] ∧
    (after .configApplyReset (pendingTest .ready true)).mgmt.copyA = .copy smallRecord ∧
    (after .configApplyReset (pendingTest .ready true)).mgmt.copyB = (pendingTest .ready true).mgmt.copyB ∧
    (after .configApplyReset (commitTest smallRecord)).mgmt = (commitTest smallRecord).mgmt := by
  refine ⟨?_, ?_, ?_, ?_, ?_, ?_, rfl⟩ <;> decide +kernel

/-! ### Security. Whether a signature verifies is a function of the configuration without a body: of two clauses that differ in it
alone, one holds. -/

/-- A sweep under way, at this chunk, in this state of the module. -/
def sweepTest (chunk : Nat) (m : ModState) : State :=
  { tiny with sec := { life := 1, rekeyOpen := true, rekeyJournal := chunk }, mgmt := { tiny.mgmt with st := m }
              ctxs := [(2, { sec := { keyId := 4 } })], host := { ops := [{ opTest 0x0507 with id := 0x01000001 }] } }

theorem test_rekey_sweep : (after .rekeyChunkComplete (sweepTest 1918 .ready)).sec.rekeyJournal = 1919 ∧
    (after .rekeyChunkComplete (sweepTest 1919 .ready)).sec.rekeyOpen = false ∧
    (after .rekeyChunkComplete (sweepTest 1919 .rekeyResume)).mgmt.st = .ready ∧
    rekeyOp (sweepTest 1919 .ready) = some 0x01000001 ∧ ((sweepTest 1919 .ready).op 0x01000001).isSome = true ∧
    lastStatus (after .rekeyChunkComplete (sweepTest 1919 .ready)) = some 0 := by decide +kernel

/-- ATTEST with this `WHAT`, and a nonce of sixteen bytes. -/
def attestCmd (what : Byte) : Pending := waiting 0x0501 (padTo 4 [what] ++ List.replicate 16 6#8) []

/-- A module with leaf `n` next. -/
def leafTest (p : Pending) (n : Nat) : State := { idleTest p [] with sec := { life := 1, tally := { next := n } } }

theorem test_attest : taken (attestCmd 0) (leafTest (attestCmd 0) 5) = true ∧ plainForm (attestCmd 0) [(12, 1), (16, 16)] = true ∧
    (leafTest (attestCmd 0) 5).sec.zeroised = false ∧ (after .attestReport (leafTest (attestCmd 0) 5)).sec.tally.next = 6 ∧
    lastStatus (after .attestReport (leafTest (attestCmd 0) 5)) = some 0 ∧
    lastStatus (after .attestReport (leafTest (attestCmd 0) 1048576)) = some 11 ∧
    taken (attestCmd 2) (leafTest (attestCmd 2) 5) = true ∧ plainForm (attestCmd 2) [(12, 1), (16, 16)] = true ∧
    lastStatus (after .attestReport (leafTest (attestCmd 2) 5)) = some 5 ∧
    taken (attestCmd 1) (leafTest (attestCmd 1) 5) = true ∧ plainForm (attestCmd 1) [(12, 1), (16, 16)] = true ∧
    lastStatus (after .attestCertificate (leafTest (attestCmd 1) 5)) = some 0 := by decide +kernel

/-- A report is laid out for every leaf of 32 bits and every nonce of sixteen bytes. -/
theorem test_report : (5 : Nat) < 2 ^ 32 ∧ (List.replicate 16 6#8).length = 16 ∧
    (reportBody 5 (List.replicate 16 6#8) {}).take 7 = [0x4C#8, 0x41#8, 0x54#8, 0x54#8, 1#8, 0#8, 0#8] := by decide +kernel

/-- The session commands on context 1. -/
def openCmd : Pending := waiting 0x0502 (padTo 4 [] ++ List.replicate 16 6#8) []
def closeCmd : Pending := waiting 0x0503 [] []

theorem test_sessions :
    (let s : State := { leafTest openCmd 5 with ctxs := [(1, { st := .loaded, sec := { list := some [1#8] } })] }
     taken openCmd s = true ∧ s.optionS = true ∧ s.sec.zeroised = false ∧ plainForm openCmd [(16, 16)] = true ∧
      (s.ctx openCmd.ctx).sec.list = some [1#8] ∧ (s.ctx openCmd.ctx).sec.session = none ∧
      (after .sessionOpen s).sec.tally.next = 6 ∧ ((after .sessionOpen s).ctx 1).sec.session.isSome = true ∧
      lastStatus (after .sessionOpen { s with sec := { life := 1, tally := { next := 1048576 } } }) = some 11) ∧
    (let s : State := { leafTest closeCmd 5 with ctxs := [(1, { sec := { session := some (0, 0, [], []) } })] }
     taken closeCmd s = true ∧ plainForm closeCmd [] = true ∧ ((after .sessionClose s).ctx 1).sec.session = none) := by
  decide +kernel

/-- A release list of one range and no entries, and its command. -/
def tinyList : Bytes := padTo 4512 (padTo 56 (ascii "LREL" ++ leBytes 2 1) ++ leBytes 2 1 ++ leBytes 2 0)
def listCmd : Pending := waiting 0x0504 [] tinyList

theorem test_release_list :
    (let s : State := { leafTest listCmd 5 with
       sec := { life := 2 }, ctxs := [(1, { st := .loaded, sec := { sealed := true } })] }
     (queueOf 0x0504 s.host).length = 1 ∧ listCmd.plain.isSome = true ∧ s.mgmt.aux = true ∧ s.optionS = true ∧
     unusedZero listCmd [] = true ∧ hLen listCmd.hdr = 4512 ∧ rlSig tinyList = 1664 ∧
      field tinyList 56 2 = 1 ∧ (s.ctx 1).sec.list = none ∧ listBad 1 tinyList s = true) := by decide +kernel

/-- An authorisation of this kind for this module, with the count `used`. -/
def authBody (kind used : Nat) : Bytes :=
  padTo 64 (ascii "LAUT" ++ leBytes 1 kind ++ leBytes 3 0 ++ leBytes 4 used ++ leBytes 4 0 ++ deviceId) ++ List.replicate 68 3#8

/-- The command with it; `n` is the length of the payload. -/
def authCmd (op kind used n : Nat) : Pending :=
  let p := waiting op (if op = 0x0505 then [BitVec.ofNat 8 kind] else []) []
  { p with hdr := p.hdr.take 8 ++ leBytes 4 n ++ p.hdr.drop 12, plain := some (authBody kind used) }

theorem auth_said (kind used : Nat) : statementOk kind used (authBody kind used) = true := by
  have h : ∀ (x : Bytes), (padTo 64 x).length = 64 := by intro x; simp [padTo]; omega
  simp only [statementOk, authBody]
  rw [List.take_left' (h _)]
  simp

theorem test_lifecycle_said : hOp (authCmd 0x0505 2 1 160).hdr = 0x0505 ∧ unusedZero (authCmd 0x0505 2 1 160) [(12, 1)] = true ∧
    hLen (authCmd 0x0505 2 1 160).hdr = authLen 2 ∧ field (authCmd 0x0505 2 1 160).hdr 12 1 = 2 ∧
    hOp (authCmd 0x0505 1 0 3040).hdr = 0x0505 ∧ unusedZero (authCmd 0x0505 1 0 3040) [(12, 1)] = true ∧
    hLen (authCmd 0x0505 1 0 3040).hdr = authLen 1 ∧ hLen (authCmd 0x0505 3 2 2912).hdr = authLen 3 ∧
    hOp (authCmd 0x0506 4 0 2912).hdr = 0x0506 ∧ unusedZero (authCmd 0x0506 4 0 2912) [] = true ∧
    hLen (authCmd 0x0506 4 0 2912).hdr = 2912 := by decide +kernel

/-- A module in READY, with every context EMPTY, and this step of its lifecycle. -/
def lifeTest (p : Pending) (life : BitVec 2) : State :=
  { idleTest p [] with sec := { life := life, tally := { lifecycle := life.toNat } } }

/-- The step to DEPLOYED needs no signature: it is taken. -/
theorem test_lifecycle : allEmpty (lifeTest (authCmd 0x0505 2 1 160) 1) = true ∧
    (lifeTest (authCmd 0x0505 2 1 160) 1).sec.life.toNat + 1 = 2 ∧
    lastStatus (after .lifecycleDeploy (lifeTest (authCmd 0x0505 2 1 160) 2)) = some 3 ∧
    lastStatus (after .lifecycleRetire (lifeTest (authCmd 0x0505 3 2 2912) 1)) = some 3 := by decide +kernel

/-- A count that is recorded is followed by its change in the next tick; without a count there is none (R453). -/
def changeTest (life : BitVec 2) (count n : Nat) : State :=
  let p := authCmd (if n = 4 then 0x0506 else 0x0505) n 1 160
  let s := idleTest p []
  { s with sec := { life := life, tally := { lifecycle := count, lock := true, intents := [cntLife, cntLock] } }
           host := { s.host with change := some (n, p) } }

theorem test_change_made :
    (changeTick (changeTest 0 1 1)).sec.life = 1 ∧ lastStatus (changeTick (changeTest 0 1 1)) = some 0 ∧
    (changeTick (changeTest 1 2 2)).sec.life = 2 ∧ (changeTick (changeTest 1 2 2)).sec.tally.intents = [cntLock] ∧
    (changeTick (changeTest 2 3 3)).mgmt.st = .retired ∧ (changeTick (changeTest 0 0 1)).sec.life = 0 ∧
    (changeTick (changeTest 0 1 1)).host.change.isSome = false ∧
    (changeTick (changeTest 1 1 4)).sec.locked = true ∧ lastStatus (changeTick (changeTest 1 1 4)) = some 0 ∧
    (changeTick (changeTest 1 1 4)).sec.tally.intents = [cntLife] := by decide +kernel

/-- The tamper response. -/
theorem test_tamper : (after (.tamperResponse 3) (sweepTest 0 .ready)).mgmt.st = .safe ∧
    (after (.tamperResponse 3) (sweepTest 0 .ready)).mgmt.safeCause = 6 ∧
    ((after (.tamperResponse 3) (sweepTest 0 .ready)).ctx 2).sec.keyId = 0 ∧
    (after (.tamperResponse 3) (sweepTest 0 .retired)).mgmt.st = .safe ∧
    (after (.tamperResponse 3) (sweepTest 0 .off)).mgmt.safeCause = 6 ∧
    (after (.tamperResponse 3) (sweepTest 0 .ready)).sec.tally.tamper = true ∧
    (after (.tamperResponse 3) { mgmt := { aux := false } }).sec.tally = {} := by decide +kernel

/-! ### Resets, power, cooling, start-up -/

/-- RESET of this kind, at a module whose DRAM has power. -/
def resetTest (kind : Byte) : State :=
  { idleTest (waiting 0x0105 [kind] []) [(2, { st := .loaded, sec := { keyId := 4 } })] with drams := [(0, { powered := true })] }

theorem test_resets : taken (waiting 0x0105 [0#8] []) (resetTest 0) = true ∧ plainForm (waiting 0x0105 [0#8] []) [(12, 1)] = true ∧
    (after .resetWarm (resetTest 0)).mgmt.st = .selfCheck ∧ ((after .resetWarm (resetTest 0)).ctx 2).sec.keyId = 4 ∧
    (after .resetWarm { resetTest 0 with drams := [] }).mgmt.st = .powering ∧
      (after .resetCold (resetTest 1)).mgmt.st = .powering ∧ (after .resetCold (resetTest 1)).mgmt.lastReset = 3 ∧
    ((after .resetCold (resetTest 1)).ctx 2).sec.keyId = 0 ∧ (after .resetShutdown (resetTest 2)).mgmt.st = .off ∧
    lastStatus (after .resetShutdown (resetTest 2)) = some 0 ∧ lastStatus (after .resetWarm (resetTest 3)) = some 5 ∧
    (after .resetNRelease (resetTest 0)).mgmt.lastReset = 1 := by decide +kernel

/-- RESET_N is released in the tick of a reset that has been performed, beside a COLD command that waits, or alone. -/
theorem test_reset_n : (after .resetNRelease { resetTest 1 with now := 7 }).mgmt.lastReset = 3 ∧
    lastStatus (after .resetNRelease { resetTest 1 with now := 7 }) = some 0 ∧
    (let s := resetTest 0
     let done := { s with mgmt := { s.mgmt with resetAt := some s.now, resetN := false, lastReset := 2 } }
     done.mgmt.aux = true ∧ (after .resetNRelease done).mgmt.lastReset = 2 ∧ (after .resetNRelease done).mgmt.resetN = true ∧
     (after .resetNRelease done).mgmt.st = .ready) := by decide +kernel

/-- A module whose management controller is this, with a record in the log's flash copy. -/
def powerTest (g : MgmtSt) : State := { mgmt := g, mem := [(5, 1#8)], ports := [(3, { st := .up })] }

theorem test_input_power :
    (after (.auxiliaryDomainStart 36000) (powerTest { st := .off, aux := false })).host.link = .training ∧
    (after (.auxiliaryDomainStart 35999) (powerTest { st := .off, aux := false })).mgmt.aux = false ∧
    (after (.inputPowerStable 40000) (powerTest { st := .off, aux := false, cycles := 7 })).mgmt.cycles = 8 ∧
    (after (.inputPowerStable 40000) (powerTest { st := .off, aux := false })).mgmt.st = .powering ∧
    (after (.inputPowerStable 40000) (powerTest { st := .off, lastReset := 4 })).mgmt.st = .off ∧
    (let g := (after (.inputBelowAux 35999) (powerTest { st := .ready, main := true, cycles := 7 })).mgmt
     g.st = .off ∧ g.aux = false ∧ g.mV = 35999 ∧ g.cycles = 7) ∧
    (after (.inputBelowAux 35999) (powerTest { st := .ready, main := true })).crumb.slots = [] ∧
    (after (.inputOutOfRange 39999) (powerTest { st := .ready, main := true })).mgmt.trip = 7 ∧
    (after (.inputOutOfRange 47501) (powerTest { st := .ready, main := true })).mgmt.trip = 8 ∧
    (after (.inputOutOfRange 47500) (powerTest { st := .ready, main := true })).mgmt.st = .ready := by
  decide +kernel

/-- Readings in 1/16 °C: each limit of the plausibility check met exactly, and passed by one. -/
theorem test_coolant : (80 : Int) ≤ 80 ∧ ((80 : Int) - 96).natAbs ≤ 16 ∧
    (after (.coolantOkStable ⟨80, 96, 128, 144⟩) (powerTest {})).mgmt.st = .selfCheck ∧
    (after (.coolantOkStable ⟨79, 96, 128, 144⟩) (powerTest {})).mgmt.st = .powering ∧
    (after (.coolantOkStable ⟨80, 97, 128, 144⟩) (powerTest {})).mgmt.st = .powering ∧
    (after (.coolantOkStable ⟨80, 96, 128, 145⟩) (powerTest {})).mgmt.st = .powering ∧
    (after (.plausibilityRetry ⟨80, 96, 128, 144⟩) (powerTest { coolantAck := true })).mgmt.pwrGood = true ∧
    (after (.plausibilityRetry ⟨721, 721, 720, 720⟩) (powerTest { coolantAck := true })).crumb.lastSeq = 1 ∧
    (after (.plausibilityRetry ⟨80, 96, 128, 144⟩) (powerTest { st := .ready })).mgmt.st = .ready ∧
    (after .coolantOkLoss (powerTest { st := .ready, main := true })).mgmt.trip = 6 ∧
    (after .coolantOkLoss (powerTest { coolant := true })).mgmt.coolant = false := by decide +kernel

/-- A module in SELF_CHECK, whose copy A of the record is this. -/
def checkTest (a : FlashCopy) (resume : Bool) : State :=
  { mgmt := { st := .selfCheck, main := true, copyA := a, resume4 := resume }
    sec := { tally := { config := 2, pending := some 9 } } }

theorem test_self_check : chosen (checkTest .unreadable false) = none ∧ (checkTest .unreadable false).mgmt.resume4 = false ∧
    (after (.selfCheck ⟨none, [], none, true⟩) (checkTest .unreadable true)).mgmt.st = .waitHost ∧
    (after (.selfCheck ⟨none, [], none, true⟩) (checkTest .unreadable true)).mgmt.aStatus = 3 ∧
    (after (.selfCheck ⟨some 2, [], none, true⟩) (checkTest .unreadable false)).mgmt.safeCause = 4 ∧
    (after (.selfCheck ⟨none, [(1, true), (1, false)], none, true⟩) (checkTest .unreadable false)).mgmt.safeCause = 5 := by
      decide +kernel

/-- A record that is signed, of the module's stepping, well formed and of the version in use is chosen. -/
theorem test_record_chosen (resume : Bool) : chosen (checkTest (.copy goodRecord) resume) = some (1, goodRecord) := by
  have h : goodRecord.signed = true ∧ (goodRecord.stepping != (0xB0#8 : BitVec 8)) = false ∧
  (goodRecord.version != 2) = false := by
    decide +kernel
  simp [chosen, copyStatus, copyRecord, checkTest, goodRecord_ok, h]

/-- Copy A is no record of this module, and copy B is not readable. -/
theorem test_copy_status : copyStatus (.copy smallRecord) (checkTest .unreadable false) = 2 ∧
    copyStatus .unreadable (checkTest .unreadable false) = 3 := by decide +kernel

/-- A reading in which nothing is hot but one junction. -/
def warmReading (t : Int) : GuardReading := ⟨[100, t], [100], [100], 100, 50⟩

/-- A module in RUNNING, with these groups active since tick 5. -/
def guardTest (active : BitVec 5) (now : Nat) : State :=
  { withCore {} with
    now := now, mgmt := { st := .running, main := true, record := some smallRecord, active := active, lastRaise := 5 } }

/-- A module in SAFE, with this cause. -/
def afterTrip (cause : BitVec 8) : State := { mgmt := { st := .safe, safeCause := cause, trip := 9, aux := true } }

theorem test_thermal_guard : (guardTest 0 9).mgmt.aux = true ∧ (guardTest 0 9).mgmt.main = true ∧ (guardTest 0 9).cur.isSome = true ∧
    (after (.thermalGuardReading (warmReading 1680)) (guardTest 0 9)).mgmt.active = 1 ∧
    (after (.thermalGuardReading (warmReading 1680)) (guardTest 0 9)).mgmt.episodes = 1 ∧
    (after (.thermalGuardReading (warmReading 1679)) (guardTest 0 9)).mgmt.active = 0 ∧
    (after (.thermalGuardReading (warmReading 1600)) (guardTest 1 9)).mgmt.active = 1 ∧
    (after (.thermalGuardReading (warmReading 1599)) (guardTest 1 9)).mgmt.active = 0 ∧
    (after (.thermalGuardReading (warmReading 1840)) (guardTest 0 9)).mgmt.trip = 1 ∧
    (after .thermalRaise (guardTest 1 196613)).mgmt.lastRaise = 196613 ∧
    (after .thermalRaise (guardTest 1 196612)).mgmt.lastRaise = 5 ∧
    (after (.thermalGuardReading (warmReading 1840)) (guardTest 0 9)).mgmt.active = 1 ∧
    (after (.thermalGuardReading (warmReading 1840)) (afterTrip 3)).mgmt.trip = 9 ∧
    (after (.thermalGuardReading (warmReading 1840)) (afterTrip 3)).mgmt.active = 1 ∧
    (after (.thermalGuardReading (warmReading 1840)) (afterTrip 1)).mgmt.trip = 1 := by decide +kernel

/-- A record of the Crumb Log. -/
def noteRecord : CrumbRec :=
  { seq := 8, severity := 1, source := 0, code := 0, time := 0, ctx := 0, state := 0, site := 0, layer := 0, op := 0
    superstep := 0, epoch := 0, detail := [], atT := 0 }

/-- A module in RUNNING, with a job in this state, a trim and a packet at a port. -/
def safeTest (st : CtxState) : State :=
  { withCore (runningCore {}) with
    ctxs := [(0, { st := st })], ports := (after (.latticeRow 0 (latHdr 2 3) []) (latTest {})).ports
    mgmt := { st := .running, main := true, record := some smallRecord, trims := [⟨3, 63⟩] }
    crumb := { slots := [(2, noteRecord)], fresh := [noteRecord] } }

theorem test_safe : (safeTest .running).traced = false ∧ (safeTest .running).cur = some 0 ∧ (safeTest .faulted).cur = some 0 ∧
    ((safeTest .running).port 0).transit.length = 1 ∧
    (after (.crossingMarginLost 4) (safeTest .running)).mgmt.safeCause = 1 ∧
    ((after (.crossingMarginLost 4) (safeTest .running)).ctx 0).st = .aborted ∧
    ((after (.crossingMarginLost 4) (safeTest .running)).port 0).transit = [] ∧
    (after .mgmtWatchdogExpiry (safeTest .faulted)).mgmt.safeCause = 2 ∧
    ((after .mgmtWatchdogExpiry (safeTest .faulted)).ctx 0).st = .faulted ∧
    (after .mgmtWatchdogExpiry { mgmt := { st := .safe, safeCause := 5 } }).mgmt.safeCause = 5 ∧
    (after (.crossingTrimStep 0 true) (safeTest .running)).mgmt.trims.map (·.trim) = [63] ∧
    (after (.crossingTrimStep 0 false) (safeTest .running)).mgmt.trims.map (·.trim) = [62] ∧
    (after (.crumbFlashCommit 8) (safeTest .running)).crumb.flash = [(2, noteRecord)] ∧
    (after (.crumbFlashCommit 9) (safeTest .running)).crumb.flash = [] ∧
      (after (.crumbFlashCommit 8) (safeTest .running)).crumb.fresh = [] ∧
    (after (.crossingTrimStep 319 false) (safeTest .running)).mgmt.trims = [⟨3, 63⟩] ∧
    (crumbTick { safeTest .running with now := 1600000 }).crumb.flash = [(2, noteRecord)] ∧
    (crumbTick { safeTest .running with now := 1599999 }).crumb.flash = [] := by decide +kernel

/-- A log whose first `n` slots hold records of one severity, numbered as they lie. -/
def fullLog (n severity : Nat) : CrumbLog :=
  { slots := (List.range n).map fun i => (i, { noteRecord with seq := i, severity := severity }) }

/-- Slot 0 holds the oldest record. -/
theorem fullLog_oldest (n severity : Nat) (h : 0 < n) : (fullLog n severity).slots.map (·.1) = List.range n ∧
    (0, { noteRecord with seq := 0, severity := severity }) ∈ (fullLog n severity).slots ∧
    ∀ x ∈ (fullLog n severity).slots, x = (0, { noteRecord with seq := 0, severity := severity }) ∨ 0 < x.2.seq := by
  refine ⟨by simp [fullLog, Function.comp_def], by simp [fullLog, h], fun x hx => ?_⟩
  obtain ⟨i, -, rfl⟩ := List.mem_map.mp hx
  rcases Nat.eq_zero_or_pos i with rfl | h
  · exact .inl rfl
  · exact .inr h

/-- The full log of records of severity 2 has an oldest one, and so has one of which only three slots are taken. -/
theorem test_full_log : (fullLog 16384 2).slots.map (·.1) = List.range 16384 ∧ (fullLog 3 2).slots.map (·.1) = List.range 3 :=
  ⟨(fullLog_oldest 16384 2 (by decide)).1, (fullLog_oldest 3 2 (by decide)).1⟩

/-- Of two records of one tick the more severe one is written first; of two ticks, the earlier one (R500). -/
theorem test_log_order :
    let c : CrumbSt := {}
    let error := { noteRecord with severity := 3 }
    let twice := fun (t : Nat) => ((c.add noteRecord 5).2.2.add error t).2.2.log
    (twice 5).slots.map (fun e => (e.1, e.2.severity, e.2.seq)) = [(0, 3, 1), (1, 1, 2)] ∧
    (twice 6).slots.map (fun e => (e.1, e.2.severity, e.2.seq)) = [(0, 1, 1), (1, 3, 2)] := by decide +kernel

theorem test_endpoints : (after (.setEndpointId 9 4) {}).host.eid = 4 ∧
    (after (.getEndpointId 9) { host := { eid := 4 } }).host.sent.map (fun y => (y.hdr, y.payload)) =
      [([9#8, 0#8, 2#8], [0#8, 4#8, 0#8, 0#8])] ∧
    (after (.getMessageTypeSupport 9) {}).host.sent.map (·.payload) = [[0#8, 1#8, 0x7F#8]] := by decide +kernel

/-! ### The block -/

/-- What a step leaves. -/
def stepped (s : State) : Option State :=
  match step s with
  | .next t => some t
  | _ => none

/-- The command in front runs, and leaves the queue; the one behind it waits. -/
theorem test_step : stepped { State.reset with pending := [.crossingTrimStep 0 true, .hostFillFrame] } =
    some { State.reset with pending := [.hostFillFrame] } := rfl

/-- With an empty queue the clock moves, while the auxiliary domain runs. -/
theorem test_tick : (stepped State.reset).map (·.now) = some 1 ∧
    (stepped { mgmt := { aux := false } }).map (·.now) = some 0 := by decide +kernel

/-- The counters of the Tally store keep to their limits at reset, and a counter may stand at its limit. -/
theorem test_tally : TallyOk State.reset ∧ TallyOk { sec := { tally := { next := 1048576, grade := 8, config := 1024 } } } ∧
    ¬TallyOk { sec := { tally := { next := 1048577 } } } ∧ ¬TallyOk { sec := { life := 1 } } ∧
    ¬TallyOk { sec := { locked := true } } := by unfold TallyOk; decide +kernel

/-- A word of the table is read as its command, whatever opcode is no row's is not (R80). -/
theorem test_decode : decodeTableWord 128 0 = none := by decide +kernel

/-! ### Events that complete: what the claims ask beyond the tests above -/

/-- A bundle of one SETMODE that waits. -/
def oneBundle : State := seqTest { wait := .bundle [⟨3, true, some (cmdOf 1 2 1)⟩] }

theorem test_core_events_complete : seqAwake 0 oneBundle ∧ cmdStation (cmdOf 1 2 1) = (stCode .matrix).toNat ∧
    cmdError oneBundle 0 (cmdOf 1 2 1) = none ∧ ((oneBundle.stq 0 .matrix).outstanding 0).length < 4 ∧
    ((after (.bundleIssueAfterWait 0) oneBundle).core 0).seq.pc = 16 ∧
    ((braidTest .matrix (loadbCmd false) {}).core 0).mx.loadLast ≤ 0 ∧
    (∀ i ∈ List.range 4, (((braidTest .matrix (loadbCmd false) {}).core 0).mx.array i).flipIn ≤ 0) ∧
    ((holdTest (raiser5 (some 105)) (some 116) 154).cluster 0).resv = [] := by unfold seqAwake; decide +kernel

/-- An episode since tick 100 at a limit of 65,536 ticks; raises that wait for their clearing. -/
def shortLimit : State :=
  { holdTest (raiser5 none) (some 116) 65636 with ctxs := [(0, { st := .running, launch := { holdLimit := 1 } })] }
def braidRaise : Raiser := { who := .island 5, cause := 5, s := 100 }
def thermalRaiseTest : Raiser := { who := .mgmt, cause := 7, s := 100 }

theorem test_hold_events_complete : shortLimit.hold.eps.map (fun e => (e.timed, e.limited, e.debugTicks)) = [(true, false, 0)] ∧
    shortLimit.curCtx.launch.holdLimit = 1 ∧ 0 ∈ shortLimit.allCores ∧ shortLimit.clusterOf 0 = 0 ∧
    ((after .holdLimit shortLimit).core 0).fault.code = 0x11 ∧
    (after (.braidCreditCauseClear 5) (holdTest braidRaise none 101)).hold.eps.flatMap (fun e => e.raisers.map (·.clear)) =
      [some 100] ∧
    (after .thermalCauseClear (holdTest thermalRaiseTest none 49251)).hold.eps.flatMap (fun e => e.raisers.map (·.clear)) =
      [some 49251] ∧
    256 * budgetOf (budgetTest 2561 [] []) (some 0) < windowSum (budgetTest 2561 [] []) (some 0) ∧
    windowSum (budgetTest 1280 [some 0] []) (some 0) ≤ 128 * budgetOf (budgetTest 1280 [some 0] []) (some 0) := by decide +kernel

theorem test_link_events_complete : portHears (latTest {}) 0 = true ∧ (latTest {}).landUsed 0 < 128 ∧
    ((latTest {}).port 0).transit = [] ∧ ((latTest {}).port 0).waitFor = none ∧ (latTest {}).fab.quar = false ∧
    (proofOf (latTest {}) (latHdr 0 3)).src / 8 = (latTest {}).moduleIndex / 8 ∧
    ((fabricRelease false).ctx 0).st = .running ∧ (fabricRelease false).proof.entry = none ∧
    ((fabricRelease false).ctx 0).arm = none ∧ ((fabricRelease false).ctx 0).switchAt = none ∧
    (fabricRelease false).obs.pendTrace = [] ∧ (fabricRelease false).obs.mode ≠ 1 ∧
    (after (.hostLinkRetrain true) (linkTest { link := .training })).host.link = .up := by decide +kernel

/-- A context of a one-core module in RUNNING, whose scrub ends. -/
theorem test_module_events_complete : opKind (opTest 0x0601) ≠ 7 ∧ (opTest 0x0601).cancel = none ∧
    (traceTest 2 0).obs.side.length < 64 ∧
    ((traceTest 1 0).core 0).trc.turnAt ≤ (traceTest 1 0).coreTick 0 ∧
    (checkTest (.copy goodRecord) false).sec.life ≠ 3 ∧ (checkTest (.copy goodRecord) false).sec.rekeyOpen = false := by
  decide +kernel

/-- The host's bulk transfers end ABORTED on entry to SAFE. -/
theorem test_safe_ends_bulk :
    (after (.crossingMarginLost 4) { safeTest .running with host := (rowsTest [] []).host }).host.jobs = [] ∧
    lastStatus (after (.crossingMarginLost 4) { safeTest .running with host := (rowsTest [] []).host }) = some 8 := by
  decide +kernel

end Sys2Proof.Tests
end

section
/-! SUPPORT. What the fields of a reply's header read (R428), what a reply and the end of an operation add to what has left and keep of
the operations and contexts, and how the restore of a saved context of another shape ends (R87). -/

namespace Sys2Proof.Machine

/-! ### Fields of strings put together -/

theorem field_append_left {a b : Bytes} {i n : Nat} (h : i + n ≤ a.length) : field (a ++ b) i n = field a i n := by
  unfold field
  rw [List.drop_append_of_le_length (by omega), List.take_append_of_le_length (by simp; omega)]

theorem field_append_right {a b : Bytes} {i : Nat} (n : Nat) (h : a.length ≤ i) : field (a ++ b) i n = field b (i - a.length) n := by
  unfold field
  rw [List.drop_append, List.drop_eq_nil_of_le h, List.nil_append]

theorem field_take {a : Bytes} {i n k : Nat} (h : i + n ≤ k) : field (a.take k) i n = field a i n := by
  unfold field
  rw [List.drop_take, List.take_take, Nat.min_eq_left (by omega)]

theorem field_drop (a : Bytes) (k i n : Nat) : field (a.drop k) i n = field a (k + i) n := by
  unfold field
  rw [List.drop_drop]

/-- A header keeps every field beside byte 5 when that byte is rewritten. -/
theorem field_rewriteFlags {h : Bytes} (b : Byte) {i n : Nat} (hl : 5 ≤ h.length) (hi : i + n ≤ 5 ∨ 6 ≤ i) :
    field (h.take 5 ++ [b] ++ h.drop 6) i n = field h i n := by
  have h5 : (h.take 5).length = 5 := by simp [hl]
  rcases hi with hi | hi
  · rw [List.append_assoc, field_append_left (by omega), field_take hi]
  · have h6 : (h.take 5 ++ [b]).length = 6 := by simp [hl]
    rw [field_append_right n (by omega), h6, field_drop, Nat.add_sub_cancel' hi]

/-! ### The header of a completion reply (R428) -/

theorem length_opHdr (o : Op) : (opHdr o).length = 5 := by simp [opHdr]

theorem five_le_length_replyHdr (h : Bytes) (status len : Nat) (params : Bytes) : 5 ≤ (replyHdr h status len params).length := by
  simp [replyHdr]

theorem tag_opHdr (o : Op) : field (opHdr o) 2 2 = o.tag.toNat := by
  have ht : leNat (leBytes 2 o.tag.toNat) = o.tag.toNat := by
    rw [leNat_leBytes]
    exact Nat.mod_eq_of_lt o.tag.isLt
  rw [opHdr, field_append_left (by simp), field_append_right 2 (by simp)]
  simpa [field, List.take_of_length_le] using ht

/-- Bytes 0 to 4 of a reply echo those of the command. -/
theorem field_replyHdr_echo {h : Bytes} (status len : Nat) (params : Bytes) {i n : Nat} (hl : h.length = 5) (hi : i + n ≤ 5) :
    field (replyHdr h status len params) i n = field h i n := by
  have hp : padTo 5 h = h := by
    rw [padTo, List.take_of_length_le (Nat.le_of_eq hl), hl, Nat.sub_self, List.replicate_zero, List.append_nil]
  rw [replyHdr, hp, List.append_assoc, List.append_assoc, field_append_left (by omega)]

/-- Byte 6 of a reply is its status. -/
theorem status_replyHdr (h : Bytes) {status : Nat} (len : Nat) (params : Bytes) (hs : status < 256) :
    field (replyHdr h status len params) 6 1 = status := by
  rw [replyHdr, List.append_assoc, List.append_assoc, field_append_right 1 (by simp)]
  simp [field, leNat, Nat.mod_eq_of_lt hs]

/-! ### A reply leaves (R428, R466) -/

/-- Behind what `s` has sent, `t` has sent something that ends with a packet of this interface, whose header is this one but perhaps for
byte 5. -/
def SentLast (i : Iface) (hdr : Bytes) (s t : State) : Prop :=
  ∃ before y, t.host.sent = s.host.sent ++ before ++ [y] ∧ y.iface = i ∧
    ∀ j n, j + n ≤ 5 ∨ 6 ≤ j → field y.hdr j n = field hdr j n

@[simp] theorem ops_flushEvents (i : Iface) (h : HostSt) : (flushEvents i h).ops = h.ops := by
  cases i with
  | renkai => rfl
  | mgmt => simp only [flushEvents]; split <;> rfl

theorem sent_flushEvents (i : Iface) (h : HostSt) : ∃ events, (flushEvents i h).sent = h.sent ++ events := by
  cases i with
  | renkai => exact ⟨h.evR, rfl⟩
  | mgmt =>
    simp only [flushEvents]
    split
    · exact ⟨_, rfl⟩
    · exact ⟨[], (List.append_nil _).symm⟩

@[simp] theorem ops_sendOut (i : Iface) (hdr payload : Bytes) (s : State) : (sendOut i hdr payload s).host.ops = s.host.ops := by
  simp only [sendOut]
  split <;> simp

@[simp] theorem ctx_sendOut (i : Iface) (hdr payload : Bytes) (s : State) (j : Nat) :
    (sendOut i hdr payload s).ctx j = s.ctx j := by
  simp only [sendOut]
  split <;> simp

theorem sent_sendOut (i : Iface) (hdr payload : Bytes) (s : State) :
    ∃ events, (sendOut i hdr payload s).host.sent = s.host.sent ++ events ++ [⟨i, hdr, payload, s.now, none⟩] := by
  obtain ⟨events, he⟩ := sent_flushEvents i s.host
  refine ⟨events, ?_⟩
  simp only [sendOut]
  split <;> simp [he]

@[simp] theorem ops_sendReply (i : Iface) (enc : Bool) (hdr payload : Bytes) (s : State) :
    (sendReply i enc hdr payload s).host.ops = s.host.ops := by
  simp only [sendReply]
  split <;> simp

/-- A reply, protected or not, shows the header that it was given, but for the flag byte. -/
theorem sentLast_sendReply (i : Iface) (enc : Bool) {hdr : Bytes} (payload : Bytes) (s : State) (hl : 5 ≤ hdr.length) :
    SentLast i hdr s (sendReply i enc hdr payload s) := by
  simp only [sendReply]
  split
  · obtain ⟨events, he⟩ := sent_sendOut i _ _ _
    exact ⟨events, _, he, rfl, fun j n h => field_rewriteFlags _ hl h⟩
  · obtain ⟨events, he⟩ := sent_sendOut i hdr payload s
    exact ⟨events, _, he, rfl, fun _ _ _ => rfl⟩

/-- Of the contexts a reply changes the counter of a session alone, or ends that session. -/
theorem ctx_sendReply (i : Iface) (enc : Bool) (hdr payload : Bytes) (s : State) (j : Nat) :
    ∃ x, (sendReply i enc hdr payload s).ctx j = { s.ctx j with sec := { (s.ctx j).sec with session := x } } := by
  simp only [sendReply]
  split
  · rw [ctx_sendOut, State.ctx_onCtx]
    split
    · next h => exact ⟨_, by rw [h]⟩
    · exact ⟨_, rfl⟩
  · exact ⟨_, ctx_sendOut ..⟩

/-! ### An operation ends (R432, R535) -/

@[simp] theorem ctx_dropTag (i : Iface) (tag : BitVec 16) (s : State) (j : Nat) : (dropTag i tag s).ctx j = s.ctx j := rfl

@[simp] theorem sent_dropTag (i : Iface) (tag : BitVec 16) (s : State) : (dropTag i tag s).host.sent = s.host.sent := rfl

@[simp] theorem ctx_endOp (id : BitVec 32) (state status : Nat) (s : State) (j : Nat) : (endOp id state status s).ctx j = s.ctx j := by
  unfold endOp
  split <;> simp

@[simp] theorem sent_endOp (id : BitVec 32) (state status : Nat) (s : State) : (endOp id state status s).host.sent = s.host.sent := by
  unfold endOp
  split <;> simp

/-- An operation that has ended no longer runs. -/
@[simp] theorem op_endOp (id : BitVec 32) (state status : Nat) (s : State) : (endOp id state status s).op id = none := by
  unfold endOp
  split
  · simp [State.op]
  · assumption

theorem id_of_op {s : State} {id : BitVec 32} {o : Op} (h : s.op id = some o) : o.id = id := by
  simpa using List.find?_some h

section
variable {s : State} {id : BitVec 32} {o : Op} (h : s.op id = some o)
include h

/-- The completion of an operation answers its command on its interface, by its tag and with the status. -/
theorem answered_complete {status : Nat} (params payload : Bytes) (hs : status < 256) :
    answered o.iface o.tag status s (complete id status params payload s) := by
  obtain ⟨before, y, hsent, hif, hfield⟩ := sentLast_sendReply o.iface o.enc (blockPad payload) s
    (five_le_length_replyHdr (opHdr o) status (blockPad payload).length params)
  refine ⟨y, ?_, hif, ?_, ?_⟩
  · simp [complete, h, hsent]
  · rw [hfield 2 2 (by omega), field_replyHdr_echo _ _ _ (length_opHdr o) (by omega), tag_opHdr]
  · rw [hfield 6 1 (by omega), status_replyHdr _ _ _ hs]

theorem op_complete (status : Nat) (params payload : Bytes) : (complete id status params payload s).op id = none := by
  simp [complete, h]

end

/-- Of the contexts the completion of an operation changes the counter of a session alone, or ends that session. -/
theorem ctx_complete (id : BitVec 32) (status : Nat) (params payload : Bytes) (s : State) (j : Nat) :
    ∃ x, (complete id status params payload s).ctx j = { s.ctx j with sec := { (s.ctx j).sec with session := x } } := by
  unfold complete
  split
  · simpa using ctx_sendReply ..
  · exact ⟨_, rfl⟩

/-! ### The restore of another shape (R87) -/

theorem exec_operationComplete {s : State} {id : BitVec 32} {o : Op} (e : OpEnd) (h : s.op id = some o)
    (hc : cancelPast o s.now = false) : exec (.operationComplete id e) s = .next (operationComplete o e s) := by
  have hx : exec (.operationComplete id e) s = execOperationComplete id e s := rfl
  simp [hx, execOperationComplete, h, hc]

theorem operationComplete_restore {o : Op} (e : OpEnd) {s : State} (ho : o.opcode = 0x0205) (hm : mainOff s = false) :
    operationComplete o e s = restoreDone o s := by
  simp [operationComplete, ho, hm]

theorem restoreDone_otherShape {o : Op} {x : SavedCtx} {s : State} (hx : mfind s.images (o.args.headD 0) = some x)
    (hst : (s.ctx o.ctx.toNat).st = .empty ∨ (s.ctx o.ctx.toNat).st = .aborted) (hshape : x.bin.shape ≠ s.shape) :
    restoreDone o s = complete o.id stShape [] [] s := by
  have hfree : ((s.ctx o.ctx.toNat).st == .empty || (s.ctx o.ctx.toNat).st == .aborted) = true := by simpa using hst
  unfold restoreDone
  rw [hx]
  simp [hfree, hshape]

/-- Settles O59: the restore ends as a completion with REFUSED_SHAPE, which answers (`answered_complete`) and lies beside the cores and
memory (`HostSide.complete`); of the contexts it touches a session's counter alone (`ctx_complete`). `Tests.test_restores` evaluates a
restore that meets the hypotheses. -/
theorem restoreOfOtherShapeRefused : Obligations.restoreOfOtherShapeRefused := by
  unfold Obligations.restoreOfOtherShapeRefused
  intro id e o x s hop hopcode hmain hcancel himage hst hshape
  have hexec : exec (.operationComplete id e) s = .next (complete id stShape [] [] s) := by
    rw [exec_operationComplete e hop hcancel, operationComplete_restore e hopcode hmain,
      restoreDone_otherShape himage hst hshape, id_of_op hop]
  have hbeside : (complete id stShape [] [] s).cores = s.cores ∧ (complete id stShape [] [] s).clusters = s.clusters ∧
      (complete id stShape [] [] s).mem = s.mem ∧ (complete id stShape [] [] s).sync = s.sync := by
    obtain ⟨_, _, _, _, _, _, ht⟩ := HostSide.complete id stShape [] [] s
    simp [ht]
  obtain ⟨hcores, hclusters, hmem, hsync⟩ := hbeside
  refine ⟨_, hexec, answered_complete hop _ _ (by decide), op_complete hop .., hcores, hclusters, hmem, hsync, fun j => ?_⟩
  obtain ⟨session, hctx⟩ := ctx_complete id stShape [] [] s j
  simp [hctx]

end Sys2Proof.Machine
end

section
/-! SUPPORT. What signals leave behind on their way to a cell, what the release of its waiters keeps, and what the cell holds when
signals are added (R261–R263). -/

namespace Sys2Proof.Machine

/-! ### Cells -/

@[simp] theorem State.cell_putCell_self (s : State) (r : CellRef) (x : Cell) : (s.putCell r x).cell r = x := by
  cases r <;> simp [State.putCell, State.cell]

@[simp] theorem State.overflows_putCell (s : State) (r : CellRef) (x : Cell) :
    (s.putCell r x).sync.overflows = s.sync.overflows := by
  cases r <;> rfl

@[simp] theorem State.cores_putCell (s : State) (r : CellRef) (x : Cell) : (s.putCell r x).cores = s.cores := by
  cases r <;> rfl

@[simp] theorem State.core_putCell (s : State) (r : CellRef) (x : Cell) (k : Nat) : (s.putCell r x).core k = s.core k := by
  simp [State.core]

/-! ### The waiters of a cell (R261) -/

/-- `t` is `s` but for the count and the queue of a cell and the way on of its waiters: its OVF, the overflow count and the fault
record and recovery state of every core stand. -/
structure ReleaseOnly (r : CellRef) (s t : State) : Prop where
  ovf : (t.cell r).ovf = (s.cell r).ovf
  overflows : t.sync.overflows = s.sync.overflows
  faults : ∀ k, (t.core k).fault = (s.core k).fault ∧ (t.core k).recov = (s.core k).recov

theorem ReleaseOnly.refl (r : CellRef) (s : State) : ReleaseOnly r s s := ⟨rfl, rfl, fun _ => ⟨rfl, rfl⟩⟩

theorem ReleaseOnly.trans {r : CellRef} {a b c : State} (h : ReleaseOnly r a b) (g : ReleaseOnly r b c) : ReleaseOnly r a c :=
  ⟨g.ovf.trans h.ovf, g.overflows.trans h.overflows,
    fun k => ⟨(g.faults k).1.trans (h.faults k).1, (g.faults k).2.trans (h.faults k).2⟩⟩

theorem ReleaseOnly.putCell {r : CellRef} {s : State} {x : Cell} (h : x.ovf = (s.cell r).ovf) : ReleaseOnly r s (s.putCell r x) :=
  ⟨by simp [h], by simp, by simp⟩

/-- The departure of the packet of a sync operation adds that packet and no more. -/
theorem ctlFor_state (r : CellRef) (src dst k : Nat) (s : State) :
    ∃ p n, (ctlFor r src dst k s).2 = { s with pkts := p, nextId := n } := by
  cases r <;> exact ⟨_, _, rfl⟩

/-- A release sends a packet and rewrites the sequencer of its waiter; a core that does not wait is let alone. -/
theorem wake_cases (r : CellRef) (t k : Nat) (s : State) :
    wake r t k s = s ∨ ∃ p n f, wake r t k s = State.onSeq { s with pkts := p, nextId := n } k f := by
  unfold wake
  split
  · obtain ⟨p, n, h⟩ := ctlFor_state r (homeOf r) (s.clusterOf k) k s
    exact .inr ⟨p, n, _, by rw [← h]⟩
  · exact .inl rfl

@[simp] theorem cell_wake (r r' : CellRef) (t k : Nat) (s : State) : (wake r t k s).cell r' = s.cell r' := by
  obtain h | ⟨p, n, f, h⟩ := wake_cases r t k s
  · rw [h]
  · rw [h]
    cases r' <;> rfl

theorem ReleaseOnly.wake (r : CellRef) (t k : Nat) (s : State) : ReleaseOnly r s (wake r t k s) := by
  obtain h | ⟨p, n, f, h⟩ := wake_cases r t k s
  · rw [h]
    exact .refl r s
  · refine ⟨by simp, by simp [h, State.onSeq], fun j => ?_⟩
    rw [h]
    by_cases hj : j = k
    · subst hj
      simp [State.core]
    · rw [State.core_onSeq_ne _ _ hj]
      exact ⟨rfl, rfl⟩

theorem ReleaseOnly.releaseWaiters (r : CellRef) (t n : Nat) (s : State) : ReleaseOnly r s (releaseWaiters r t n s) := by
  induction n generalizing s with
  | zero => exact .refl r s
  | succ n ih =>
    simp only [Machine.releaseWaiters]
    split
    · split
      · refine .trans (.trans (.putCell ?_) (.wake ..)) (ih _)
        rfl
      · exact .refl r s
    · exact .refl r s

/-- A lone waiter that the count covers takes its amount and leaves the queue empty. -/
theorem cell_releaseWaiters_one {r : CellRef} {s : State} {j a : Nat} (t : Nat) (hq : (s.cell r).queue = [(j, a)])
    (ha : a ≤ (s.cell r).count) :
    (releaseWaiters r t 1 s).cell r = { s.cell r with count := (s.cell r).count - a, queue := [] } := by
  simp [releaseWaiters, hq, ha]

/-! ### Signals at their cell (R261–R263) -/

/-- `t` is `s` but for what signals leave behind on arrival: the records and counts of R262 and their packets. -/
def SignalsNoted (s t : State) : Prop :=
  ∃ f o p m, t = { s with free := f, obs := o, pkts := p, sync := { s.sync with mw := m } }

theorem SignalsNoted.refl (s : State) : SignalsNoted s s := ⟨_, _, _, _, rfl⟩

theorem SignalsNoted.trans {a b c : State} (h : SignalsNoted a b) (g : SignalsNoted b c) : SignalsNoted a c := by
  obtain ⟨_, _, _, _, rfl⟩ := h
  obtain ⟨_, _, _, _, rfl⟩ := g
  exact ⟨_, _, _, _, rfl⟩

theorem SignalsNoted.multiWaiter (x : SigFly) (n : Nat) (s : State) : SignalsNoted s (multiWaiter x n s) := by
  unfold Machine.multiWaiter
  dsimp only
  split
  · exact .refl s
  · split <;> exact ⟨_, _, _, _, rfl⟩

theorem SignalsNoted.consume (p : Option Nat) (s : State) : SignalsNoted s (s.consume p) := by
  cases p <;> exact ⟨_, _, _, _, rfl⟩

theorem SignalsNoted.foldl (n : Nat) (xs : List SigFly) (s : State) :
    SignalsNoted s (xs.foldl (fun s x => (Machine.multiWaiter x n s).consume x.pkt) s) := by
  induction xs generalizing s with
  | nil => exact .refl s
  | cons x xs ih => exact ((SignalsNoted.multiWaiter x n s).trans (.consume ..)).trans (ih _)

/-- Signals that arrive together count as the sum of their amounts. -/
theorem foldl_amount (xs : List SigFly) : xs.foldl (fun a x => a + x.amount) 0 = (xs.map (·.amount)).sum := by
  rw [List.sum_eq_foldl, List.foldl_map]

/-- Signals are added to their cell, to its ceiling, before its waiters are released (R261, R263). -/
theorem applySignals_adds (r : CellRef) (xs : List SigFly) (s : State) :
    let sum := (s.cell r).count + (xs.map (·.amount)).sum
    let past := decide (max32 < sum)
    ∃ u, applySignals r xs s = releaseWaiters r (s.ticks (homeOf r)) (s.cell r).queue.length u ∧ u.cores = s.cores ∧
      u.cell r = { count := min max32 sum, ovf := (s.cell r).ovf || past, queue := (s.cell r).queue } ∧
      u.sync.overflows = if past then min max32 (s.sync.overflows + 1) else s.sync.overflows := by
  obtain ⟨f, o, p, m, h⟩ := SignalsNoted.foldl (s.cell r).queue.length xs s
  refine ⟨_, rfl, ?_, ?_, ?_⟩ <;> simp [h, foldl_amount, satAdd]

/-- Signals that are due and whose packets have come are applied (R269, R327). -/
theorem exec_signalApply_due {r : CellRef} {x : SigFly} {xs : List SigFly} {s : State} (hsigs : firstSigs s r = x :: xs)
    (hlive : s.frozen (homeOf r) = false) (hdue : x.dueAt (s.ticks (homeOf r)) ≤ s.ticks (homeOf r))
    (hcome : ∀ y ∈ x :: xs, s.arrived y.pkt = true) :
    exec (.signalApply r) s = .next (applySignals r (x :: xs) s) := by
  have hexec : exec (.signalApply r) s = .next (signalApply r s) := rfl
  have hall : (x :: xs).all (fun y => s.arrived y.pkt) = true := List.all_eq_true.mpr hcome
  rw [hexec, signalApply, hsigs]
  simp [hlive, hdue, -List.all_cons, hall]

/-- Settles O58: signals are added up to the ceiling before any waiter is released (`applySignals_adds`), and a release touches neither
OVF nor the overflow count nor a fault record (`ReleaseOnly.releaseWaiters`). `Tests.test_signal_overflow` evaluates two signals that
meet the hypotheses. -/
theorem signalOverflowStops : Obligations.signalOverflowStops := by
  unfold Obligations.signalOverflowStops
  intro r x xs s hsigs
  dsimp only
  intro hlive hdue hcome hpast
  have hpast : max32 < (s.cell r).count + ((x :: xs).map (·.amount)).sum := hpast
  obtain ⟨u, happly, hcores, hcell, hover⟩ := applySignals_adds r (x :: xs) s
  simp only [decide_eq_true hpast, Bool.or_true, if_true, Nat.min_eq_left (Nat.le_of_lt hpast)] at hcell hover
  have hkeep : ReleaseOnly r u (applySignals r (x :: xs) s) := happly ▸ .releaseWaiters ..
  refine ⟨_, exec_signalApply_due hsigs hlive hdue hcome, ?_, ?_, ?_, ?_, ?_⟩
  · rw [hkeep.ovf, hcell]
  · rw [hkeep.overflows, hover, max32]
  · simpa [State.core, hcores] using hkeep.faults
  · intro hq
    rw [happly, hq, List.length_nil, releaseWaiters, hcell, max32]
  · intro j a d m v hq _ ha
    have huq : (u.cell r).queue = [(j, a)] := by rw [hcell, hq]
    have huc : (u.cell r).count = 0xFFFFFFFF := by rw [hcell, max32]
    rw [happly, hq, List.length_singleton, cell_releaseWaiters_one _ huq (huc ▸ ha), huc]

end Sys2Proof.Machine
end

section
/-! SUPPORT. What a command that is taken up does with its checks (R430, R431), when the module has a running context (R383), and the
checks of the epoch-set command (R393). -/

namespace Sys2Proof.Machine

/-! ### Take-up and the checks of R430 -/

/-- A command that is taken up acts on the state that it has left its queue in. -/
theorem takeAny_takenUp {opc : Nat} {p : Pending} {s : State} (body : Pending → State → State) (h : takenUp opc p s) :
    takeAny opc body s = .next (body p (s.taken opc p)) := by
  obtain ⟨⟨rest, hhead⟩, haux, hopc, hfree, hbarrier⟩ := h
  have howed : (barrier opc && bulkOwed s p.num) = false := by simpa using hbarrier
  simp [takeAny, takeUp, hhead, haux, hopc, hfree, howed, State.onHost, State.taken]

theorem opened_taken {p : Pending} {s : State} (opc : Nat) (h : opened p s) : opened p (s.taken opc p) := h

section
variable {p : Pending} {g : Gate} {s : State} (go : State → State)

/-- Of the checks before the parameters, an opened command can fail its own alone. -/
theorem checks_opened (h : opened p s) :
    (!s.optionS && p.enc) = false ∧ (p.enc && (s.ctx p.ctx).sec.session.isNone) = false ∧ p.plain.isNone = false := by
  obtain ⟨hprotected, hplain⟩ := h
  cases henc : p.enc with
  | false => simpa using hplain
  | true =>
    obtain ⟨hopt, hsession⟩ := hprotected henc
    simp [hopt, ← Option.not_isSome, hsession, hplain]

theorem gate_notAllowed (h : opened p s) (hopt : g.optS = false) (hallowed : g.allowed = false) :
    gate p g go s = refuse p stRefused s := by
  obtain ⟨hprotect, -, -⟩ := checks_opened h
  simp [gate, hopt, hprotect, hallowed]

theorem gate_badParam {params : Bytes} (h : opened p s) (hopt : g.optS = false) (hallowed : g.allowed = true)
    (hdenied : g.denied = false) (hbad : g.bad = some params) : gate p g go s = reply p stBadParam params [] true s := by
  obtain ⟨hprotect, hsession, hplain⟩ := checks_opened h
  simp [gate, hopt, hprotect, hallowed, hsession, hplain, hdenied, hbad]

theorem gate_passes (h : opened p s) (hopt : g.optS = false) (hallowed : g.allowed = true) (hdenied : g.denied = false)
    (hbad : g.bad = none) (hbusy : g.busy = none) : gate p g go s = go s := by
  obtain ⟨hprotect, hsession, hplain⟩ := checks_opened h
  simp [gate, hopt, hprotect, hallowed, hsession, hplain, hdenied, hbad, hbusy]

end

/-! ### The running context (R383) -/

theorem CtxState.active_iff (st : CtxState) : st.active = true ↔ st ∈ [CtxState.running, .held, .faulted] := by
  cases st <;> decide

theorem cur_isNone_iff (s : State) :
    s.cur.isNone = true ↔ ¬ ∃ i, i < 4 ∧ (s.ctx i).st ∈ [CtxState.running, .held, .faulted] := by
  simp only [State.cur, Option.isNone_iff_eq_none, List.find?_eq_none, List.mem_range, CtxState.active_iff, not_exists, not_and]

/-! ### Fields as numbers -/

theorem leNat_lt (b : Bytes) : leNat b < 256 ^ b.length := by
  induction b with
  | nil => simp [leNat]
  | cons x b ih =>
    have hx : x.toNat < 256 := x.isLt
    rw [leNat, List.length_cons, Nat.pow_succ]
    omega

theorem field_lt (b : Bytes) (i n : Nat) : field b i n < 256 ^ n :=
  Nat.lt_of_lt_of_le (leNat_lt _) (Nat.pow_le_pow_right (by decide) (List.length_take_le n _))

/-! ### EPOCH_SET (R393) -/

/-- The checks of the epoch-set command. -/
def epochGate (p : Pending) (s : State) : Gate :=
  let e := BitVec.ofNat 32 (field p.hdr 12 4)
  { allowed := inStates [.ready, .running] s && s.cur.isNone && !s.fab.quar
    bad := badIf (!(plainForm p [(12, 4)]) || e == 0 || !decide (s.fab.epoch < e)) }

theorem exec_epochSet_takenUp {p : Pending} {s : State} (h : takenUp 0x0704 p s) :
    exec .epochSet s = .next (gate p (epochGate p (s.taken 0x0704 p))
      (fun s => replySt p stOk (s.onFab fun f => { f with epoch := BitVec.ofNat 32 (field p.hdr 12 4) })) (s.taken 0x0704 p)) := by
  have hexec : exec .epochSet s = execEpochSet s := rfl
  rw [hexec, execEpochSet, takeAny_takenUp _ h]
  rfl

theorem epochGate_allowed_iff {p : Pending} {s : State} (hst : s.mgmt.st = .ready ∨ s.mgmt.st = .running) :
    (epochGate p s).allowed = true ↔
      ¬ ((∃ i, i < 4 ∧ (s.ctx i).st ∈ [CtxState.running, .held, .faulted]) ∨ s.fab.quar = true) := by
  have hin : inStates [.ready, .running] s = true := by simpa [inStates] using hst
  rw [not_or, ← cur_isNone_iff]
  simp [epochGate, hin]

/-- The value has four bytes, so that none of it is lost in the 32 bits of the epoch. -/
theorem epochGate_bad {p : Pending} (s : State) (hform : plainForm p [(12, 4)] = true) :
    (epochGate p s).bad = if field p.hdr 12 4 = 0 ∨ field p.hdr 12 4 ≤ s.fab.epoch.toNat then some [] else none := by
  have hnat : (BitVec.ofNat 32 (field p.hdr 12 4)).toNat = field p.hdr 12 4 := Nat.mod_eq_of_lt (field_lt p.hdr 12 4)
  have hzero : BitVec.ofNat 32 (field p.hdr 12 4) = 0#32 ↔ field p.hdr 12 4 = 0 := by
    rw [← BitVec.toNat_inj, hnat, BitVec.toNat_ofNat, Nat.zero_mod]
  simp [epochGate, badIf, hform, hzero, BitVec.lt_def, hnat]

/-- Settles O60: the command meets its checks in the order of R430. The state check fails for a busy module (`epochGate_allowed_iff`), the
parameter check for a value that is 0 or no greater than the epoch (`epochGate_bad`); past both the epoch becomes the value.
`Tests.test_status_commands` evaluates the last two answers, `Tests.test_epochSet_refused` the first. -/
theorem epochSetAnswers : Obligations.epochSetAnswers := by
  unfold Obligations.epochSetAnswers
  intro p s htaken hopened hst hform
  replace hopened := opened_taken 0x0704 hopened
  have hallowed := epochGate_allowed_iff (p := p) (s := s.taken 0x0704 p) hst
  have hbad := epochGate_bad (s.taken 0x0704 p) hform
  rw [exec_epochSet_takenUp htaken]
  refine ⟨fun hbusy => ?_, fun hfree hlow => ?_, fun hfree hpos hgreater => ?_⟩
  · have hno : (epochGate p (s.taken 0x0704 p)).allowed = false :=
      Bool.eq_false_iff.mpr fun h => hallowed.mp h hbusy
    rw [gate_notAllowed _ hopened rfl hno]
    rfl
  · have hlowBad : (epochGate p (s.taken 0x0704 p)).bad = some [] := hbad.trans (if_pos hlow)
    rw [gate_badParam _ hopened rfl (hallowed.mpr hfree) rfl hlowBad]
    rfl
  · have hnot : ¬ (field p.hdr 12 4 = 0 ∨ field p.hdr 12 4 ≤ s.fab.epoch.toNat) := by omega
    have hgood : (epochGate p (s.taken 0x0704 p)).bad = none := hbad.trans (if_neg hnot)
    rw [gate_passes _ hopened rfl (hallowed.mpr hfree) rfl hgood rfl]
    rfl

end Sys2Proof.Machine

namespace Sys2Proof.Tests
open Sys2Proof.Machine

/-- A value that the epoch would take is refused while a context is HELD, and while the module is quarantined. -/
theorem test_epochSet_refused :
    let p := waiting 0x0704 (leBytes 4 9) []
    let held : State := { hostTest p (inState .running) with fab := { epoch := 8 }, ctxs := [(2, { st := .held })] }
    let quarantined : State := { hostTest p (inState .ready) with fab := { epoch := 8, quar := true } }
    plainForm p [(12, 4)] = true ∧ (taken p held = true ∧ lastStatus (after .epochSet held) = some 3) ∧
      taken p quarantined = true ∧ lastStatus (after .epochSet quarantined) = some 3 := by decide +kernel

end Sys2Proof.Tests
end
